-- ==== Sys2Proof/Word.lean ====
section
/-! DEFINITION. The word types of the machine (R3, R89): bytes, 64-bit registers, lane masks, and a
sum of lists. -/

namespace Sys2Proof

/-- A byte of memory (R3). -/
abbrev Byte := BitVec 8

/-- A 64-bit register or memory word. -/
abbrev Word := BitVec 64

/-- One bit per lane of a braid, bit l for lane l (R20). -/
abbrev Mask := BitVec 32

/-- A program counter: a byte offset into a code object (R135). -/
abbrev Pc := BitVec 32

/-- A 4-bit format tag (R58). -/
abbrev Tag := BitVec 4

end Sys2Proof
end

