-- ==== Sys2Proof/Syntax.lean ====
section
/-! DEFINITION. The steps of the machine: one constructor of Instr for every row of the table of
operations and events. An instruction carries the fields of R131 as decoded; an event carries what
its agent brings to it. -/

namespace Sys2Proof

/-- The fields of an instruction (R131). E and L are zero where the instruction's length has none. -/
structure Fields where
  /-- LEN: 00 for 64 bits, 01 for 96, 10 for 128. -/
  len : BitVec 2
  /-- S: the instruction is a safe point. -/
  s : Bool
  /-- M: meld. -/
  m : Bool
  /-- G: guard, bit 3 the sense, bits 2 to 0 the predicate. -/
  g : BitVec 4
  d : BitVec 7
  a : BitVec 7
  b : BitVec 7
  c : BitVec 7
  /-- F: format selector. -/
  f : BitVec 4
  /-- X: function or modifier byte. -/
  x : BitVec 8
  /-- H: handle index, immediate, or group slot and scope. -/
  h : BitVec 8
  /-- E: extension word. -/
  e : BitVec 32
  /-- L: literal word. -/
  l : BitVec 32
deriving DecidableEq, Repr

/-- An encoding that is not an instruction (R141, R143, R144): its bits as fetched, and the DETAIL
and OPND that ecause presents (R149). -/
structure Illegal where
  raw : BitVec 128
  detail : Nat
  opnd : Nat
deriving DecidableEq, Repr

/-- A braid of a bound team: the team's binding number in the model and the braid's rank. -/
structure BraidRef where
  uid : Nat
  rank : Nat
deriving DecidableEq, Repr

/-- The kinds of access a walk distinguishes (R355). -/
inductive AccessKind where
  | read
  | write
  | fetch
deriving DecidableEq, Repr

/-- A bind record (R334). -/
structure BindRec where
  launch : Word
  team : Nat
  slots : BitVec 64
  base : Nat
  tiles : BitVec 8
  core : Nat
  part : Nat
  sup : Bool
  opc : Nat
  /-- A reserved field is set. -/
  rsv : Bool
deriving DecidableEq, Repr

/-- What Gazebo gives a supervisor team, which has no launch record (R324). -/
structure SupParams where
  code : Nat
  entry : Nat
  handles : Nat
  vblk : Nat
  scrGran : Nat
deriving DecidableEq, Repr

/-- What the monitors measure in one power sample (R396, R397). -/
structure PowerReading where
  pkgW : Nat
  partW : Nat
  temp : BitVec 48
  vcore : BitVec 32
  proc : BitVec 32
deriving DecidableEq, Repr

/-- A fabric control message about a gang (R345, R346): which partition of this device receives it,
the gang, the sender's coordinate, and for VALIDATED the number of members the sender holds. -/
structure GangMsg where
  part : Nat
  gang : Word
  src : Nat
  count : Nat
  /-- PAUSED: every member on the sender is in an idempotent region. -/
  idem : Bool
  /-- The group's pattern, for a device that has no launch of the gang (R346). -/
  peers : Word := 0
  /-- fabjob of the sender (R372). -/
  job : Nat := 0
deriving DecidableEq, Repr

/-- A vector clock (R280-R283): how far each party has been seen, by party number. The model's own
form of the detector's frontier (R289). -/
abbrev Clocks := List (Nat × Nat)

/-- A release as an acquire meets it (R281, R283): the releasing party's clocks and its scope. -/
structure Release where
  vc : Clocks
  /-- Scope code of R140. -/
  scope : Nat
  /-- The releasing party: its team's binding number, braid, launch and linear index. -/
  uid : Nat
  rank : Nat
  launch : Option Nat
  index : Nat
  /-- Trellis index, at group scope. -/
  group : Nat
  /-- The phase that an arrival was counted for (R281); 0 for the other releases. -/
  phase : Nat
  /-- A release made on another device: its coordinate, the group it names at group scope, and the groups of
  its party's team, as numbers that hold on every device (R283). -/
  src : Option Nat
  key : Nat
  keys : List Nat
  /-- The read that met it was performed on the releasing party's device, for a party of another one (R295). -/
  far : Bool := false
deriving DecidableEq, Repr

/-- The party of a remote access as its target's detector meets it (R289, R295): the issuing thread or command, its
clocks at the issue, its team's groups, and what the access releases; a reply carries the releases that a
synchronising read met. -/
structure Origin where
  party : Nat
  /-- The number under which the same thread's remote stores are recorded. -/
  self : Nat
  vc : Clocks
  uid : Nat
  rank : Nat
  launch : Option Nat
  index : Nat
  trk : Nat
  engine : Bool
  keys : List Nat
  /-- A synchronising access (R279). -/
  sync : Bool
  rels : List Release
deriving DecidableEq, Repr

/-- The kinds of transaction record (R372); codes 12 to 15 are reserved. -/
inductive RecKind where
  | store | load | loadReply | atomic | atomicReply | reduce | ack | close | closeReply
  | chunk | ready | control
  | reserved (code : Nat)
deriving DecidableEq, Repr

/-- A transaction record of the fabric (R372). -/
structure FabRecord where
  check : BitVec 32
  pattern : Word
  offset : Int
  peerH : Nat
  f : Tag
  op : Nat
  ret : Bool
  bt : Nat
  j : Nat
  kind : RecKind
  data : List Byte
  src : Nat
  job : Nat
  tag : Nat
  /-- Poison: the DETAIL of cause 0x05 that a reply carries, 0 for none (R124, R329). -/
  poison : Nat
  /-- The count an acknowledgement or close reply carries (R246, R251); the bytes a load asks for. -/
  count : Nat
  /-- The error bits a close reply carries, in the layout of the summary's bits 6 to 0 (R251). -/
  errs : BitVec 7
  /-- Gang whose window the record addresses, 0 for none, and the pattern of its devices (R119). -/
  gang : Word
  peers : Word
  origin : Origin
  /-- The gangs that the issuing team belongs to, with the patterns of their devices (R124). -/
  gangs : List (Word × Word) := []
deriving DecidableEq, Repr

/-- A message of a matched transfer (R301): to the sender, ready-to-receive, a chunk asked for again, or
the acknowledgement; to the receiver, one chunk. -/
structure XferMsg where
  /-- Trellis index and gang of the group, and the launch on this device where it has no gang. -/
  group : Nat
  gang : Word
  launch : Nat
  /-- Position of the match among those of its group, TAG, ranks and family (R254). -/
  ord : Nat
  /-- To the sender: the acknowledgement of step 5, or chunk `chunk` is asked for again (R308). -/
  done : Bool
  again : Bool
  wtag : Nat
  srcRank : Nat
  dstRank : Nat
  reduce : Bool
  len : Nat
  gen : Nat
  chunk : Nat
  data : List Byte
  op : Nat
  f : Tag
  src : Nat
  /-- CRC-32C over a chunk's bytes and their offset in the transfer (R252, R377). -/
  check : BitVec 32
  /-- The message ends the match with the error of R256. -/
  error : Bool
  /-- The receive buffer's address, in ready-to-receive (R256, R301). -/
  addr : Nat := 0
  /-- fabjob of the sender (R372). -/
  job : Nat := 0
deriving DecidableEq, Repr

/-- What a fabric unit sends: destination coordinate and record, a transfer message to the sender or to the
receiver of a match, or a control record. A chunk longer than the 192 bytes of a record (R372) goes as several: each
record but the last is a piece, and the last stands for the chunk. -/
inductive Outgoing where
  | access (dst : Nat) (r : FabRecord)
  | xfer (dst : Nat) (toReceiver : Bool) (m : XferMsg)
  | control (dst : Nat) (code : Nat) (m : GangMsg)
  | piece (dst : Nat) (kind : RecKind) (check : BitVec 32) (src job : Nat) (data : List Byte)
deriving DecidableEq, Repr

/-- A flit (R371) as its receiver meets it: the header's fields, the payload, and the tag (R373). -/
structure Flit where
  ret : Nat
  seq : Nat
  dst : Nat
  hop : Bool
  len : Nat
  ks : Bool
  type : Nat
  ctr : Nat
  tag : BitVec 128
  load : List Outgoing
  /-- Marker: the slot used from the next flit on. -/
  slot : Bool
  freed : Nat
  mark : Nat
  /-- Retry request: the SEQ the receiver expects. -/
  want : Nat
deriving DecidableEq, Repr

/-- The packets of an RDMA WRITE that a host port takes (R392). -/
inductive RdmaOp where
  | first | middle | last | only
deriving DecidableEq, Repr

/-- A packet of a host RDMA WRITE (R392, R393): the port it comes in by, queue pair, packet sequence number and bytes;
First and Only packets carry the remote key, the address and the length of the whole write. -/
structure RdmaWrite where
  part : Nat
  port : Nat
  qp : Nat
  op : RdmaOp
  psn : Nat
  rkey : BitVec 32
  addr : Nat
  len : Nat
  data : List Byte
deriving DecidableEq, Repr

/-- A queue pair as the root creates it (R392): its number, host port, path MTU and first packet sequence number. -/
structure QpSpec where
  num : Nat
  port : Nat
  mtu : Nat
  psn : Nat
deriving DecidableEq, Repr

/-- What an IEEE 1588 message tells the clock (R394): the offset measured in nanoseconds, whether
it locks, and the port of the time source. -/
structure PtpMessage where
  offset : Int
  locked : Bool
  port1 : Bool
deriving DecidableEq, Repr

/-- A memory region of the host ports (R392, R393): base, length, remote key, translation context,
the queue pair bound to it, and the landing area it is, if any. -/
structure Region where
  base : Nat
  len : Nat
  rkey : BitVec 32
  ctx : Nat
  qp : Option Nat
  area : Option Nat
deriving DecidableEq, Repr

/-- A route-table entry (R369). -/
inductive Route where
  | direct (link : Nat)
  | relay (node : Nat)
deriving DecidableEq, Repr

/-- What bring-up meets and installs (R398, R401): the root image's signature and key, the measurements, the
partition shape, the reserved slots by core, the fabric keys, tables and registers, and the CXL memory attached. -/
structure BringUp where
  /-- The Ed448 signature verifies under the key that comes with the image, and that key's SHAKE256 digest. -/
  sigOk : Bool
  keyDigest : BitVec 512
  /-- The image is one of Slomor's test images (R399). -/
  testImage : Bool := false
  romMeas : List Word
  rootMeas : List Word
  policyMeas : List Word
  /-- 0 one, 1 two, 2 four partitions. -/
  shape : Nat
  supslots : List (Nat × Nat)
  /-- Schedule table: link, peer coordinate, peer port. -/
  sched : List (Nat × Nat × Nat)
  /-- Route tables, by partition and destination. -/
  routes : List (Nat × Nat × Route)
  /-- Fabric keys by link, and fabcoord, fabext and fabjob by partition. -/
  keys : List (Nat × BitVec 256) := []
  fabric : List (Nat × Nat × Nat × Nat) := []
  /-- CXL ports with memory, and its bytes. -/
  cxl : List (Nat × Nat)
  /-- The package slope that the operator provisions (R396). -/
  slope : Nat := 40
  /-- A step that fails in this bring-up (R401). -/
  fails : Option Nat := none
deriving DecidableEq, Repr

/-- The steps of the machine, one constructor per row of the opcode table. -/
inductive Instr where
  /-- Changes nothing except the program counter; used for padding. (R193) -/
  | nop (f : Fields)
  /-- Adds integer elements of A and B, narrowed under NMODE or wrapped. (R160) -/
  | add (f : Fields)
  /-- Subtracts integer elements of B from A, narrowed or wrapped. (R160) -/
  | sub (f : Fields)
  /-- Adds 64-bit values with carry-in predicate and writes a carry-out predicate. (R162) -/
  | addc (f : Fields)
  /-- Subtracts 64-bit values with borrow-in predicate and writes a borrow-out predicate. (R162) -/
  | subb (f : Fields)
  /-- Multiplies integer elements, narrowed or wrapped. (R160) -/
  | mul (f : Fields)
  /-- Writes the high half of the integer product of each element pair. (R160) -/
  | mulh (f : Fields)
  /-- Computes a·b + c per integer element, narrowed or wrapped. (R160) -/
  | mad (f : Fields)
  /-- Integer division truncated toward zero, with defined results for division by zero. (R163) -/
  | div (f : Fields)
  /-- Integer remainder carrying the sign of a, with defined results for division by zero. (R163) -/
  | rem (f : Fields)
  /-- Writes the lesser integer element of A and B. (R160) -/
  | min (f : Fields)
  /-- Writes the greater integer element of A and B. (R160) -/
  | max (f : Fields)
  /-- Writes the absolute value of each integer element, narrowed or wrapped. (R160) -/
  | abs (f : Fields)
  /-- Writes the negation of each integer element, narrowed or wrapped. (R160) -/
  | neg (f : Fields)
  /-- Bitwise AND of whole registers, keeping the tag of A. (R166) -/
  | and (f : Fields)
  /-- Bitwise OR of whole registers, keeping the tag of A. (R166) -/
  | or (f : Fields)
  /-- Bitwise XOR of whole registers, keeping the tag of A. (R166) -/
  | xor (f : Fields)
  /-- Writes the complement of A. (R166) -/
  | not (f : Fields)
  /-- Shifts each element left by the amount in B. (R166) -/
  | shl (f : Fields)
  /-- Shifts each element right, unsigned. (R166) -/
  | shr (f : Fields)
  /-- Shifts each element right, arithmetic. (R166) -/
  | sar (f : Fields)
  /-- Rotates each element left by n mod w. (R166) -/
  | rot (f : Fields)
  /-- Extracts a bit field selected by a control word, zero- or sign-extended. (R165) -/
  | bfx (f : Fields)
  /-- Inserts the low bits of B into a bit field of A. (R165) -/
  | bfi (f : Fields)
  /-- Counts the one bits of each element. (R160) -/
  | popc (f : Fields)
  /-- Counts the leading zero bits of each element. (R160) -/
  | clz (f : Fields)
  /-- Reverses the bits of each element. (R166) -/
  | brev (f : Fields)
  /-- Selects A where a predicate holds and B otherwise. (R166) -/
  | sel (f : Fields)
  /-- Compares one integer element of A and B and writes a predicate. (R164) -/
  | cmp (f : Fields)
  /-- Computes a + b·2^sh modulo 2^64. (R160) -/
  | lea (f : Fields)
  /-- Floating-point addition rounded once. (R167) -/
  | fadd (f : Fields)
  /-- Floating-point subtraction rounded once. (R167) -/
  | fsub (f : Fields)
  /-- Floating-point multiplication rounded once. (R167) -/
  | fmul (f : Fields)
  /-- Fused multiply-add rounded once. (R167) -/
  | fma (f : Fields)
  /-- Writes the lesser floating-point operand, with −0 below +0. (R168) -/
  | fmin (f : Fields)
  /-- Writes the greater floating-point operand, with −0 below +0. (R168) -/
  | fmax (f : Fields)
  /-- Compares one floating-point element and writes a predicate. (R169) -/
  | fcmp (f : Fields)
  /-- Correctly rounded floating-point division. (R167) -/
  | fdiv (f : Fields)
  /-- Correctly rounded reciprocal. (R167) -/
  | frcp (f : Fields)
  /-- Correctly rounded reciprocal square root. (R167) -/
  | frsq (f : Fields)
  /-- Correctly rounded square root. (R167) -/
  | fsqrt (f : Fields)
  /-- Correctly rounded 2^a. (R167) -/
  | fexp2 (f : Fields)
  /-- Correctly rounded log2 a. (R167) -/
  | flog2 (f : Fields)
  /-- Correctly rounded sin(π·a). (R167) -/
  | fsin (f : Fields)
  /-- Correctly rounded cos(π·a). (R167) -/
  | fcos (f : Fields)
  /-- Rounds a floating-point value to an integral value in the same format. (R170) -/
  | frnd (f : Fields)
  /-- Writes a one-hot class mask for each floating-point element. (R170) -/
  | fclass (f : Fields)
  /-- Converts elements of A from a source format to the destination format. (R171) -/
  | cvt (f : Fields)
  /-- Packs the low or high halves of A and B into one register. (R172) -/
  | pack (f : Fields)
  /-- Unpacks the low or high half of A, zero-filling the rest. (R172) -/
  | unpk (f : Fields)
  /-- Applies a block scale and narrows F32 values to a narrow format. (R173) -/
  | qnt (f : Fields)
  /-- Derives an E8 block scale from the F32 values of sixteen lanes. (R173) -/
  | qntDerive (f : Fields)
  /-- Widens narrow elements to F32 under a block scale. (R174) -/
  | dqnt (f : Fields)
  /-- Applies the 64-point Hadamard transform to a block held by the braid. (R175) -/
  | hadq (f : Fields)
  /-- Sets the format tag of a register without changing its bits. (R176) -/
  | tag (f : Fields)
  /-- Reads elements from other lanes under an index word, with fallback. (R178) -/
  | xlr (f : Fields)
  /-- Broadcasts one lane's register to every lane. (R179) -/
  | xlb (f : Fields)
  /-- Shifts or rotates whole registers within lane segments. (R180) -/
  | xls (f : Fields)
  /-- Combines a predicate across active lanes (all, any, uniform, ballot). (R181) -/
  | vote (f : Fields)
  /-- Compares raw register values across active lanes. (R182) -/
  | matchLanes (f : Fields)
  /-- Reduces each element position across active lanes in a fixed tree order. (R183) -/
  | red (f : Fields)
  /-- Forms inclusive or exclusive prefixes across lanes in a fixed order. (R184) -/
  | scan (f : Fields)
  /-- Copies A to D. (R185) -/
  | mov (f : Fields)
  /-- Writes an immediate operand to D. (R185) -/
  | movi (f : Fields)
  /-- Reads a special register. (R185) -/
  | mfs (f : Fields)
  /-- Writes a special register; only nmode is writable. (R185) -/
  | mts (f : Fields)
  /-- Sends each active lane to a relative target. (R189) -/
  | br (f : Fields)
  /-- Multi-way branch on up to four predicate-target pairs. (R190) -/
  | brm (f : Fields)
  /-- Sends each active lane through a jump table in the code object. (R191) -/
  | jtb (f : Fields)
  /-- Pushes the return address and branches in each active lane. (R189) -/
  | call (f : Fields)
  /-- Indirect call to a target taken from a register. (R189) -/
  | calli (f : Fields)
  /-- Pops the return stack and returns in each active lane. (R189) -/
  | ret (f : Fields)
  /-- Ends each active lane; the team's exit begins when all braids have exited. (R192) -/
  | exit (f : Fields)
  /-- Sets path bits from a predicate and enters a melded region. (R194) -/
  | meld (f : Fields)
  /-- Writes consecutive entries of a rename table. (R195) -/
  | mapt (f : Fields)
  /-- Clears meld state and path bits. (R194) -/
  | unmeld (f : Fields)
  /-- Arrives at a team or group barrier with a release. (R196) -/
  | barArv (f : Fields)
  /-- Waits for the phase of the lane's last arrival, then acquires and writes the broken bit. (R197) -/
  | barWait (f : Fields)
  /-- Arrives at a phase object for a given phase. (R201) -/
  | pharr (f : Fields)
  /-- Waits until a phase object's phase has passed, then acquires. (R202) -/
  | phwait (f : Fields)
  /-- Passes the team's ticket in a group ticket sequence. (R205) -/
  | tktTake (f : Fields)
  /-- Waits until the sequence serves the team's rank. (R205) -/
  | tktWait (f : Fields)
  /-- Waits for the braid's Hitch turn in deterministic mode. (R207) -/
  | hitchWait (f : Fields)
  /-- Ends or forfeits the braid's Hitch turn. (R207) -/
  | hitchPass (f : Fields)
  /-- Orders the lane's memory accesses at a scope. (R208) -/
  | fence (f : Fields)
  /-- Makes the team triggered with a device-scope release. (R209) -/
  | trig (f : Fields)
  /-- Makes the PC group not ready for one consideration. (R210) -/
  | yield (f : Fields)
  /-- Makes active lanes wait for n arithmetic clocks. (R211) -/
  | sleep (f : Fields)
  /-- A sleep's clock count expires and its lanes continue. (R211) -/
  | sleepExpiry (b : BraidRef)
  /-- Creates one child launch per active lane by queuing launch records. (R213) -/
  | launch (f : Fields)
  /-- Creates one child launch from the lowest active lane's record. (R213) -/
  | launchUni (f : Fields)
  /-- Records a pending carve-out with new VBLK and SCR_GRAN. (R214) -/
  | carve (f : Fields)
  /-- A pending carve-out takes effect at a completing barrier once commands drain and granules are found. (R66) -/
  | carveTakesEffect (uid base : Nat)
  /-- Detaches the team from a window group. (R215) -/
  | detach (f : Fields)
  /-- Marks the start of an idempotent region at entry. (R216) -/
  | idemBegin (f : Fields)
  /-- Ends the team's idempotent region. (R216) -/
  | idemEnd (f : Fields)
  /-- Raises user-level trap cause 0x10. (R218) -/
  | trap (f : Fields)
  /-- Requests a debug stop, traps with cause 0x11, or does nothing. (R218) -/
  | bkpt (f : Fields)
  /-- Ends the emulation handler and returns lanes to epc or enext. (R219) -/
  | emret (f : Fields)
  /-- Writes a keyed-generator word from the launch's declared stream. (R220) -/
  | rng (f : Fields)
  /-- Reads the core clock count or the IEEE 1588 time. (R221) -/
  | clk (f : Fields)
  /-- Adds to a Folly progress counter. (R222) -/
  | prog (f : Fields)
  /-- A reserved opcode or illegal encoding is fetched and raises cause 0x01. (R143) -/
  | illegalEncoding (i : Illegal)
  /-- Loads n bytes per active lane through a handle. (R226) -/
  | ld (f : Fields)
  /-- Stores n bytes per active lane through a handle. (R227) -/
  | st (f : Fields)
  /-- Performs one uniform load from a scalar base. (R226) -/
  | ldu (f : Fields)
  /-- Prefetches, locks or unlocks a cache line. (R228) -/
  | pf (f : Fields)
  /-- Performs a read-modify-write per lane at the location's ordering point. (R229) -/
  | atom (f : Fields)
  /-- Loads from a single remote target through a coordinate pattern. (R247) -/
  | ldx (f : Fields)
  /-- Stores to every device of a pattern's target set in a batch. (R248) -/
  | stx (f : Fields)
  /-- Performs a remote atomic at each target. (R249) -/
  | atx (f : Fields)
  /-- Contributes data to a reduction at the pattern's root. (R250) -/
  | rstx (f : Fields)
  /-- Closes a batch and waits for peer replies, writing a summary. (R251) -/
  | bclose (f : Fields)
  /-- The BCLOSE timeout expires and the summary is written with TIMEOUT set. (R251) -/
  | closeTimeout (uid bt : Nat)
  /-- Starts an engine copy into memory or an operand slot. (R234) -/
  | cpy (f : Fields)
  /-- Starts an engine gather of rows, optionally indexed. (R235) -/
  | gath (f : Fields)
  /-- Starts an engine scatter of rows, optionally indexed. (R235) -/
  | scat (f : Fields)
  /-- Submits a dependence-graph node, starting it if its count is zero. (R241) -/
  | dgn (f : Fields)
  /-- Links two dependence-graph nodes. (R242) -/
  | dgl (f : Fields)
  /-- Binds operand slot names to free physical slots. (R260) -/
  | claim (f : Fields)
  /-- Waits for commands naming the slots, then scrubs and frees them. (R261) -/
  | release (f : Fields)
  /-- Starts a matrix multiply-accumulate command on operand slots. (R266) -/
  | mma (f : Fields)
  /-- Starts a gather-and-multiply command. (R267) -/
  | gmma (f : Fields)
  /-- Waits on a tile, then zeroes it and tags it F32. (R268) -/
  | accz (f : Fields)
  /-- Waits on a tile, then reads elements of one row into a scalar. (R269) -/
  | accrd (f : Fields)
  /-- Starts a command that loads tile rows from memory. (R270) -/
  | accwr (f : Fields)
  /-- Starts a command that stores tile rows to memory. (R271) -/
  | accst (f : Fields)
  /-- Starts a Hadamard transform of tile rows. (R272) -/
  | hadt (f : Fields)
  /-- Starts quantisation of a tile region into an operand slot. (R273) -/
  | qtile (f : Fields)
  /-- Posts an unarmed queue-pair work entry. (R254) -/
  | qpwPost (f : Fields)
  /-- Arms the team's matching work entries on a counter threshold. (R255) -/
  | qpwArm (f : Fields)
  /-- Adds to a hardware counter with a device-scope release. (R257) -/
  | cntAdd (f : Fields)
  /-- Waits until a counter reaches a threshold, then acquires. (R257) -/
  | cntWait (f : Fields)
  /-- Reads a system register. (R326) -/
  | srd (f : Fields)
  /-- Writes a system register that has no behaviour of its own. (R326) -/
  | swr (f : Fields)
  /-- Writes a stopped team's context image, optionally releasing it. (R331) -/
  | ctxsv (f : Fields)
  /-- Restores a context image into a prepared binding. (R332) -/
  | ctxld (f : Fields)
  /-- Invalidates held translations and waits for their users to drain. (R333) -/
  | tlbi (f : Fields)
  /-- Settles a fault record by resuming the faulted party. (R330) -/
  | iretResume (f : Fields)
  /-- Settles a fault record by killing the team. (R330) -/
  | iretKill (f : Fields)
  /-- Settles a fault record by cancelling the command or work entry. (R330) -/
  | iretCancel (f : Fields)
  /-- An engine element is written in full and its bitmap bit is set. (R233) -/
  | engineElementLands (uid trk elem : Nat)
  /-- A held node whose count reaches zero starts its command once a tracker is free. (R241) -/
  | nodeStart (uid off : Nat)
  /-- The matrix array adds one K group of an MMA into the tile. (R266) -/
  | mmaStep (uid trk : Nat)
  /-- The sequencer performs one row step of ACCWR, ACCST, HADT or QTILE. (R274) -/
  | matrixRowStep (uid trk row : Nat)
  /-- A page-table walk completes and resolves or faults the waiting accesses. (R355) -/
  | translationWalk (part ctx va : Nat) (kind : AccessKind)
  /-- A fault record is posted to the fault queue once space exists, and k0 of the supervisor is raised. (R327) -/
  | faultRecordPost (part : Nat)
  /-- A held exit completes when every window peer has detached or exited. (R35) -/
  | heldExitComplete (uid : Nat)
  /-- A record leaving the launch queue is validated and its completion record written. (R23) -/
  | launchValidation (part : Nat)
  /-- The launch unit rereads a predecessor's STATE and starts the dependent launch when reached. (R41) -/
  | predecessorPoll (launch : Nat)
  /-- Gazebo kills a single team and its held resources are treated. (R38) -/
  | teamKill (launch index : Nat)
  /-- A write to lkill kills every team of a launch. (R42) -/
  | launchKill (part : Nat) (doneRec : Word)
  /-- A bind record binds a pending team and starts it at ENTRY. (R335) -/
  | bind (r : BindRec) (sup : SupParams)
  /-- A bind record reserves slots, granules and tiles for a restore. (R335) -/
  | prepareForRestore (r : BindRec)
  /-- A stop record discards or begins saving a team's admission unit. (R343) -/
  | stop (r : BindRec)
  /-- Every braid of a stopping unit has stopped and the save engine writes its images. (R343) -/
  | teamSaved (uid off : Nat)
  /-- A bind record relocates a running team to a new BASE on its core. (R348) -/
  | move (r : BindRec)
  /-- A bind record starts a restored team. (R335) -/
  | start (r : BindRec)
  /-- A bind record frees a supervisor or prepared binding. (R335) -/
  | releaseBinding (r : BindRec)
  /-- A head unit has waited 1 ms unplaced and may pre-empt lower priorities. (R341) -/
  | headWaitExpiry (part launch index : Nat) (victims : List Nat)
  /-- A stop not completed after 10 ms is reported to system software. (R343) -/
  | stopReportExpiry (uid : Nat)
  /-- A core over its threshold sheds its longest-resident team. (R347) -/
  | thermalMigration (core temp : Nat)
  /-- A core reaching 115 °C stops issuing. (R396) -/
  | thermalTrip (core temp : Nat)
  /-- A tripped core that has cooled to 105 °C resumes issuing. (R396) -/
  | thermalRecover (core temp : Nat)
  /-- The 1 ms power sample sets the limiter floor and ceiling and may bind filler, run holding steps or throttle. (R350) -/
  | powerSample (part : Nat) (p : PowerReading)
  /-- A member device asks the gang coordinator to pause the gang. (R345) -/
  | pauseRequest (m : GangMsg)
  /-- The coordinator tells each device to stop its gang members. (R345) -/
  | pause (m : GangMsg)
  /-- A device reports its members stopped and their window accesses performed. (R345) -/
  | paused (m : GangMsg)
  /-- The coordinator tells each device to save its members. (R345) -/
  | save (m : GangMsg)
  /-- A device reports its members restored or bound, stopped. (R345) -/
  | ready (m : GangMsg)
  /-- The coordinator tells each device to start its members. (R345) -/
  | go (m : GangMsg)
  /-- A gang share failed with cause 0x07 and the others free their shares. (R346) -/
  | fail (m : GangMsg)
  /-- A device reports that its gang share passed validation. (R346) -/
  | validated (m : GangMsg)
  /-- A remote store record arrives, is expanded and performed at the target. (R248) -/
  | storeRecord (part : Nat) (r : FabRecord)
  /-- A remote load request is performed at its target. (R247) -/
  | loadRecord (part : Nat) (r : FabRecord)
  /-- A remote load's data returns to the origin lane. (R247) -/
  | loadReply (part : Nat) (r : FabRecord)
  /-- A remote atomic is performed at the target's ordering point. (R249) -/
  | atomicRecord (part : Nat) (r : FabRecord)
  /-- A remote atomic's old value returns to the origin. (R249) -/
  | atomicReply (part : Nat) (r : FabRecord)
  /-- A reduction contribution arrives at the root and is matched. (R250) -/
  | reduceContribution (part : Nat) (r : FabRecord)
  /-- A delivery acknowledgement is summed and forwarded toward the origin. (R246) -/
  | acknowledgement (part : Nat) (r : FabRecord)
  /-- A close request reaches a peer, which replies once its batch accesses are performed. (R251) -/
  | batchClose (part : Nat) (r : FabRecord)
  /-- A peer's close reply reaches the closing team. (R251) -/
  | closeReply (part : Nat) (r : FabRecord)
  /-- A receive entry's ready-to-receive message reaches the sender. (R301) -/
  | readyToReceive (part : Nat) (m : XferMsg)
  /-- An armed work entry's counter reaches its threshold and the entry fires. (R256) -/
  | workEntryReady (uid entry : Nat)
  /-- A transfer chunk arrives and is written, reduced, held, parked or spilled. (R301) -/
  | chunk (part : Nat) (m : XferMsg)
  /-- A held or spilled chunk becomes applicable and is refetched and applied. (R305) -/
  | spillRefetch (uid entry chunk : Nat)
  /-- A data flit is checked and accepted, discarded or refused. (R374) -/
  | dataFlit (link : Nat) (f : Flit)
  /-- A marker flit switches the receiver to the new key slot. (R375) -/
  | markerFlit (link : Nat) (f : Flit)
  /-- A control flit carrying a control record is accepted. (R371) -/
  | controlFlit (link : Nat) (f : Flit)
  /-- An idle flit is accepted and its slot returns applied. (R371) -/
  | idleFlit (link : Nat) (f : Flit)
  /-- A slot-state flit sets the sender's returned-slot count. (R376) -/
  | slotStateFlit (link : Nat) (f : Flit)
  /-- A retry request makes the sender resend buffered flits from the expected SEQ. (R374) -/
  | retryRequestFlit (link : Nat) (f : Flit)
  /-- A new rotor matching begins a link's dwell. (R368) -/
  | dwellStart (time : Nat)
  /-- A link goes down after four empty dwells or counter exhaustion. (R375) -/
  | linkDown (link : Nat)
  /-- Gazebo installs the next key in the idle slot of both link ends. (R375) -/
  | keyInstall (link : Nat) (key : BitVec 256)
  /-- The active counter reaches its limit and the sender asks for a new key. (R375) -/
  | keyRequest (link : Nat)
  /-- A host RDMA WRITE is checked and performed into a memory region. (R393) -/
  | rdmaWrite (w : RdmaWrite)
  /-- An armed landing slot enters the launch queue once room exists. (R339) -/
  | landingSlotEntersQueue (part area : Nat)
  /-- An unsupported host packet is refused and its queue pair enters error. (R392) -/
  | invalidRequest (part qp : Nat)
  /-- The Gazebo root creates a host queue pair, with its memory regions, on request. (R392) -/
  | queuePairCreate (part : Nat) (q : QpSpec) (regions : List Region)
  /-- Gazebo sends the oldest core dump to the host. (R366) -/
  | dumpSend (part : Nat)
  /-- The host acknowledges a dump and its ring space is freed. (R366) -/
  | dumpAcknowledged (part : Nat)
  /-- An IEEE 1588 message updates the device clock by slewing. (R394) -/
  | ptpMessage (m : PtpMessage)
  /-- The clock loses lock and runs free. (R394) -/
  | ptpLockLost
  /-- Lock returns; fabric links go down if the offset exceeds 200 ns. (R394) -/
  | ptpRelock (m : PtpMessage)
  /-- The root returns a signed attestation report. (R398) -/
  | attestationRequest (nonce : BitVec 256)
  /-- A signed command advances the life-cycle state after kill and wipe. (R399) -/
  | lifeCycleCommand (target : Nat) (signed : Bool)
  /-- The root kills every team, wipes and brings up the new partitions. (R395) -/
  | partitionShapeChange (shape : Nat)
  /-- An attached CXL device reports Sanitize completion. (R400) -/
  | cxlSanitizeComplete (port : Nat)
  /-- Bring-up runs from step 1 after power-on reset. (R401) -/
  | powerOnReset (b : BringUp)
  /-- A warm reset from the host runs bring-up. (R401) -/
  | warmReset (b : BringUp)
  /-- A partition reset runs bring-up from step 4 for its quarters. (R401) -/
  | partitionReset (part : Nat)
  /-- A group about to issue at a breakpoint location requests a debug stop. (R384) -/
  | breakpointMatch (b : BraidRef) (pc : Nat) (bp : Nat)
  /-- Every braid of the team has stopped and a type 2 trace record is posted. (R384) -/
  | debugStopComplete (uid : Nat)
  /-- dbgcmd resume lets a debug-stopped team run. (R385) -/
  | debugResume (part binding : Nat)
  /-- dbgcmd step runs a stopped team to its next safe point. (R385) -/
  | debugStep (part binding : Nat)
  /-- At a sampling clock the core posts a sample record for a debug launch. (R383) -/
  | traceSample (core : Nat) (b : BraidRef)
  /-- A waiting non-sample trace record is posted once the ring has space. (R382) -/
  | traceRecordPost (part : Nat)
  /-- A follyctl write with RUN = 1 starts a causal trial. (R386) -/
  | follyTrialStart (part : Nat) (ctl : Word)
  /-- A follyctl write with RUN = 0 ends a trial early. (R386) -/
  | follyTrialStop (part : Nat)
  /-- A trial's duration elapses and a type 3 record is posted. (R387) -/
  | follyTrialExpiry (part : Nat)
  /-- An rpmode write arms a prepared binding for replay. (R390) -/
  | replayArm (part binding : Nat)
  /-- Gazebo writes a G register that has no behaviour of its own. (R326) -/
  | gazeboRegisterWrite (part num idx : Nat) (v : Word)
  /-- A fabric link that went down returns to service, and the flits and remote accesses waiting on it proceed. (R375) -/
  | linkUp (link : Nat)
  /-- Gazebo's save engine restores a saved team's image from the save area into a prepared binding, leaving it stopped. (R335) -/
  | saveEngineRestore (uid off : Nat)
  /-- A wipe of the device or partition finishes, after which launches may be validated and landing areas may accept writes. (R400) -/
  | wipeComplete (part : Nat)
  /-- During a Folly trial, a held braid's paid count catches up with the trial's total delay and the braid becomes ready again. (R387) -/
  | follyHoldEnd (b : BraidRef)
  /-- Gazebo sends telemetry records, and likewise the trace and fault records of R392, to the host by RDMA WRITE. (R397) -/
  | telemetryRingSend (part : Nat)
deriving DecidableEq, Repr

end Sys2Proof
end

