-- ==== Sys2Proof/Machine/Legal.lean ====
section
/-! DEFINITION. Which encodings are instructions (R137-R142): for every instruction its major opcode,
its class, the lengths the opcode map permits, the role of each field, and what its statement allows
in F, X, H, E and L. The same table answers which fields name vectors (R81, R133), which
instructions are braid-wide (R78) and which classes never pair (R74). -/

namespace Sys2Proof

/-- What a statement makes of a register field (R137, R138). -/
inductive Role where
  /-- No role: the field is zero, and so is its kind bit. -/
  | zero
  /-- Vector or scalar, as the kind bit says. -/
  | reg
  /-- A vector register. -/
  | vec
  /-- A scalar s0-s63. -/
  | scal
  /-- A predicate p0-p7. -/
  | pred
  /-- An accumulator tile c0-c7. -/
  | tile
  /-- An operand slot o0-o63. -/
  | slot
  /-- A counter k0-k63. -/
  | ctr
  /-- Any 7-bit value, naming no register that the instruction reads. -/
  | num
deriving DecidableEq, Repr

/-- The families of the opcode map (R142). -/
inductive OpClass where
  | nop | lane | xlane | ctrl | splice | sync | team | traps | mem | fabric | engine | matrix
  | coll | priv
deriving DecidableEq, Repr

/-- Why an encoding is illegal: DETAIL and OPND of ecause (R149), or none. -/
abbrev Bad := Option (Nat × Nat)

/-- The shape of an instruction: the lengths it permits, whether X[7:4] are kind bits, the roles of
D, A, B and C, and the checks of its statement on the remaining fields. -/
structure Shape where
  lens : List (BitVec 2)
  kinds : Bool
  d : Role
  a : Role
  b : Role
  c : Role
  h : Bad := none
  e : Bad := none
  f : Bad := none
  x : Bad := none
  l : Bad := none

/-- What the opcode map says of an instruction. -/
structure Info where
  fields : Fields
  op : Nat
  cls : OpClass
  shape : Shape

/-- The lengths of the key letters of R142. -/
def lenA : List (BitVec 2) := [0, 1, 2]
def lenB : List (BitVec 2) := [0]
def lenC : List (BitVec 2) := [1]
def lenD : List (BitVec 2) := [1, 2]
def lenE : List (BitVec 2) := [0, 1]
def lenF : List (BitVec 2) := [2]

/-- A field value that the statement does not define: DETAIL 5 (R141). -/
def need (ok : Bool) (opnd : Nat) : Bad := if ok then none else some (5, opnd)

/-- A field that has no role: DETAIL 6 (R141). -/
def unused (isZero : Bool) (opnd : Nat) : Bad := if isZero then none else some (6, opnd)

/-- The first of two complaints. -/
def Bad.orElse (p q : Bad) : Bad :=
  match p with
  | some w => some w
  | none => q

/-- Fields without a role. -/
def noH (f : Fields) : Bad := unused (f.h == 0) 5
def noE (f : Fields) : Bad := unused (f.e == 0) 6
def noF (f : Fields) : Bad := unused (f.f == 0) 8
def noX (f : Fields) : Bad := unused (f.x == 0) 9
def noL (f : Fields) : Bad := unused (f.l == 0) 10

/-- The variant bits X[3:0]. -/
def Fields.variant (f : Fields) : Nat := f.x.toNat % 16

/-- The kind bits of D, A, B and C (R138). -/
def Fields.kindD (f : Fields) : Bool := f.x.getLsbD 7
def Fields.kindA (f : Fields) : Bool := f.x.getLsbD 6
def Fields.kindB (f : Fields) : Bool := f.x.getLsbD 5
def Fields.kindC (f : Fields) : Bool := f.x.getLsbD 4

/-- The element width of a format tag in bits; 64 for untagged (R58, R89). -/
def fmtWidth (t : Tag) : Nat :=
  match t.toNat with
  | 1 | 5 | 13 | 14 => 8
  | 2 | 6 | 11 | 12 => 16
  | 3 | 7 | 10 => 32
  | 15 => 6
  | _ => 64

/-- The number of elements of a format in a register (R89). -/
def fmtCount (t : Tag) : Nat :=
  match t.toNat with
  | 15 => 10
  | _ => 64 / fmtWidth t

/-- Variant bits of an instruction that has none (R156). -/
def variantZero (f : Fields) : Bad := need (f.variant == 0) 9
/-- X[0] is the only variant bit. -/
def variantBit (f : Fields) : Bad := need (f.variant ≤ 1) 9
/-- The rounding field of R158. -/
def variantRound (f : Fields) : Bad :=
  need (f.variant == 0 || (8 ≤ f.variant && f.variant ≤ 13)) 9

/-- An integer format (R160). -/
def fInt (f : Fields) : Bad := need (1 ≤ f.f.toNat && f.f.toNat ≤ 8) 8
/-- A floating-point format of R167. -/
def fFloat (f : Fields) : Bad := need (9 ≤ f.f.toNat && f.f.toNat ≤ 12) 8
/-- A floating-point format other than F64 (R167). -/
def fFloatShort (f : Fields) : Bad := need (10 ≤ f.f.toNat && f.f.toNat ≤ 12) 8
/-- Formats of the shifts and BREV: any but L6 (R166). -/
def fShift (f : Fields) : Bad := need (f.f != 15) 8
/-- F shapes the immediate of the long forms and is zero in the 64-bit form (R166). -/
def fImm (f : Fields) : Bad := if f.len == 0 then noF f else none
/-- The narrow formats of QNT, MMA and QTILE: I8, F16, B16, E4M3, E5M2, L6. -/
def fNarrow (f : Fields) : Bad := need ([1, 11, 12, 13, 14, 15].contains f.f.toNat) 8
/-- The integer formats of atomics (R229). -/
def fAtomInt (t : Tag) : Bool := [3, 4, 7, 8].contains t.toNat
def fAtomFloat (t : Tag) : Bool := [9, 10].contains t.toNat

/-- Source B of the lane-arithmetic class: a register in the 64-bit form, zero in the others (R139). -/
def srcB (f : Fields) : Role := if f.len == 0 then .reg else .zero
/-- A scalar operand B that the 96-bit form takes from E. -/
def scalB (f : Fields) : Role := if f.len == 0 then .scal else .zero

/-- H as scope and slot (R140): the permitted scopes, and whether the statement names a group. -/
def hScope (f : Fields) (ok : Nat → Bool) (group : Bool) : Bad :=
  let scope := f.h.toNat % 8
  let slot := f.h.toNat / 8 % 4
  need (f.h.toNat < 32 && ok scope && (slot == 0 || scope == 2 || group)) 5

/-- Scope code of the engine classes in X[5:3] (R231, R258). -/
def xScope (f : Fields) : Nat := f.x.toNat / 8 % 8

/-- The E word of an engine command (R231): PO = 0 leaves PHH without a role, GS is zero unless the
scope is group, AUX stands only where the statement gives it. -/
def eEngine (f : Fields) (aux : Bool) : Bad :=
  need (f.e.toNat / 256 % 8192 == 0
    && (f.e.getLsbD 23 || f.e.toNat / 2 ^ 24 == 0)
    && (xScope f == 2 || f.e.toNat / 2 ^ 21 % 4 == 0)
    && (aux || f.e.toNat % 256 == 0)) 6

/-- SZ of a memory access matches F (R224). -/
def szOk (f : Fields) : Bool :=
  f.f == 0 || (match f.x.toNat % 4 with
    | 0 => fmtWidth f.f == 8
    | 1 => fmtWidth f.f == 16
    | 2 => fmtWidth f.f == 32
    | _ => fmtWidth f.f == 64 || f.f == 15)

/-- The immediate field B of the memory class (R223). -/
def memB (f : Fields) : Role := if f.len == 0 then .num else .zero
def memA (f : Fields) : Role := if f.x.getLsbD 7 then .scal else .vec
def memD (f : Fields) : Role := if f.x.getLsbD 6 then .scal else .vec

/-- OP and F of ATOM and ATX (R229). -/
def atomOk (f : Fields) : Bool :=
  match f.x.toNat % 8 with
  | 0 | 6 | 7 => fAtomInt f.f || fAtomFloat f.f
  | _ => fAtomInt f.f

/-- D of an atomic: the result, the compare operand, or without a role (R229). -/
def atomD (f : Fields) : Role :=
  if f.x.getLsbD 3 || f.x.toNat % 8 == 7 then memD f else .zero

/-- The numbers of indexed system registers with their index counts (R326, R337, R352, R367, R381,
R386, R391). -/
def sysIndexCount (n : Nat) : Option Nat :=
  match n with
  | 0x0050 => some 256
  | 0x0500 => some 4
  | 0x0510 | 0x0511 | 0x0512 | 0x0513 | 0x0102 => some 8
  | 0x0203 => some 4096
  | 0x0300 | 0x0301 | 0x0322 => some 16
  | 0x0308 | 0x0309 => some 32
  | 0x0402 => some 24
  | _ => none

/-- The system register number of SRD and SWR: X·256 + H (R326). -/
def sysNumber (f : Fields) : Nat := f.x.toNat * 256 + f.h.toNat
def sysB (f : Fields) : Bad :=
  if (sysIndexCount (sysNumber f)).isSome then need (f.b.toNat < 64) 3 else need (f.b == 0) 3

/-- A lane-arithmetic or cross-lane shape: kind bits in X[7:4], no E or L of its own. -/
def laneShape (lens : List (BitVec 2)) (d a b c : Role) (x f h : Bad) : Shape :=
  { lens, kinds := true, d, a, b, c, x, f, h }

/-- A shape of the other classes: no kind bits. -/
def plainShape (lens : List (BitVec 2)) (d a b c : Role) (x f h e l : Bad) : Shape :=
  { lens, kinds := false, d, a, b, c, x, f, h, e, l }

/-- An instruction of file 09 with all fields but the named ones zero. -/
def bareShape (lens : List (BitVec 2)) (f : Fields) (d a : Role) (x h e : Bad) : Shape :=
  plainShape lens d a .zero .zero x (noF f) h e (noL f)

/-- Integer instruction with two sources and an optional third. -/
def intShape (f : Fields) (c : Role) (x : Bad) : Shape :=
  laneShape lenA .reg .reg (srcB f) c x (fInt f) (noH f)
def floatShape (f : Fields) (c : Role) (x : Bad) : Shape :=
  laneShape lenA .reg .reg (srcB f) c x (fFloat f) (noH f)
/-- One-source instructions, 64-bit only. -/
def unaryShape (f : Fields) (x fmt : Bad) : Shape :=
  laneShape lenB .reg .reg .zero .zero x fmt (noH f)
def shiftShape (f : Fields) : Shape :=
  laneShape lenA .reg .reg (srcB f) .zero (variantZero f) (fShift f) (noH f)
def bitShape (f : Fields) : Shape :=
  laneShape lenA .reg .reg (srcB f) .zero (variantZero f) (fImm f) (noH f)
/-- CMP and FCMP: a predicate destination and an element index in H[3:0] (R164, R169). -/
def cmpShape (f : Fields) (maxCond : Nat) (fmt : Bad) : Shape :=
  laneShape lenA .pred .reg (srcB f) .zero (need (f.variant ≤ maxCond) 9) fmt
    (need (f.h.toNat < fmtCount f.f) 5)

/-- The role of a BRM pair field (R190). -/
def brmRole (f : Fields) (i : Nat) : Role := if i ≤ f.x.toNat % 4 then .num else .zero
def brmPair (f : Fields) (i : Nat) (v : BitVec 7) : Bad :=
  if i ≤ f.x.toNat % 4 then need (v.toNat < 16) (i + 1) else none

/-- The opcode map with the field roles of every statement. -/
def Instr.info : Instr → Option Info
  | .nop f => some ⟨f, 0x01, .nop, plainShape lenA .zero .zero .zero .zero (noX f) (noF f) (noH f) (noE f) (noL f)⟩
  | .add f => some ⟨f, 0x10, .lane, intShape f .zero (variantBit f)⟩
  | .sub f => some ⟨f, 0x11, .lane, intShape f .zero (variantBit f)⟩
  | .addc f => some ⟨f, 0x12, .lane, laneShape lenA .reg .reg (srcB f) .pred (variantZero f) (need (f.f == 8) 8) (need (f.h.toNat < 8) 5)⟩
  | .subb f => some ⟨f, 0x13, .lane, laneShape lenA .reg .reg (srcB f) .pred (variantZero f) (need (f.f == 8) 8) (need (f.h.toNat < 8) 5)⟩
  | .mul f => some ⟨f, 0x14, .lane, intShape f .zero (variantBit f)⟩
  | .mulh f => some ⟨f, 0x15, .lane, intShape f .zero (variantZero f)⟩
  | .mad f => some ⟨f, 0x16, .lane, intShape f .reg (variantBit f)⟩
  | .div f => some ⟨f, 0x17, .lane, intShape f .zero (variantZero f)⟩
  | .rem f => some ⟨f, 0x18, .lane, intShape f .zero (variantZero f)⟩
  | .min f => some ⟨f, 0x19, .lane, intShape f .zero (variantZero f)⟩
  | .max f => some ⟨f, 0x1A, .lane, intShape f .zero (variantZero f)⟩
  | .abs f => some ⟨f, 0x1B, .lane, unaryShape f (variantBit f) (fInt f)⟩
  | .neg f => some ⟨f, 0x1C, .lane, unaryShape f (variantBit f) (fInt f)⟩
  | .and f => some ⟨f, 0x1D, .lane, bitShape f⟩
  | .or f => some ⟨f, 0x1E, .lane, bitShape f⟩
  | .xor f => some ⟨f, 0x1F, .lane, bitShape f⟩
  | .not f => some ⟨f, 0x20, .lane, unaryShape f (variantZero f) (noF f)⟩
  | .shl f => some ⟨f, 0x21, .lane, shiftShape f⟩
  | .shr f => some ⟨f, 0x22, .lane, shiftShape f⟩
  | .sar f => some ⟨f, 0x23, .lane, shiftShape f⟩
  | .rot f => some ⟨f, 0x24, .lane, shiftShape f⟩
  | .bfx f => some ⟨f, 0x25, .lane, intShape f .zero (variantBit f)⟩
  | .bfi f => some ⟨f, 0x26, .lane, intShape f .reg (variantZero f)⟩
  | .popc f => some ⟨f, 0x27, .lane, unaryShape f (variantZero f) (fInt f)⟩
  | .clz f => some ⟨f, 0x28, .lane, unaryShape f (variantZero f) (fInt f)⟩
  | .brev f => some ⟨f, 0x29, .lane, unaryShape f (variantZero f) (fShift f)⟩
  | .sel f => some ⟨f, 0x2A, .lane, laneShape lenA .reg .reg (srcB f) .pred (variantZero f) (fImm f) (noH f)⟩
  | .cmp f => some ⟨f, 0x2B, .lane, cmpShape f 5 (fInt f)⟩
  | .lea f => some ⟨f, 0x2C, .lane, laneShape lenA .reg .reg (srcB f) .zero (variantZero f) (need (f.f == 4 || f.f == 8) 8) (need (f.h.toNat < 8) 5)⟩
  | .fadd f => some ⟨f, 0x30, .lane, floatShape f .zero (variantRound f)⟩
  | .fsub f => some ⟨f, 0x31, .lane, floatShape f .zero (variantRound f)⟩
  | .fmul f => some ⟨f, 0x32, .lane, floatShape f .zero (variantRound f)⟩
  | .fma f => some ⟨f, 0x33, .lane, floatShape f .reg (variantRound f)⟩
  | .fmin f => some ⟨f, 0x34, .lane, floatShape f .zero (variantZero f)⟩
  | .fmax f => some ⟨f, 0x35, .lane, floatShape f .zero (variantZero f)⟩
  | .fcmp f => some ⟨f, 0x36, .lane, cmpShape f 7 (fFloat f)⟩
  | .fdiv f => some ⟨f, 0x37, .lane, floatShape f .zero (variantRound f)⟩
  | .frcp f => some ⟨f, 0x38, .lane, unaryShape f (variantRound f) (fFloat f)⟩
  | .frsq f => some ⟨f, 0x39, .lane, unaryShape f (variantRound f) (fFloat f)⟩
  | .fsqrt f => some ⟨f, 0x3A, .lane, unaryShape f (variantRound f) (fFloat f)⟩
  | .fexp2 f => some ⟨f, 0x3B, .lane, unaryShape f (variantRound f) (fFloatShort f)⟩
  | .flog2 f => some ⟨f, 0x3C, .lane, unaryShape f (variantRound f) (fFloatShort f)⟩
  | .fsin f => some ⟨f, 0x3D, .lane, unaryShape f (variantRound f) (fFloatShort f)⟩
  | .fcos f => some ⟨f, 0x3E, .lane, unaryShape f (variantRound f) (fFloatShort f)⟩
  | .frnd f => some ⟨f, 0x3F, .lane, unaryShape f (variantRound f) (fFloat f)⟩
  | .fclass f => some ⟨f, 0x40, .lane, unaryShape f (variantZero f) (fFloat f)⟩
  | .cvt f => some ⟨f, 0x48, .lane, laneShape lenB .reg .reg .zero .zero (variantRound f) (need (f.f != 0) 8)
      (need (f.h.toNat % 16 != 0 && f.h.toNat / 16 * fmtCount f.f < fmtCount (BitVec.ofNat 4 (f.h.toNat % 16))) 5)⟩
  | .pack f => some ⟨f, 0x49, .lane, laneShape lenA .reg .reg (srcB f) .zero (variantBit f) (need (f.f != 0 && fmtWidth f.f != 64) 8) (noH f)⟩
  | .unpk f => some ⟨f, 0x4A, .lane, unaryShape f (variantBit f) (need (f.f != 0 && fmtWidth f.f != 64) 8)⟩
  | .qnt f => some ⟨f, 0x4B, .lane, { laneShape lenE .reg .reg (srcB f) .zero (need (f.variant < fmtCount f.f / 2) 9) (fNarrow f) (noH f) with e := need (f.e.toNat < 256) 6 }⟩
  | .qntDerive f => some ⟨f, 0x4B, .lane, laneShape lenB .scal .reg .zero .zero (need (f.variant == 8) 9) (fNarrow f) (need (f.h.toNat < 2) 5)⟩
  | .dqnt f => some ⟨f, 0x4C, .lane, { laneShape lenE .reg .reg (srcB f) .zero (need (f.variant < fmtCount f.f / 2) 9) (fNarrow f) (noH f) with e := need (f.e.toNat < 256) 6 }⟩
  | .hadq f => some ⟨f, 0x4D, .lane, laneShape lenE .reg .reg (scalB f) .zero (variantBit f) (need (f.f == 10) 8) none⟩
  | .tag f => some ⟨f, 0x4E, .lane, unaryShape f (variantZero f) none⟩
  | .xlr f => some ⟨f, 0x50, .xlane, { laneShape lenE .vec .reg (srcB f) .reg (variantZero f) none (noH f) with
      e := need (f.e.toNat < 2 ^ 14 && !f.e.getLsbD 7 && f.e.toNat / 2 ^ 12 != 3) 6 }⟩
  | .xlb f => some ⟨f, 0x51, .xlane, { laneShape (if f.variant == 0 then lenE else lenB) .reg .reg (if f.variant == 0 then scalB f else .zero) .reg (need (f.variant ≤ 2) 9) (noF f) (noH f) with
      e := need (f.e.toNat < 32) 6 }⟩
  | .xls f => some ⟨f, 0x52, .xlane, { laneShape lenE .reg .reg (scalB f) .reg (need (f.variant ≤ 2) 9) (noF f) (need (f.h.toNat ≤ 5) 5) with
      e := need (f.e.toNat < 32) 6 }⟩
  | .vote f => some ⟨f, 0x53, .xlane, laneShape lenB (if f.variant == 3 then .reg else .pred) .pred .zero .zero (need (f.variant ≤ 3) 9) (noF f) (noH f)⟩
  | .matchLanes f => some ⟨f, 0x54, .xlane, laneShape lenB (if f.variant == 1 then .pred else .reg) .reg .zero .zero (variantBit f) none (noH f)⟩
  | .red f => some ⟨f, 0x55, .xlane, laneShape lenB .reg .reg .zero .zero (need (f.variant ≤ 5 || (8 ≤ f.variant && f.variant ≤ 10)) 9)
      (need (if f.variant ≤ 5 then 1 ≤ f.f.toNat && f.f.toNat ≤ 8 else f.f == 9 || f.f == 10) 8) (noH f)⟩
  | .scan f => some ⟨f, 0x56, .xlane, laneShape lenB .vec .reg .zero .zero (need (f.variant ≤ 5 || (8 ≤ f.variant && f.variant ≤ 10)) 9)
      (need (if f.variant ≤ 5 then 1 ≤ f.f.toNat && f.f.toNat ≤ 8 else f.f == 9 || f.f == 10) 8) (need (f.h.toNat ≤ 1) 5)⟩
  | .mov f => some ⟨f, 0x58, .lane, unaryShape f (variantZero f) (noF f)⟩
  | .movi f => some ⟨f, 0x59, .lane, laneShape lenD .reg .zero .zero .zero (variantZero f) none (noH f)⟩
  | .mfs f => some ⟨f, 0x5A, .lane, laneShape lenB .reg .zero .zero .zero (variantZero f) (noF f) none⟩
  | .mts f => some ⟨f, 0x5B, .lane, laneShape lenB .zero .reg .zero .zero (variantZero f) (noF f) none⟩
  | .br f => some ⟨f, 0x60, .ctrl, bareShape lenC f .zero .zero (noX f) (noH f) none⟩
  | .brm f => some ⟨f, 0x61, .ctrl, plainShape lenF (brmRole f 0) (brmRole f 1) (brmRole f 2) (brmRole f 3)
      (need (f.x.toNat < 4) 9) (noF f)
      ((brmPair f 0 f.d).orElse ((brmPair f 1 f.a).orElse ((brmPair f 2 f.b).orElse ((brmPair f 3 f.c).orElse (noH f)))))
      (need (1 ≤ f.x.toNat % 4 || f.e.toNat / 2 ^ 16 == 0) 6)
      (need ((2 ≤ f.x.toNat % 4 || f.l.toNat % 2 ^ 16 == 0) && (f.x.toNat % 4 == 3 || f.l.toNat / 2 ^ 16 == 0)) 10)⟩
  | .jtb f => some ⟨f, 0x62, .ctrl, laneShape lenD .zero .reg .zero .zero (variantZero f) (noF f) none⟩
  | .call f => some ⟨f, 0x63, .ctrl, bareShape lenC f .zero .zero (noX f) (noH f) none⟩
  | .calli f => some ⟨f, 0x64, .ctrl, laneShape lenB .zero .reg .zero .zero (variantZero f) (noF f) (noH f)⟩
  | .ret f => some ⟨f, 0x65, .ctrl, bareShape lenB f .zero .zero (noX f) (noH f) none⟩
  | .exit f => some ⟨f, 0x66, .ctrl, bareShape lenB f .zero .zero (noX f) (noH f) none⟩
  | .meld f => some ⟨f, 0x68, .splice, bareShape lenB f .zero .pred (noX f) (noH f) none⟩
  | .mapt f => some ⟨f, 0x69, .splice, plainShape lenD .num (brmRole f 1) (brmRole f 2) (brmRole f 3) (need (f.x.toNat < 4) 9) (noF f)
      (need (f.h.toNat < 32 && f.h.toNat % 16 + f.x.toNat % 4 + 1 ≤ 16) 5) (noE f) (noL f)⟩
  | .unmeld f => some ⟨f, 0x6A, .splice, bareShape lenB f .zero .zero (noX f) (noH f) none⟩
  | .barArv f => some ⟨f, 0x70, .sync, bareShape lenB f .zero .zero (noX f) (hScope f (fun k => k == 1 || k == 2) false) none⟩
  | .barWait f => some ⟨f, 0x71, .sync, bareShape lenB f .pred .zero (noX f) (hScope f (fun k => k == 1 || k == 2) false) none⟩
  | .pharr f => some ⟨f, 0x72, .sync, laneShape lenE .zero .scal .scal (if f.variant == 2 then .scal else .zero) (need (f.variant ≤ 2) 9) (noF f) none⟩
  | .phwait f => some ⟨f, 0x73, .sync, laneShape lenE .pred .scal .scal .zero (variantZero f) (noF f) none⟩
  | .tktTake f => some ⟨f, 0x74, .sync, bareShape lenE f .zero .zero (noX f) (hScope f (fun k => k == 2) true) (need (f.e.toNat < 4) 6)⟩
  | .tktWait f => some ⟨f, 0x75, .sync, bareShape lenE f .pred .zero (noX f) (hScope f (fun k => k == 2) true) (need (f.e.toNat < 4) 6)⟩
  | .hitchWait f => some ⟨f, 0x76, .sync, bareShape lenB f .pred .zero (noX f) (noH f) none⟩
  | .hitchPass f => some ⟨f, 0x77, .sync, bareShape lenB f .zero .zero (noX f) (noH f) none⟩
  | .fence f => some ⟨f, 0x78, .sync, bareShape lenB f .zero .zero (need (1 ≤ f.x.toNat && f.x.toNat ≤ 3) 9) (hScope f (fun k => k ≤ 4) false) none⟩
  | .trig f => some ⟨f, 0x79, .sync, bareShape lenB f .zero .zero (noX f) (noH f) none⟩
  | .yield f => some ⟨f, 0x7A, .sync, bareShape lenB f .zero .zero (noX f) (noH f) none⟩
  | .sleep f => some ⟨f, 0x7B, .sync, { laneShape lenE .zero .zero (scalB f) .zero (variantZero f) (noF f) (noH f) with e := need (f.e.toNat < 2 ^ 24) 6 }⟩
  | .launch f => some ⟨f, 0x80, .team, laneShape lenE .reg .reg .zero .zero (need (f.variant == 0) 9) (noF f) none⟩
  | .launchUni f => some ⟨f, 0x80, .team, laneShape lenE .reg .reg .zero .zero (need (f.variant == 1) 9) (noF f) none⟩
  | .carve f => some ⟨f, 0x81, .team, { laneShape lenE .zero (if f.len == 0 then .scal else .zero) .zero .zero (variantZero f) (noF f) (noH f) with e := need (f.e.toNat < 2 ^ 14) 6 }⟩
  | .detach f => some ⟨f, 0x82, .team, bareShape lenB f .zero .zero (noX f) (hScope f (fun k => k == 2) true) none⟩
  | .idemBegin f => some ⟨f, 0x83, .team, bareShape lenB f .zero .zero (noX f) (noH f) none⟩
  | .idemEnd f => some ⟨f, 0x84, .team, bareShape lenB f .zero .zero (noX f) (noH f) none⟩
  | .trap f => some ⟨f, 0xB8, .traps, bareShape lenB f .zero .zero (noX f) none none⟩
  | .bkpt f => some ⟨f, 0xB9, .traps, bareShape lenB f .zero .zero (need (f.x.toNat ≤ 1) 9) none none⟩
  | .emret f => some ⟨f, 0xBA, .traps, bareShape lenB f .zero .zero (need (f.x.toNat ≤ 1) 9) (noH f) none⟩
  | .rng f => some ⟨f, 0xBB, .traps, laneShape lenB .reg .zero .reg .zero (variantZero f) (noF f) (noH f)⟩
  | .clk f => some ⟨f, 0xBC, .traps, laneShape lenB .reg .zero .zero .zero (variantBit f) (noF f) (noH f)⟩
  | .prog f => some ⟨f, 0xBD, .traps, bareShape lenB f .zero .zero (need (f.x.toNat ≤ 1) 9) (need (f.h.toNat < 16) 5) none⟩
  | .ld f => some ⟨f, 0x88, .mem, plainShape lenE .vec (memA f) (memB f) .zero (need (szOk f && f.x.toNat / 16 % 8 == 0 && !(f.x.getLsbD 2 && f.x.toNat % 4 == 3)) 9) none none none (noL f)⟩
  | .st f => some ⟨f, 0x89, .mem, plainShape lenE (memD f) (memA f) (memB f) .zero (need (szOk f && f.x.toNat / 16 % 4 == 0 && !f.x.getLsbD 2) 9) none none none (noL f)⟩
  | .ldu f => some ⟨f, 0x8A, .mem, plainShape lenE (memD f) .scal (memB f) .zero (need (szOk f && f.x.getLsbD 7 && f.x.toNat / 16 % 4 == 0 && !(f.x.getLsbD 2 && f.x.toNat % 4 == 3)) 9) none none none (noL f)⟩
  | .pf f => some ⟨f, 0x8B, .mem, plainShape lenE .zero (memA f) (memB f) .zero (need (!f.x.getLsbD 6 && f.x.toNat / 16 % 4 != 3 && f.x.toNat % 16 == 0) 9) (noF f) none none (noL f)⟩
  | .atom f => some ⟨f, 0x8C, .mem, plainShape lenE (atomD f) (memA f) (memB f) .vec (need (!f.x.getLsbD 5 && (!f.x.getLsbD 6 || atomD f != .zero)) 9) (need (atomOk f) 8) none none (noL f)⟩
  | .ldx f => some ⟨f, 0x90, .fabric, plainShape lenE .vec (memA f) (memB f) .scal (need (szOk f && f.x.toNat / 8 % 16 == 0 && !(f.x.getLsbD 2 && f.x.toNat % 4 == 3)) 9) none none none (noL f)⟩
  | .stx f => some ⟨f, 0x91, .fabric, plainShape lenE (memD f) (memA f) (memB f) .scal (need (szOk f && f.x.toNat / 4 % 4 == 0) 9) none none none (noL f)⟩
  | .atx f => some ⟨f, 0x92, .fabric, plainShape lenE (atomD f) (memA f) .scal .vec (need (!f.x.getLsbD 6 || atomD f != .zero) 9) (need (atomOk f) 8) none none (noL f)⟩
  | .rstx f => some ⟨f, 0x93, .fabric, plainShape lenE (memD f) (memA f) (memB f) .scal (need (!f.x.getLsbD 3 && f.x.toNat % 8 ≤ 5) 9)
      (need (fAtomInt f.f || (f.x.toNat % 8 == 0 && fAtomFloat f.f)) 8) none none (noL f)⟩
  | .bclose f => some ⟨f, 0x94, .fabric, plainShape lenB .scal .zero .zero .scal (need (f.x.toNat / 64 == 1 && f.x.toNat % 16 == 0) 9) (noF f) (noH f) (noE f) (noL f)⟩
  | .cpy f => some ⟨f, 0x98, .engine, plainShape lenD (if f.x.getLsbD 0 then .slot else .scal) .scal .scal (if f.e.getLsbD 23 then .scal else .zero)
      (need (f.x.toNat / 2 % 4 == 0 && xScope f ≤ 4) 9) (noF f) none (eEngine f (!f.x.getLsbD 0)) (noL f)⟩
  | .gath f => some ⟨f, 0x99, .engine, plainShape lenD (if f.x.getLsbD 0 then .slot else .scal) .scal .scal (if f.e.getLsbD 23 then .scal else .zero)
      (need (!f.x.getLsbD 2 && xScope f ≤ 4 && (f.len == 2 || !f.x.getLsbD 1)) 9) (noF f) none (eEngine f false)
      (if f.x.getLsbD 1 then need (f.l.toNat % 4 == 0) 10 else noL f)⟩
  | .scat f => some ⟨f, 0x9A, .engine, plainShape lenD .scal .scal .scal (if f.e.getLsbD 23 then .scal else .zero)
      (need (!f.x.getLsbD 2 && !f.x.getLsbD 0 && xScope f ≤ 4 && (f.len == 2 || !f.x.getLsbD 1)) 9) (noF f) none (eEngine f false)
      (if f.x.getLsbD 1 then need (f.l.toNat % 4 == 0) 10 else noL f)⟩
  | .dgn f => some ⟨f, 0x9B, .engine, plainShape lenD .zero .scal .zero .zero (noX f) (noF f) (noH f) none
      (need (if f.l.getLsbD 31 then f.l.toNat / 2 ^ 16 == 2 ^ 15 else f.l == 0) 10)⟩
  | .dgl f => some ⟨f, 0x9C, .engine, plainShape lenD .zero .scal .scal .zero (noX f) (noF f) (noH f) none (noL f)⟩
  | .claim f => some ⟨f, 0xA0, .matrix, plainShape lenB .scal .slot .slot .zero (need (f.x.toNat ≤ 1) 9) (noF f) ((need (f.a.toNat ≤ f.b.toNat) 2).orElse (noH f)) (noE f) (noL f)⟩
  | .release f => some ⟨f, 0xA1, .matrix, plainShape lenB .zero .slot .slot .zero (noX f) (noF f) ((need (f.a.toNat ≤ f.b.toNat) 2).orElse (noH f)) (noE f) (noL f)⟩
  | .mma f => some ⟨f, 0xA2, .matrix, plainShape lenE .tile .slot .slot .scal (need (f.x.toNat < 64 && !f.x.getLsbD 1) 9) (fNarrow f) (noH f)
      (need (f.e.toNat < 2 ^ 22 && (f.e.getLsbD 10 || f.e.toNat % 2 ^ 10 == 0) && (f.e.getLsbD 21 || f.e.toNat / 2 ^ 11 % 2 ^ 10 == 0)) 6) (noL f)⟩
  | .gmma f => some ⟨f, 0xA3, .matrix, plainShape lenD .tile .scal .scal .scal
      (need (!f.x.getLsbD 6 && !f.x.getLsbD 2 && xScope f ≤ 4 && (f.x.getLsbD 7 || xScope f == 0) && (f.len == 2 || !f.x.getLsbD 1)) 9)
      (need ([1, 11, 12, 13, 14].contains f.f.toNat) 8) none
      (need (f.e.toNat < 2 ^ 23 && f.e.toNat / 2 ^ 16 % 32 == 0 && (xScope f == 2 || f.e.toNat / 2 ^ 21 == 0)) 6)
      (if f.x.getLsbD 1 then need (f.l.toNat % 4 == 0) 10 else noL f)⟩
  | .accz f => some ⟨f, 0xA4, .matrix, plainShape lenB .tile .zero .zero .zero (noX f) (noF f) (noH f) (noE f) (noL f)⟩
  | .accrd f => some ⟨f, 0xA5, .matrix, plainShape lenE .scal .tile (scalB f) .zero (noX f) (need ([1, 10, 11, 12, 13, 14].contains f.f.toNat) 8) (noH f)
      (need (f.e.toNat < 2 ^ 14 && f.e.toNat / 64 % 4 == 0) 6) (noL f)⟩
  | .accwr f => some ⟨f, 0xA6, .matrix, plainShape lenE .tile .scal .scal (if f.e.getLsbD 23 then .scal else .zero)
      (need (!f.x.getLsbD 6 && f.x.toNat % 8 == 0 && xScope f ≤ 4 && (f.x.getLsbD 7 || xScope f == 0)) 9)
      (need ([1, 10, 11, 12, 13, 14, 15].contains f.f.toNat) 8) none (eEngine f false) (noL f)⟩
  | .accst f => some ⟨f, 0xA7, .matrix, plainShape lenE .tile .scal .scal (if f.e.getLsbD 23 then .scal else .zero)
      (need (f.x.toNat % 8 == 0 && xScope f ≤ 4 && (f.x.toNat / 64 != 0 || xScope f == 0)) 9)
      (need ([1, 10, 11, 12, 13, 14, 15].contains f.f.toNat) 8) none (eEngine f false) (noL f)⟩
  | .hadt f => some ⟨f, 0xA8, .matrix, plainShape lenE .tile (if f.len == 0 then .scal else .zero) .scal .zero (need (f.x.toNat ≤ 1) 9) (noF f) none none (noL f)⟩
  | .qtile f => some ⟨f, 0xA9, .matrix, plainShape (if f.x.getLsbD 1 then lenE else lenC) .slot .tile .scal .zero (need (f.x.toNat ≤ 3) 9) (fNarrow f) (noH f)
      (if f.x.getLsbD 1 then noE f else need (f.e.toNat / 2 ^ 10 == 1) 6) (noL f)⟩
  | .qpwPost f => some ⟨f, 0xB0, .coll, plainShape lenD .scal .scal .scal .scal
      (need (f.x.toNat % 16 ≤ 3 && f.x.toNat / 16 ≤ 2 && (2 ≤ f.x.toNat % 16 || f.x.toNat / 16 == 0)) 9)
      (if 2 ≤ f.x.toNat % 16 then need (fAtomInt f.f || fAtomFloat f.f) 8 else none) none
      (need (f.e.toNat / 4 % 2 ^ 14 == 0) 6) (if 2 ≤ f.x.toNat % 16 then none else noL f)⟩
  | .qpwArm f => some ⟨f, 0xB1, .coll, plainShape lenE .zero .scal (scalB f) .ctr (noX f) (noF f) (noH f) none (noL f)⟩
  | .cntAdd f => some ⟨f, 0xB2, .coll, plainShape lenE .ctr .zero (scalB f) .zero (noX f) (noF f) (noH f) none (noL f)⟩
  | .cntWait f => some ⟨f, 0xB3, .coll, plainShape lenE .scal .ctr (scalB f) .zero (noX f) (noF f) (noH f) none (noL f)⟩
  | .srd f => some ⟨f, 0xF0, .priv, plainShape lenB .scal .zero .num .zero none (noF f) (sysB f) (noE f) (noL f)⟩
  | .swr f => some ⟨f, 0xF1, .priv, plainShape lenB .zero .scal .num .zero none (noF f) (sysB f) (noE f) (noL f)⟩
  | .ctxsv f => some ⟨f, 0xF2, .priv, plainShape lenB .scal .scal .scal .zero (need (f.x.toNat ≤ 1) 9) (noF f) none (noE f) (noL f)⟩
  | .ctxld f => some ⟨f, 0xF3, .priv, plainShape lenB .scal .scal .scal .zero (need (f.x.toNat ≤ 1) 9) (noF f) none (noE f) (noL f)⟩
  | .tlbi f => some ⟨f, 0xF4, .priv, plainShape lenE .zero .scal .scal .zero (need (f.x.toNat ≤ 2) 9) (noF f) (noH f)
      (if f.x == 2 then need (f.len == 0 || (1 ≤ f.e.toNat && f.e.toNat ≤ 2 ^ 20)) 6 else noE f) (noL f)⟩
  | .iretResume f => some ⟨f, 0xF5, .priv, plainShape lenB .scal .scal .zero .zero (need (f.x == 0) 9) (noF f) (noH f) (noE f) (noL f)⟩
  | .iretKill f => some ⟨f, 0xF5, .priv, plainShape lenB .scal .scal .zero .zero (need (f.x == 1) 9) (noF f) (noH f) (noE f) (noL f)⟩
  | .iretCancel f => some ⟨f, 0xF5, .priv, plainShape lenB .scal .scal .zero .zero (need (f.x == 2) 9) (noF f) (noH f) (noE f) (noL f)⟩
  | _ => none

/-- The fields of an instruction; zero for an event. -/
def Instr.fields (i : Instr) : Fields :=
  match i.info with
  | some n => n.fields
  | none => { len := 0, s := false, m := false, g := 0, d := 0, a := 0, b := 0, c := 0, f := 0, x := 0, h := 0, e := 0, l := 0 }

/-- The check of one register field against its role (R138, R141). -/
def Role.check (r : Role) (kinds kind : Bool) (v : BitVec 7) (opnd : Nat) : Bad :=
  match r with
  | .zero => if v != 0 then some (6, opnd) else need (!(kinds && kind)) 9
  | .reg => need (!kind || v.toNat < 64) opnd
  | .vec => need (!(kinds && kind)) opnd
  | .scal => need ((!kinds || kind) && v.toNat < 64) opnd
  | .pred => need (v.toNat < 8 && !(kinds && kind)) opnd
  | .tile => need (v.toNat < 8) opnd
  | .slot => need (v.toNat < 64) opnd
  | .ctr => need (v.toNat < 64) opnd
  | .num => none

/-- The words a length does not have are zero (R131). -/
def Fields.lengthOk (f : Fields) : Bool :=
  (f.len != 0 || f.e == 0) && (f.len == 2 || f.l == 0) && f.len != 3

/-- The first complaint against an encoding after its opcode is known, in the order length, then
D, A, B, C, H, E, F, X, L. -/
def Info.illegal (i : Info) : Bad :=
  let f := i.fields
  let sh := i.shape
  if f.g == 8 then some (2, 7)
  else if !sh.lens.contains f.len then some (4, 0)
  else (sh.d.check sh.kinds f.kindD f.d 1).orElse <|
    (sh.a.check sh.kinds f.kindA f.a 2).orElse <|
    (sh.b.check sh.kinds f.kindB f.b 3).orElse <|
    (sh.c.check sh.kinds f.kindC f.c 4).orElse <|
    sh.h.orElse <| sh.e.orElse <| sh.f.orElse <| sh.x.orElse sh.l

/-- The complaint against an instruction; events have no encoding. -/
def Instr.illegal (i : Instr) : Bad :=
  match i.info with
  | some n => n.illegal
  | none => none

/-- A field names a vector register (R81, R133). -/
def Role.isVec (r : Role) (kinds kind : Bool) : Bool :=
  match r with
  | .vec => true
  | .reg => !(kinds && kind)
  | _ => false

/-- Which of D, A, B and C name vector registers. -/
structure VecFields where
  d : Bool
  a : Bool
  b : Bool
  c : Bool
deriving DecidableEq, Repr

def Info.vecs (i : Info) : VecFields :=
  let sh := i.shape
  let f := i.fields
  { d := sh.d.isVec sh.kinds f.kindD, a := sh.a.isVec sh.kinds f.kindA
    b := sh.b.isVec sh.kinds f.kindB, c := sh.c.isVec sh.kinds f.kindC }

def VecFields.any (v : VecFields) : Bool := v.d || v.a || v.b || v.c

/-- A field names a scalar register. -/
def Role.isScal (r : Role) (kinds kind : Bool) : Bool :=
  match r with
  | .scal => true
  | .reg => kinds && kind
  | _ => false

/-- D is read as a source: store and contribution data, the compare operand of CAS, the earlier
elements of QNT, and the scalar offsets of the engine class (R173, R227, R229, R231). -/
def Instr.readsD : Instr → Bool
  | .st _ | .stx _ | .rstx _ | .cpy _ | .gath _ | .scat _ | .qpwPost _ => true
  | .atom f | .atx f => f.x.toNat % 8 == 7
  | .qnt f => f.x.toNat % 8 != 0
  | _ => false

/-- The instruction writes a scalar register or a special register (R74). -/
def Instr.writesScalar (i : Instr) : Bool :=
  match i with
  | .mts _ => true
  | .atom f | .atx f => f.x.getLsbD 3 && f.x.getLsbD 6
  | .st _ | .stx _ | .rstx _ | .cpy _ | .gath _ | .scat _ | .qpwPost _ => false
  | _ =>
    match i.info with
    | some n =>
      match n.shape.d with
      | .scal => true
      | .reg => n.shape.kinds && n.fields.kindD
      | .vec => false
      | _ => false
    | none => false

/-- The braid-wide instructions (R78). -/
def Instr.braidWide (i : Instr) : Bool :=
  match i.info with
  | some n =>
    match n.cls with
    | .engine | .matrix | .splice | .coll => true
    | _ => false
  | none => false

/-- The pairing class of R74: memory, cross-lane, synchronisation and system, or none. -/
def OpClass.pairClass (c : OpClass) : Nat :=
  match c with
  | .mem | .fabric => 1
  | .xlane => 2
  | .sync | .team | .traps | .priv => 3
  | _ => 0

end Sys2Proof
end

