-- ==== Sys2Proof/WellFormed.lean ====
section
/-! DEFINITION. Which terms of Instr the decoder may yield: an instruction whose fields meet the
checks of Legal (R131-R142), or an event, which has no encoding. -/

namespace Sys2Proof

/-- The fields fit the instruction's length (R131) and no check complains (R141). -/
def Instr.wellFormed (i : Instr) : Bool :=
  match i.info with
  | some n => n.fields.lengthOk && n.illegal.isNone
  | none => true

/-- The instruction is one of the 137 that have an encoding (R142). -/
def Instr.encodable (i : Instr) : Bool := i.info.isSome

end Sys2Proof
end

