-- ==== Sys2Proof/Decode.lean ====
section
/-! DEFINITION. The decoder, total on any bits and any bytes, and after it the encoder, both written
from the header of R131 and the opcode map of R142. -/

namespace Sys2Proof

/-- LEN (R131). -/
def lenOf (raw : BitVec 128) : BitVec 2 := raw.extractLsb' 0 2

/-- OP (R131). -/
def opOf (raw : BitVec 128) : BitVec 8 := raw.extractLsb' 4 8

/-- Bytes of an instruction with this LEN (R135). -/
def lenBytes (len : BitVec 2) : Nat :=
  match len.toNat with
  | 1 => 12
  | 2 => 16
  | _ => 8

/-- The fields of R131. E stands in the two longer forms only, and L in the longest. -/
def fieldsOf (raw : BitVec 128) : Fields :=
  { len := lenOf raw, s := raw.getLsbD 2, m := raw.getLsbD 3, g := raw.extractLsb' 12 4
    d := raw.extractLsb' 16 7, a := raw.extractLsb' 23 7, b := raw.extractLsb' 30 7
    c := raw.extractLsb' 37 7, f := raw.extractLsb' 44 4, x := raw.extractLsb' 48 8
    h := raw.extractLsb' 56 8
    e := if lenOf raw == 1 || lenOf raw == 2 then raw.extractLsb' 64 32 else 0
    l := if lenOf raw == 2 then raw.extractLsb' 96 32 else 0 }

/-- The instruction of an assigned opcode (R142); the variant bits choose where two share one. -/
def assemble (op : Nat) (f : Fields) : Option Instr :=
  match op with
  | 0x01 => some (.nop f)
  | 0x10 => some (.add f)
  | 0x11 => some (.sub f)
  | 0x12 => some (.addc f)
  | 0x13 => some (.subb f)
  | 0x14 => some (.mul f)
  | 0x15 => some (.mulh f)
  | 0x16 => some (.mad f)
  | 0x17 => some (.div f)
  | 0x18 => some (.rem f)
  | 0x19 => some (.min f)
  | 0x1A => some (.max f)
  | 0x1B => some (.abs f)
  | 0x1C => some (.neg f)
  | 0x1D => some (.and f)
  | 0x1E => some (.or f)
  | 0x1F => some (.xor f)
  | 0x20 => some (.not f)
  | 0x21 => some (.shl f)
  | 0x22 => some (.shr f)
  | 0x23 => some (.sar f)
  | 0x24 => some (.rot f)
  | 0x25 => some (.bfx f)
  | 0x26 => some (.bfi f)
  | 0x27 => some (.popc f)
  | 0x28 => some (.clz f)
  | 0x29 => some (.brev f)
  | 0x2A => some (.sel f)
  | 0x2B => some (.cmp f)
  | 0x2C => some (.lea f)
  | 0x30 => some (.fadd f)
  | 0x31 => some (.fsub f)
  | 0x32 => some (.fmul f)
  | 0x33 => some (.fma f)
  | 0x34 => some (.fmin f)
  | 0x35 => some (.fmax f)
  | 0x36 => some (.fcmp f)
  | 0x37 => some (.fdiv f)
  | 0x38 => some (.frcp f)
  | 0x39 => some (.frsq f)
  | 0x3A => some (.fsqrt f)
  | 0x3B => some (.fexp2 f)
  | 0x3C => some (.flog2 f)
  | 0x3D => some (.fsin f)
  | 0x3E => some (.fcos f)
  | 0x3F => some (.frnd f)
  | 0x40 => some (.fclass f)
  | 0x48 => some (.cvt f)
  | 0x49 => some (.pack f)
  | 0x4A => some (.unpk f)
  | 0x4B => some (if f.variant < 8 then .qnt f else .qntDerive f)
  | 0x4C => some (.dqnt f)
  | 0x4D => some (.hadq f)
  | 0x4E => some (.tag f)
  | 0x50 => some (.xlr f)
  | 0x51 => some (.xlb f)
  | 0x52 => some (.xls f)
  | 0x53 => some (.vote f)
  | 0x54 => some (.matchLanes f)
  | 0x55 => some (.red f)
  | 0x56 => some (.scan f)
  | 0x58 => some (.mov f)
  | 0x59 => some (.movi f)
  | 0x5A => some (.mfs f)
  | 0x5B => some (.mts f)
  | 0x60 => some (.br f)
  | 0x61 => some (.brm f)
  | 0x62 => some (.jtb f)
  | 0x63 => some (.call f)
  | 0x64 => some (.calli f)
  | 0x65 => some (.ret f)
  | 0x66 => some (.exit f)
  | 0x68 => some (.meld f)
  | 0x69 => some (.mapt f)
  | 0x6A => some (.unmeld f)
  | 0x70 => some (.barArv f)
  | 0x71 => some (.barWait f)
  | 0x72 => some (.pharr f)
  | 0x73 => some (.phwait f)
  | 0x74 => some (.tktTake f)
  | 0x75 => some (.tktWait f)
  | 0x76 => some (.hitchWait f)
  | 0x77 => some (.hitchPass f)
  | 0x78 => some (.fence f)
  | 0x79 => some (.trig f)
  | 0x7A => some (.yield f)
  | 0x7B => some (.sleep f)
  | 0x80 => some (if f.variant % 2 == 0 then .launch f else .launchUni f)
  | 0x81 => some (.carve f)
  | 0x82 => some (.detach f)
  | 0x83 => some (.idemBegin f)
  | 0x84 => some (.idemEnd f)
  | 0x88 => some (.ld f)
  | 0x89 => some (.st f)
  | 0x8A => some (.ldu f)
  | 0x8B => some (.pf f)
  | 0x8C => some (.atom f)
  | 0x90 => some (.ldx f)
  | 0x91 => some (.stx f)
  | 0x92 => some (.atx f)
  | 0x93 => some (.rstx f)
  | 0x94 => some (.bclose f)
  | 0x98 => some (.cpy f)
  | 0x99 => some (.gath f)
  | 0x9A => some (.scat f)
  | 0x9B => some (.dgn f)
  | 0x9C => some (.dgl f)
  | 0xA0 => some (.claim f)
  | 0xA1 => some (.release f)
  | 0xA2 => some (.mma f)
  | 0xA3 => some (.gmma f)
  | 0xA4 => some (.accz f)
  | 0xA5 => some (.accrd f)
  | 0xA6 => some (.accwr f)
  | 0xA7 => some (.accst f)
  | 0xA8 => some (.hadt f)
  | 0xA9 => some (.qtile f)
  | 0xB0 => some (.qpwPost f)
  | 0xB1 => some (.qpwArm f)
  | 0xB2 => some (.cntAdd f)
  | 0xB3 => some (.cntWait f)
  | 0xB8 => some (.trap f)
  | 0xB9 => some (.bkpt f)
  | 0xBA => some (.emret f)
  | 0xBB => some (.rng f)
  | 0xBC => some (.clk f)
  | 0xBD => some (.prog f)
  | 0xF0 => some (.srd f)
  | 0xF1 => some (.swr f)
  | 0xF2 => some (.ctxsv f)
  | 0xF3 => some (.ctxld f)
  | 0xF4 => some (.tlbi f)
  | 0xF5 => some (if f.x.toNat % 4 == 1 then .iretKill f else if f.x.toNat % 4 == 2 then .iretCancel f else .iretResume f)
  | _ => none

/-- The bits of an instruction's own length; the bits beyond it are zero (R149). -/
def trimRaw (raw : BitVec 128) : BitVec 128 :=
  raw &&& BitVec.ofNat 128 (2 ^ (8 * lenBytes (lenOf raw)) - 1)

/-- The decoder: the instruction that the bits at a program counter encode, or the illegal encoding
with its DETAIL and OPND (R141, R143, R149), in the order LEN, G, opcode, length, fields. -/
def decodeBits (raw : BitVec 128) : Except Illegal Instr :=
  if lenOf raw == 3 then .error ⟨trimRaw raw, 1, 0⟩
  else
    let f := fieldsOf raw
    if f.g == 8 then .error ⟨trimRaw raw, 2, 7⟩
    else
      match assemble (opOf raw).toNat f with
      | none => .error ⟨trimRaw raw, 3, 0⟩
      | some i =>
        match i.illegal with
        | some (detail, opnd) => .error ⟨trimRaw raw, detail, opnd⟩
        | none => .ok i

/-- Little-endian bytes as a number (R3). -/
def leNat : List Byte → Nat
  | [] => 0
  | b :: bs => b.toNat + 256 * leNat bs

/-- The low n bytes of a number, lowest first (R3). -/
def leBytes : Nat → Nat → List Byte
  | 0, _ => []
  | n + 1, v => BitVec.ofNat 8 v :: leBytes n (v / 256)

/-- The decoder on bytes: the instruction and the bytes after it, the encoding it refuses, or none
where the bytes are fewer than the length asks. -/
def decode (bytes : List Byte) : Option (Except Illegal (Instr × List Byte)) :=
  let raw := BitVec.ofNat 128 (leNat (bytes.take 16))
  let n := lenBytes (lenOf raw)
  if bytes.length < n then none
  else some (match decodeBits raw with
    | .ok i => .ok (i, bytes.drop n)
    | .error e => .error e)

/-- The header and extension words of an instruction (R131). -/
def encodeFields (op : BitVec 8) (f : Fields) : BitVec 128 :=
  f.l ++ f.e ++ f.h ++ f.x ++ f.f ++ f.c ++ f.b ++ f.a ++ f.d ++ f.g ++ op
    ++ BitVec.ofBool f.m ++ BitVec.ofBool f.s ++ f.len

/-- The encoder: the bits of an instruction, or of the illegal encoding as fetched. Events have no
encoding. -/
def encode (i : Instr) : BitVec 128 :=
  match i.info with
  | some n => encodeFields (BitVec.ofNat 8 n.op) n.fields
  | none =>
    match i with
    | .illegalEncoding e => e.raw
    | _ => 0

/-- Bytes of an instruction. -/
def Instr.bytes (i : Instr) : Nat :=
  match i.info with
  | some n => lenBytes n.fields.len
  | none => lenBytes (lenOf (encode i))

/-- The bytes of an instruction as they stand in the code object. -/
def encodeBytes (i : Instr) : List Byte := leBytes i.bytes (encode i).toNat

/-- The instruction that the decoder reads from bits numbered from the first word on. -/
def decodeTableWord (nbits w : Nat) : Option Instr :=
  match decode (leBytes 16 (w % 2 ^ nbits)) with
  | some (.ok (i, _)) => some i
  | _ => none

end Sys2Proof
end

