-- ==== Sys2Proof/Config.lean ====
section
/-! DEFINITION. What an implementation fixes: the sizes of the Birievor (R2, R12, R355) and the choices
and functions that the spec leaves open, which are constants without a body. -/

namespace Sys2Proof.Config

/-- Cores of the device, and of a quarter (R2). -/
def cores : Nat := 256
def coresPerQuarter : Nat := 64

/-- Braid slots of a core (R12). -/
def slotsPerCore : Nat := 64

/-- Operand slots of a core (R2). -/
def operandSlots : Nat := 64

/-- Granules that a core's footprints may fill (R51, R52). -/
def usableGranules : Nat := 736

/-- DRAM bytes of a quarter, and of the device (R355). -/
def quarterBytes : Nat := 0x1800000000
def dramBytes : Nat := 0x6000000000

/-- Base of far memory and the range of one CXL port (R355). -/
def farBase : Nat := 0x400000000000
def farPortBytes : Nat := 0x40000000000

/-- Chip scratchpad beside one quarter (R121). -/
def chipPart : Nat := 0x2000000

/-- Records in a launch queue (R339). -/
def queueLength : Nat := 4096

/-- Transit slots of a quarter (R305). -/
def transitSlots : Nat := 2048

/-- The n-th choice the spec leaves to the implementation: whether a data load is served from a
stale copy (R287), whether a shadow entry outside the complete classes is still held (R292). -/
opaque choice : Nat → Bool

/-- The n-th value that the spec does not state: ADDR and INFO of a record about a tile or a slot, which
has no address (R276, R328). -/
opaque unstated : Nat → BitVec 64

/-- The linear index of the team at a position of a gang's share on the device at a coordinate (R28): the member lists of
other devices are known there only, and R304 compares what two buffers reach through them. -/
opaque farMember : Nat → BitVec 64 → Nat → Nat

/-- The 128-bit tag of AES-256-GCM over a flit (R373), from key, IV, header and payload; the spec names the algorithm by
its standard. -/
opaque gcmTag : BitVec 256 → BitVec 96 → BitVec 128 → List Byte → BitVec 128

/-- The Ed448 signature of a report under the device's identity key (R398); the spec names the
algorithm by its standard. -/
opaque sign : List Word → List Word

end Sys2Proof.Config
end

