-- ==== Sys2Proof/Machine/State.lean ====
section
/-! DEFINITION. The state of the machine as plain data: everything the spec gives the Birievor, from
the lanes of a braid to the platform, the two closed types of stops, and the state after reset. -/

namespace Sys2Proof.Machine

/-- Bytes by address, in canonical form: addresses strictly rising, no byte zero. An address that is
not listed reads as zero (R400 wipes every memory to zero at reset). -/
abbrev Memory := List Host.Cell

/-- The canonical form from address `lo` on. -/
def Memory.wfFrom (lo : Nat) : Memory → Bool
  | [] => true
  | (a, v) :: m => decide (lo ≤ a) && v != 0 && Memory.wfFrom (a + 1) m

/-- The canonical form of a memory. -/
def Memory.wf (m : Memory) : Bool := Memory.wfFrom 0 m

/-- What a waiting lane waits at (R188, R203). -/
inductive WaitAt where
  /-- A wait instruction or a stall that names no phase object. -/
  | plain
  /-- PHWAIT, on the phase object at this place: 2 scratchpad of a team, 4 chip scratchpad. -/
  | phase (space id addr : Nat)
  /-- PHWAIT, on the object at an address of a window whose bytes are on another device. -/
  | far (dst group addr : Nat)
  /-- The lane's own part of the instruction is over, or it is inactive for it, and other lanes of its melded region
  still wait (R80). -/
  | ended
deriving DecidableEq, Repr

/-- One lane of a braid: a thread (R20, R54, R57, R70). -/
structure Lane where
  /-- Program counter, a byte offset into the code object (R54, R135). -/
  pc : Pc
  /-- The thread has not exited (R192). -/
  live : Bool
  /-- p0-p7; bit 0 is 1 (R57). -/
  preds : BitVec 8
  /-- Call depth, 0 to 16 (R54, R55). -/
  depth : Nat
  /-- The 16 entries of the return stack (R54). -/
  stack : List Pc
  /-- The 96 lane-private bytes (R54, R56). -/
  priv : List Byte
  /-- v0 to v(nv - 1) (R57). -/
  v : List Word
  /-- Format tags of the vector registers (R58). -/
  tags : List Tag
  /-- Age counter (R73). -/
  age : Nat
  /-- The lane stands at a wait instruction or stalled instruction that has changed nothing (R188). -/
  wait : Option WaitAt
  /-- Clock at which a SLEEP ends, and the program counter after it (R211). -/
  sleepUntil : Option (Nat × Pc)
  /-- YIELD: not ready for one consideration (R210). -/
  yielded : Bool
  /-- Phase of the last arrival at the team barrier since binding (R196, R197). -/
  arrTeam : Option Nat
  /-- Phase of the last arrival at each group barrier, by Trellis index. -/
  arrGroup : List (Nat × Nat)
  /-- What happens before the lane's next access if it follows its last one (R280-R282), and what the issues it took
  part in since have placed before its next access. -/
  vc : Clocks
  /-- Release fences of the lane that a later synchronising write publishes (R281). -/
  fences : List Release
  /-- Releases that synchronising reads of the lane met, for a later acquire fence (R281). -/
  seen : List Release
  met : Clocks := []
deriving DecidableEq, Repr

/-- The presentation registers (R149). -/
structure Present where
  ecause : Word
  epc : Word
  emask : Word
  einst0 : Word
  einst1 : Word
  eop : Word
  /-- One word per lane. -/
  eregs : List Word
  evalue : Word
  enext : Word
deriving DecidableEq, Repr

/-- One entry of the issued-PC history (R365). -/
structure Hist where
  pc : Pc
  lanes : Mask
  path : Mask
  second : Bool
  meld : Bool
deriving DecidableEq, Repr

/-- Why a braid does not issue. -/
inductive BraidStop where
  | running
  /-- Stopped at a safe point, a stopping wait or a faulting instruction for a save, a move or a
  debug stop (R331, R343, R348, R384). -/
  | safePoint
  /-- Stopped by a fault whose record has this model-internal number (R327). -/
  | fault (id : Nat)
deriving DecidableEq, Repr

/-- An outstanding request of LDX or ATX with return, per lane (R247, R249). -/
structure PendX where
  pc : Pc
  lane : Nat
  tag : Nat
  /-- The reply's value, or its poison detail (R329). -/
  reply : Option (Word × Nat)
  /-- The releases that a synchronising read met at the target (R281, R295). -/
  rels : List Release
deriving DecidableEq, Repr

/-- A request of an engine element to a window part on another device (R119, R233): tracker, element,
tag, and the reply's bytes or its poison detail. -/
structure PendE where
  trk : Nat
  elem : Nat
  tag : Nat
  reply : Option (List Byte × Nat)
deriving DecidableEq, Repr

/-- A replay record on its way to the ring (R388): its type, rank, program counter and lanes, value,
handle or special register, and the line of a type 1 record. -/
structure LogRec where
  type : Nat
  rank : Nat
  pc : Pc
  lanes : Mask
  value : Nat
  handle : Nat
  line : List Byte
deriving DecidableEq, Repr

/-- A braid (R20, R54). -/
structure Braid where
  /-- Braid slot on the core, 0-63 (R12). -/
  slot : Nat
  /-- First granule of the braid's block (R53). -/
  base : Nat
  /-- s0-s63. -/
  s : List Word
  /-- NMODE (R61). -/
  nmode : Word
  /-- Path bits (R80). -/
  path : Mask
  /-- Meld state bit 0 (R80). -/
  meld : Bool
  /-- Rename tables (R81). -/
  mt0 : List Nat
  mt1 : List Nat
  pres : Present
  /-- The lanes that entered the running emulation handler (R147, R148). -/
  handler : Option Mask
  lanes : List Lane
  stop : BraidStop
  /-- The braid has not yet executed its first instruction after binding or restart (R216). -/
  fresh : Bool
  /-- Issued-PC history, newest first, at most 64 (R365). -/
  hist : List Hist
  /-- Requests whose data have not been taken (R247, R249). -/
  pendX : List PendX
  /-- Folly: c(b) and paid(b) (R387). -/
  follyC : Nat
  follyPaid : Nat
  /-- Issues since a debug step began (R385). -/
  stepIssues : Nat
  /-- Lanes that a resume or step lets past the stop they stand at (R385). -/
  passed : Mask
deriving DecidableEq, Repr

/-- A handle entry as read (R114). -/
structure Handle where
  shardVer : Word
  hdr : Word
  peerH : Nat
  wgroup : Nat
  stale : Bool
  checked : Bool
  cache : Nat
  space : Nat
  bound : Nat
  base : Nat
  /-- A reserved bit, SPACE or CACHE code or alignment breaks R116. -/
  bad : Bool
deriving DecidableEq, Repr

/-- A command in a tracker (R64, R231-R239, R274). -/
structure Command where
  inst : Instr
  /-- Rank of the issuing or submitting braid and the program counter of the issue. -/
  rank : Nat
  pc : Pc
  /-- Scalars named by D, A, B and C, as read at issue (R239). -/
  valD : Word
  valA : Word
  valB : Word
  valC : Word
  /-- Handle entries read at issue: H, AUX and PHH (R113). -/
  entH : Handle
  entAux : Handle
  entP : Handle
  /-- NMODE of the braid at issue (R62). -/
  nmode : Word
  /-- SHARD_VER of the handle (R129). -/
  shard : Word
  /-- Elements of the command and its completion bitmap. -/
  count : Nat
  bitmap : BitVec 64
  /-- GMMA: groups added (R267). -/
  added : Nat
  /-- The header has been read and the shard check made (R126, R129); the seed read (R272). -/
  headerDone : Bool
  seed : Word
  stale : Bool
  /-- Node offset, for a command started from a node (R241). -/
  node : Option Nat
  /-- The outstanding fault record that stops the command (R238). -/
  fault : Option Nat
  /-- Position in the team's issue order (R275). -/
  order : Nat
  /-- The command's party number and clocks (R279, R282). -/
  party : Nat
  vc : Clocks
deriving DecidableEq, Repr

/-- A held node's submission (R241): the node's offset, the submitting braid, its pc and clocks. -/
structure HeldNode where
  off : Nat
  rank : Nat
  pc : Pc
  /-- COUNT has reached zero and the start waits for a tracker. -/
  ready : Bool
  vc : Clocks
  nmode : Word
deriving DecidableEq, Repr

/-- A work entry of the collective engine (R253-R256, R298-R308). -/
structure WorkEntry where
  num : Nat
  kind : Nat
  op : Nat
  f : Tag
  handle : Handle
  hIndex : Nat
  off : Nat
  len : Nat
  peer : Nat
  ctr : Nat
  wtag : Nat
  group : Nat
  slot : Nat
  gen : Nat
  rank : Nat
  /-- Counter and threshold once armed (R255). -/
  armed : Option (Nat × Nat)
  /-- The entry has become ready and, for a receive, has sent its ready-to-receive message. -/
  fired : Bool
  /-- The ready-to-receive message a send entry holds. -/
  ready : Option XferMsg
  /-- Chunks sent (send) or applied (receive); chunks are applied in ascending order (R304). -/
  chunks : Nat
  /-- Chunks that arrived and are held in transit slots or the spill pool, by index (R305). -/
  held : List (Nat × List Byte)
  /-- Source-check mismatches by chunk (R308). -/
  mismatches : List (Nat × Nat)
  /-- Position among the entries of its group, TAG, peer and family, on its side (R254). -/
  ord : Nat
  /-- The parked match that the entry collects (R307). -/
  collect : Option Nat
  /-- The entry is over, with or without an error, and its counter waits for its team's restore (R253). -/
  ending : Option Bool
  fault : Option Nat
  party : Nat
  vc : Clocks
deriving DecidableEq, Repr

/-- One peer's close reply (R251). -/
structure CloseReply where
  src : Nat
  count : Nat
  errs : BitVec 7
deriving DecidableEq, Repr

/-- A BCLOSE that waits (R251): the braid and program counter it issued at, its tag, the peers asked, the
clock of its issue, the closed batch's count, and what its accesses release. -/
structure Closing where
  rank : Nat
  pc : Pc
  tag : Nat
  peers : List Nat
  since : Nat
  count : Nat
  rels : List (List Nat × Release)
deriving DecidableEq, Repr

/-- A batch of remote accesses (R251). -/
structure Batch where
  /-- Sum of the derived counts since the last close. -/
  count : Nat
  /-- The targets of each access and what it releases to the BCLOSE (R295). -/
  rels : List (List Nat × Release)
  closing : Option Closing
  replies : List CloseReply
  /-- The close timeout has expired (R251). -/
  timeout : Bool
deriving DecidableEq, Repr

/-- The states of a team (R32) that hold a record here; a team that is pending, retired or killed
has none. -/
inductive TeamStatus where
  /-- Bound by a bind record; its unit has not been started (R30, R31). -/
  | bound
  | running
  | saved
  /-- Saved, with a binding prepared for restore (R335). -/
  | prepared
  /-- Restored into its binding and stopped (R335). -/
  | restored
  /-- Its start is asked for, by a record or by CTXLD, and its unit is not started yet (R30, R340). -/
  | starting
  | heldExit
  /-- The exit is complete and the commands issued before it run on (R38). -/
  | exiting
  | retiring
deriving DecidableEq, Repr

/-- A stop in progress on a team (R343, R348, R384). -/
inductive StopReq where
  | none
  | save
  /-- The team has stopped for a save and no step of it runs any more: its unit is being saved, or its gang
  has reported PAUSED. -/
  | held
  | move (base : Nat)
  /-- Debug stop: cause of R382 (1 breakpoint, 2 BKPT, 3 step, 4 replay divergence), DATA1, and the
  requesting braid. -/
  | debug (cause : Nat) (data1 : Nat) (rank : Nat) (pc : Pc) (lanes : Mask)
deriving DecidableEq, Repr

/-- A team that is bound, saved, held or retiring (R20, R32, R50-R68). -/
structure Team where
  /-- Binding number, the model's own name of the team. -/
  uid : Nat
  /-- The launch's number in `launches`; none for a supervisor team (R324). -/
  launch : Option Nat
  /-- Linear index (R21). -/
  index : Nat
  part : Nat
  core : Nat
  status : TeamStatus
  /-- Granule BASE of the store footprint (R335). -/
  base : Nat
  /-- Physical tiles of c0, c1, ... (R264). -/
  phTiles : List Nat
  vblk : Nat
  scrGran : Nat
  /-- Translation context, code object, entry and handle table (R22, R351). -/
  ctx : Nat
  code : Nat
  handles : Nat
  entry : Nat
  codeLen : Nat
  emulVec : Nat
  braids : List Braid
  /-- Core scratchpad (R118). -/
  scratch : Memory
  /-- k0-k63 (R57). -/
  k : List Word
  /-- Releases that raised each counter (R281). -/
  kRel : List (Nat × Release)
  /-- Trackers 0-7 (R64). -/
  trackers : List (Option Command)
  /-- Commands issued so far (R275). -/
  issued : Nat
  nodes : List HeldNode
  /-- Pending carve-out, VBLK and SCR_GRAN (R65); `carveDue` once its barrier has been reached. -/
  carve : Option (Nat × Nat)
  carveDue : Bool
  /-- Tiles c0-c7 held: element 64 i + n at addresses 4 (64 i + n) (R264). -/
  tiles : List Memory
  tileTags : List Tag
  /-- Claimed operand slots: name and bytes (R260). -/
  slots : List (Nat × Memory)
  batches : List Batch
  entries : List WorkEntry
  posted : Nat
  /-- Entries posted so far, by group, TAG, peer and family (R254). -/
  ords : List (Nat × Nat)
  /-- Phase of the team barrier and the releases of its arrivals (R196). -/
  barPhase : Nat
  barRel : List (Nat × Release)
  /-- The team is in an idempotent region (R216). -/
  idem : Bool
  /-- The team has been counted in TRIGGERED (R41). -/
  triggered : Bool
  /-- Trellis indices of the window groups it has detached from (R34). -/
  detached : List Nat
  /-- Lines locked in the core cache (R228). -/
  locks : List Nat
  stop : StopReq
  /-- A stop asked for while another is in progress: it is taken when that one ends (R218, R343). -/
  wantStop : StopReq := .none
  /-- Clock at which that stop was asked, and whether Gazebo has reported of the stop in progress that it is late or
  that the save area is short (R337, R343). -/
  wantSince : Nat := 0
  lateTold : Bool := false
  shortTold : Bool := false
  /-- The debug stop in force (R384), and a debug step under way (R385). -/
  dbgStopped : Bool
  dbgStep : Bool
  /-- Clock of the last bind or restore (R341), and when a stop was asked (R343). -/
  since : Nat
  stopSince : Nat
  /-- A core dump has been taken (R364). -/
  dumped : Bool
  /-- The team's braids have all exited and its resources are being released (R38). -/
  exited : Bool
  /-- The team is restored for replay, and its place in the log (R390). -/
  replay : Option Nat
  /-- Lines logged, or replayed, in the present interval: handle and handle offset, and the line as
  logged (R389, R390). -/
  logged : List (Nat × List Byte)
  /-- Replay records that the step in progress writes (R389). -/
  logQueue : List LogRec
  /-- Requests of engine elements to window parts on other devices. -/
  pendE : List PendE
deriving DecidableEq, Repr

/-- The barrier of a group (R196-R198). -/
structure GroupBarrier where
  phase : Nat
  broken : Bool
  rels : List (Nat × Release)
  /-- Member indices that left the barrier, and those that took part in the current phase. -/
  gone : List Nat
  took : List Nat
deriving DecidableEq, Repr

/-- A ticket sequence (R204, R205). -/
structure TicketSeq where
  now : Nat
  poison : Bool
  pass : List Nat
  poisonAt : List Nat
  rels : List Release
deriving DecidableEq, Repr

/-- A used Trellis entry as copied at validation (R25), with the state of its group. -/
structure Group where
  /-- Trellis index. -/
  index : Nat
  b : Bool
  w : Bool
  c : Bool
  span : Bool
  /-- Linear indices of the members in this launch, ascending. -/
  members : List Nat
  winGran : Nat
  gang : Word
  peers : Word
  /-- Member counts of the other devices of a gang, by coordinate (R28, R346). -/
  remote : List (Nat × Nat)
  /-- Members that have departed (R36): linear indices. -/
  departed : List Nat
  /-- Members whose exit has begun or completed, or that have detached (R35). -/
  left : List Nat
  bar : GroupBarrier
  tickets : List TicketSeq
deriving DecidableEq, Repr

/-- Where a launch stands. -/
inductive LaunchPhase where
  /-- Validated and waiting for its predecessor (R41). -/
  | waiting
  /-- In the admission order. -/
  | admitted
  /-- Retired, failed or killed as a whole. -/
  | ended
deriving DecidableEq, Repr

/-- A validated launch (R22, R25, R39-R45). -/
structure Launch where
  num : Nat
  part : Nat
  ctx : Nat
  doneRec : Nat
  predRec : Nat
  predCond : Nat
  streamCount : Nat
  streamBase : Nat
  streamKey : Word
  param : Word
  handles : Nat
  det : Bool
  prio : Nat
  scrGran : Nat
  accTiles : Nat
  vblk : Nat
  braids : Nat
  gridX : Nat
  gridY : Nat
  gridZ : Nat
  entry : Nat
  code : Nat
  codeLen : Nat
  emulVec : Nat
  /-- Safe-point table: program counters in ordinal order (R378). -/
  spt : List Nat
  groups : List Group
  phase : LaunchPhase
  /-- STATE, PREFIX, TRIGGERED and POISON of the completion record (R39). -/
  st : Nat
  prefixN : Nat
  triggered : Nat
  poison : Bool
  /-- Marks of the reorder window and exits beyond it (R40). -/
  marks : List Nat
  /-- Linear indices that are not pending: bound at least once, or killed unbound. -/
  started : List Nat
  /-- Killed teams and teams counted in TRIGGERED and not yet passed by PREFIX. -/
  counted : List Nat
  /-- The launch was killed as a whole (R42). -/
  killed : Bool
  /-- Teams of a gang share that FAIL ended (R346) never start. -/
  barred : List Nat
  /-- Hitch (R45, R207): the identifier whose turn is served, whether it is held, turns passed in
  advance, poisoned passes, and the releases of ended turns. -/
  hitchNow : Nat
  hitchHeld : Bool
  hitchPassed : List Nat
  hitchPoisonAt : List Nat
  hitchPoison : Bool
  hitchRel : List Release
  /-- What the start of the launch acquires (R281: LAUNCH and predecessor rows). -/
  startVc : Clocks
  /-- Releases of TRIG and EXIT of its teams (R281). -/
  trigRel : List Release
  exitRel : List Release
  /-- Gangs of which every share has been validated: their units may be placed (R346). -/
  gangReady : List Word
  /-- Gangs whose coordinator has sent GO to a unit that is not started yet (R345). -/
  gangGo : List Word := []
  /-- Its place among launches of one priority (R48, R340): the launch that it stands with, which is itself unless an
  older child of its deterministic parent has not started, its parent with its place among the siblings. -/
  lead : Nat := 0
  parent : Option (Nat × Nat) := none
deriving DecidableEq, Repr

/-- A record in the launch queue (R339). -/
structure QueueEntry where
  addr : Nat
  ctx : Nat
  vc : Clocks
  /-- Parent launch and logical identifier, for a child of a deterministic launch (R48). -/
  parent : Option (Nat × Nat)
deriving DecidableEq, Repr

/-- A fault record before or after posting (R328). `seq` stands once it is posted. -/
structure FaultRec where
  id : Nat
  seq : Option Nat
  wtag : Nat
  group : Nat
  handle : Nat
  we : Bool
  eng : Bool
  elem : Nat
  trk : Nat
  rank : Nat
  detail : Nat
  cause : Nat
  coord : Nat
  team : Nat
  pc : Nat
  lanes : Mask
  party : Word
  info : Word
  addr : Word
  launch : Word
  /-- The party: binding number of the team, and the work entry's number when WE = 1. -/
  uid : Nat
  entry : Nat
deriving DecidableEq, Repr

/-- A trace record that waits for ring space (R382). -/
structure TraceRec where
  type : Nat
  launch : Word
  team : Nat
  ord : Nat
  off : Nat
  lanes : Mask
  data0 : Word
  data1 : Word
  rank : Nat
  stamp : Nat
deriving DecidableEq, Repr

/-- A declared stream that is live (R24). -/
structure Stream where
  key : Word
  base : Nat
  count : Nat
  launch : Nat
deriving DecidableEq, Repr

/-- A core dump in the ring (R364-R366). -/
structure Dump where
  off : Nat
  len : Nat
  vblk : Nat
  time : Nat
  sent : Bool
deriving DecidableEq, Repr

/-- A Folly trial (R386, R387). -/
structure Trial where
  launch : Nat
  del : Nat
  g : Nat
  start : Nat
  /-- Clock at which DUR has elapsed. -/
  till : Nat
deriving DecidableEq, Repr

/-- A write of several packets under way (R392): its key, where its next packet goes, what is left, and its length. -/
structure HostWrite where
  rkey : BitVec 32
  addr : Nat
  left : Nat
  len : Nat
deriving DecidableEq, Repr

/-- A queue pair (R392, R393): its host port, path MTU, the packet sequence number it expects, and the write under way. -/
structure QueuePair where
  num : Nat
  port : Nat
  mtu : Nat
  psn : Nat
  write : Option HostWrite
  error : Bool
deriving DecidableEq, Repr

/-- What the coordinator of a gang has gathered (R345, R346), and where its member devices stand. -/
structure GangState where
  gang : Word
  pausing : Bool
  /-- Devices whose shares have passed validation, with their member counts. -/
  validated : List (Nat × Nat)
  paused : List Nat
  idem : List Nat
  ready : List Nat
  /-- This device has stopped its members and not yet reported PAUSED. -/
  stopping : Bool
  /-- A device has failed its share, known before this device's launch was validated (R346). -/
  failed : Bool := false
  /-- Shares validated for a launch of the gang that follows the present one here. -/
  early : List (Nat × Nat) := []
deriving DecidableEq, Repr

/-- A parked chunk (R306): the receiving team, group, TAG, sender rank, generation, length of the
match, chunk index and bytes. -/
structure Parked where
  uid : Nat
  group : Nat
  wtag : Nat
  src : Nat
  gen : Nat
  len : Nat
  /-- Position of the parked match, and its chunk. -/
  ord : Nat
  chunk : Nat
  data : List Byte
deriving DecidableEq, Repr

/-- A partition (R395): its registers and the units that act for it. -/
structure Partition where
  num : Nat
  /-- System registers that differ from their reset values, by number and index (R326). -/
  regs : List (Nat × Word)
  /-- Armed landing slots by clock and area, in the order in which they enter the queue (R338, R339). -/
  armed : List (Nat × Nat)
  queue : List QueueEntry
  streams : List Stream
  /-- Fault records that wait for queue space, oldest first, and those outstanding (R327). -/
  faultWait : List FaultRec
  faults : List FaultRec
  traceWait : List TraceRec
  dumps : List Dump
  /-- Images in the save area: team and offset (R337, R343). -/
  images : List (Nat × Nat)
  trial : Option Trial
  /-- Limiter floor, ceiling and last sample in W, throttled clocks in 64 and holding steps in per
  cent (R350, R397). -/
  floor : Nat
  ceil : Nat
  throttle : Nat
  holding : Nat
  /-- Telemetry records written and not yet sent (R397). -/
  telSent : Nat
  qps : List QueuePair
  regions : List Region
  gangs : List GangState
  /-- A wipe is under way (R400), and landing areas are open (R393, R401). -/
  wiping : Bool
  open_ : Bool
  /-- The last bring-up step completed, and a step of its bring-up has failed (R401). -/
  stage : Nat := 0
  stuck : Bool := false
  /-- The head of the admission order that has waited 1 ms: launch and lowest index (R340). -/
  head : Option (Nat × Nat)
  /-- Chunks parked in the spill pool (R306). -/
  parked : List Parked
  /-- Ready-to-receive messages whose send entry is not posted yet (R301). -/
  rtr : List XferMsg
deriving DecidableEq, Repr

/-- The kinds of memory the race detector and the location order distinguish (R286, R276); `node` keeps, beside a node
record's bytes, which DGN and DGL came before the engine's next access of the record (R240). -/
inductive LocKind where
  | scratch | chip | phys | tile | slot | node
deriving DecidableEq, Repr

/-- An entry of the detector's shadow state (R289). -/
structure Shadow where
  kind : LocKind
  /-- The team whose scratchpad, tile or slot it is; 0 otherwise. -/
  id : Nat
  /-- Granule number: address / 64, or the tile or slot name. -/
  granule : Nat
  bytes : BitVec 64
  write : Bool
  sync : Bool
  engine : Bool
  remote : Bool
  trk : Nat
  party : Nat
  epoch : Nat
  uid : Nat
  rank : Nat
  launch : Option Nat
  index : Nat
  core : Nat
  coord : Nat
  /-- Clock of the access. -/
  time : Nat
  /-- The groups of the party's team (R292), and for a remote access the launch it met (R124). -/
  keys : List Nat
  under : Option Nat
  /-- The partition whose storage holds the entry, and the teams that the accessor's core held at the access
  (R292). -/
  part : Nat := 0
  there : List Nat := []
deriving DecidableEq, Repr

/-- The releases that a synchronising read of these bytes meets (R281). -/
structure LocRelease where
  kind : LocKind
  id : Nat
  addr : Nat
  len : Nat
  rels : List Release
  /-- The bytes have been written since: only an atomic that follows passes these releases on (R281). -/
  old : Bool := false
deriving DecidableEq, Repr

/-- An entry of the translation that the device holds (R356): context, level (4 for the
descriptor), the address bits that select it, and the entry. -/
structure Held where
  part : Nat
  ctx : Nat
  level : Nat
  tag : Nat
  entry : Word
deriving DecidableEq, Repr

/-- A contribution to a reduction (R250): its origin, the batch it counts in there and here, and its value. -/
structure Contribution where
  src : Nat
  origin : Origin
  key : Nat
  gen : Nat
  tag : Nat
  value : Nat
deriving DecidableEq, Repr

/-- An open reduction at the root (R250): the launch, the first contribution's record, and those received. -/
structure Reduction where
  part : Nat
  launch : Nat
  record : FabRecord
  expected : Nat
  data : List Contribution
  /-- It is complete, and the device that owns the bytes of its window part applies it under this tag. -/
  tag : Option Nat := none
deriving DecidableEq, Repr

/-- What a target has received of one origin team's batch (R251). -/
structure RcvBatch where
  part : Nat
  src : Nat
  /-- Team and batch of the origin, as its tags carry them, and which of its batches in turn. -/
  key : Nat
  gen : Nat
  count : Nat
  errs : BitVec 7
  /-- Accesses received and not yet performed: contributions to open reductions. -/
  open_ : Nat
  /-- The close request that waits for them. -/
  close : Option FabRecord
deriving DecidableEq, Repr

/-- A remote access that this device has received and not yet performed (R124, R248, R250): it waits for an open
reduction to close, or, under a tag, for the device that owns the bytes. -/
structure Deferred where
  part : Nat
  record : FabRecord
  /-- Which of the origin's batches it belongs to. -/
  gen : Nat
  tag : Option Nat
deriving DecidableEq, Repr

/-- A remote access of this device whose acknowledgements are being summed (R246). -/
structure Tx where
  tag : Nat
  uid : Nat
  rank : Nat
  lane : Nat
  need : Nat
  got : Nat
  /-- The record as sent, and its device, for a request sent again (R377). -/
  record : FabRecord
  dst : Nat
deriving DecidableEq, Repr

/-- An expanding unit's sum of acknowledgements of copies it forwarded (R246). -/
structure AckSum where
  src : Nat
  tag : Nat
  need : Nat
  got : Nat
  back : Nat
deriving DecidableEq, Repr

/-- One direction of a link as its sender keeps it (R373-R376). -/
structure LinkTx where
  slot : Bool
  ctr0 : Nat
  ctr1 : Nat
  key0 : Option (BitVec 256)
  key1 : Option (BitVec 256)
  /-- The key in the idle slot is the one before the last marker, kept until that marker's retry entry is freed. -/
  old : Bool := false
  seq : Nat
  sent : Nat
  returned : Nat
  retry : List Flit
  /-- Flits still to be sent again (R374). -/
  resend : List Flit := []
  sinceState : Nat
  asked : Bool
  /-- Flits sent in the present dwell (R368). -/
  dwell : Nat := 0
deriving DecidableEq, Repr

/-- The other direction as its receiver keeps it. -/
structure LinkRx where
  expect : Nat
  refusing : Bool
  slot : Bool
  key0 : Option (BitVec 256)
  key1 : Option (BitVec 256)
  last0 : Option Nat
  last1 : Option Nat
  freed : Nat
  /-- Slots freed since the last flit sent back. -/
  owed : Nat
  mark : Nat
  emptyDwells : Nat
  heard : Bool
deriving DecidableEq, Repr

/-- A link (R368). -/
structure Link where
  num : Nat
  up : Bool
  tx : LinkTx
  rx : LinkRx
deriving DecidableEq, Repr

/-- A flit in a partition's relay store (R369): the link it came in on, and whether it still occupies a receive slot
there, since the store is full. -/
structure Relayed where
  link : Nat
  stalled : Bool
  flit : Flit
deriving DecidableEq, Repr

/-- A CXL port with attached memory (R355, R400). -/
structure CxlPort where
  port : Nat
  bytes : Nat
  /-- Sanitize has completed and the device may be mapped. -/
  clean : Bool
deriving DecidableEq, Repr

/-- What leaves through the host ports (R392, R393, R366, R397, R398). -/
inductive HostMsg where
  | ack (part qp : Nat)
  | nakAccess (part qp : Nat)
  | nakInvalid (part qp : Nat)
  | rnr (part qp : Nat)
  /-- A packet ahead of the one expected (R393). -/
  | nakSequence (part qp : Nat)
  | data (part : Nat) (kind : Nat) (bytes : List Byte)
  | attest (words : List Word) (lc : Nat) (partids : List Word) (nonce : BitVec 256)
      (sig : List Word)
  /-- A bring-up step of a partition has failed (R401). -/
  | failed (part step : Nat)
  /-- How many fault records wait for queue space (R327). -/
  | faultsWaiting (part n : Nat)
deriving DecidableEq, Repr

/-- What the hardware reports to Gazebo or through it to system software. -/
inductive GazeboMsg where
  /-- A fault or unhandled trap of a supervisor team (R327). -/
  | supervisorFault (r : FaultRec)
  /-- The first fault record that waits for queue space (R327). -/
  | faultWaiting (part : Nat)
  | predFault (launch : Nat)
  | saveShort (part uid : Nat)
  | stopLate (uid : Nat)
  | linkDown (link : Nat)
  | keyWanted (link : Nat)
  | cores (core : Nat) (action : Nat)
  | headBlocked (part launch index : Nat)
  | slotEntered (part area : Nat)
  /-- A register write of Gazebo's is refused with OPND 2 (R326, R396). -/
  | refused (part num idx : Nat)
deriving DecidableEq, Repr

/-- A word with injected soft errors (R362, R363): a line poisoned in DRAM or the L2, a single-bit
error that SECDED corrects, or a parity error of the unified store with the number of reads that
still fail. -/
inductive SoftError where
  | poison (line : Nat) (l2 : Bool)
  | single (word : Nat)
  | parityScratch (uid word : Nat) (fails : Nat)
  | parityReg (uid rank lane reg : Nat) (fails : Nat)
deriving DecidableEq, Repr

/-- The issue that `exec` performs: a PC group of a braid (R70). -/
structure Issue where
  uid : Nat
  rank : Nat
  lanes : Mask
  pc : Pc
  second : Bool
deriving DecidableEq, Repr

/-- The state of the machine. -/
structure State where
  /-- Physical memory: DRAM and far memory (R355). -/
  mem : Memory
  /-- Chip scratchpad (R121). -/
  chip : Memory
  teams : List Team
  launches : List Launch
  parts : List Partition
  /-- Arithmetic clocks since reset (R221). -/
  clock : Nat
  /-- IEEE 1588 time in nanoseconds (R394), sevenths of a nanosecond not yet counted, and ptpstat. -/
  time : Nat
  timeFrac : Nat
  ptpLocked : Bool
  /-- The clock has been locked since reset: it is never stepped again (R394). -/
  ptpSynced : Bool
  ptpPort1 : Bool
  ptpOffset : Int
  /-- An offset still to be slewed out (R394). -/
  slew : Int
  devid : Word
  lcstate : Nat
  /-- The life-cycle state that the wipe under way leads to (R399). -/
  lcNext : Option Nat
  /-- The last step completed of those that the device takes as a whole, 1 to 3 (R401). -/
  bootstage : Nat
  /-- The digest of the public key that boot images are signed under, fused at manufacture (R398). -/
  fusedKey : BitVec 512
  /-- What the bring-up that runs, or has run, meets (R401). -/
  boot : Option BringUp
  meas : List Word
  /-- The device identity key exists (R398, R399). -/
  idKey : Bool
  /-- The package slope that the operator provisions (R396). -/
  pkgSlope : Nat
  /-- CXL memory that system software has attached (R355). -/
  cxl : List CxlPort
  soft : List SoftError
  /-- Rotating pointers of the sides that moved: side number and slot index 0-15 (R72). -/
  pointers : List (Nat × Nat)
  /-- Sides that have had their turn in this clock or are occupied in it, sides occupied in the next (R12), and
  the braids that sides have served in this clock. -/
  served : List Nat
  busyNext : List Nat
  issued : List (Nat × BraidRef)
  /-- The lowest slot of the team that a core's engine (2 · core) and array (2 · core + 1) served last (R13). -/
  turns : List (Nat × Nat)
  /-- An asynchronous step has been taken in this clock. -/
  autoDone : Bool
  /-- Cores stopped at 115 degrees (R396), and those that stay above the threshold with nothing left to shed (R347). -/
  tripped : List Nat
  hot : List Nat
  /-- Core-cache copies of 64-byte lines of global and far memory, by core and line (R287). -/
  copies : List (Nat × List (Nat × List Byte))
  /-- Translations held (R356). -/
  held : List Held
  /-- Code blocks fetched and kept (R136): launch or supervisor team, address and bytes. -/
  fetched : List (Nat × Nat × List Byte)
  /-- Race detector (R289), the entries that its own storage holds (R292: the number is the implementation's), and
  release clocks by location. -/
  shadow : List Shadow
  shadowRoom : Nat
  locRels : List LocRelease
  /-- Parties numbered so far, and the model's record, binding and launch numbers. -/
  parties : Nat
  uids : Nat
  launchNums : Nat
  faultIds : Nat
  tags : Nat
  /-- Choices that the spec leaves to the implementation, taken so far (Config.choice). -/
  choices : Nat
  /-- What the fabric units (R244-R252) have to send, by partition, oldest first. -/
  fabOut : List (Nat × Outgoing)
  txs : List Tx
  ackSums : List AckSum
  reds : List Reduction
  rcv : List RcvBatch
  /-- Remote accesses received and not yet performed, oldest first. -/
  deferred : List Deferred
  /-- Values returned by atomics with return, for a request sent again (R377). -/
  atomLog : List (Nat × Nat × Word × List Release)
  links : List Link
  linkOut : List (Nat × Flit)
  /-- Route tables (R369): partition, destination, route. -/
  routes : List (Nat × Nat × Route)
  /-- Schedule table: link, peer coordinate, peer port. -/
  sched : List (Nat × Nat × Nat)
  /-- Flits to be relayed (R369), oldest first. -/
  relay : List Relayed
  hostOut : List HostMsg
  gazebo : List GazeboMsg
  /-- The issue being performed, and the second group of the cycle (R73, R79). -/
  cur : Issue
  second : Option Issue
  /-- Steps that agents outside the core, or units inside it, take next, in this order. -/
  inputs : List Instr
deriving DecidableEq, Repr

/-- Why the machine stops. -/
inductive Fault where
  /-- Raised by exec for an instruction when `cur` names no braid of a bound team: no hardware issues
  an instruction without a braid. Safe: the machine stops. -/
  | noBraid
deriving DecidableEq, Repr

/-- Why an instruction has no meaning. -/
inductive Refusal where
  /-- Raised by the dispatch for an instruction without a meaning yet. Safe: the machine stops. -/
  | notModelled (mnemonic : String)
deriving DecidableEq, Repr

/-- A partition right after reset (R326, R401). -/
def Partition.reset (n : Nat) : Partition :=
  { num := n, regs := [], armed := [], queue := [], streams := [], faultWait := [], faults := []
    traceWait := [], dumps := [], images := [], trial := none, floor := 0, ceil := 0
    throttle := 0, holding := 0, telSent := 0, qps := [], regions := [], gangs := []
    wiping := false, open_ := false, head := none, parked := [], rtr := [] }

/-- An issue that names no braid. -/
def Issue.none : Issue := { uid := 0, rank := 0, lanes := 0, pc := 0, second := false }

/-- The machine right after power-on reset, before bring-up step 1 (R401): no team, memories zero,
every register at its reset value. -/
def State.reset : State :=
  { mem := [], chip := [], teams := [], launches := [], parts := [Partition.reset 0]
    clock := 0, time := 0, timeFrac := 0, ptpLocked := false, ptpSynced := false, ptpPort1 := false, ptpOffset := 0
    slew := 0, devid := 0x01, lcstate := 2, lcNext := none, bootstage := 0, fusedKey := 0, boot := none, meas := List.replicate 24 0
    idKey := true, pkgSlope := 40, cxl := [], soft := [], pointers := [], served := []
    busyNext := [], issued := [], turns := [], autoDone := false, tripped := [], hot := [], copies := [], held := [], fetched := [], shadow := []
    shadowRoom := 1048576, locRels := [], parties := 1, uids := 1, launchNums := 1, faultIds := 1
    tags := 1, choices := 0, fabOut := [], txs := [], ackSums := [], reds := [], rcv := [], deferred := []
    atomLog := [], links := [], linkOut := [], routes := [], sched := [], relay := []
    hostOut := [], gazebo := [], cur := Issue.none, second := Option.none, inputs := [] }

end Sys2Proof.Machine
end

