-- ==== Sys2Proof/Machine/Bits.lean ====
section
/-! DEFINITION. Bit fields, lane masks, sparse tables and the bytes of a memory: the plain helpers
that the meanings share. -/

namespace Sys2Proof.Machine

/-- Bits [hi:lo] of a number (R3). -/
def bitsOf (v hi lo : Nat) : Nat := v / 2 ^ lo % 2 ^ (hi + 1 - lo)

/-- Bit k of a number. -/
def bitAt (v k : Nat) : Bool := v / 2 ^ k % 2 == 1

/-- The value of a w-bit pattern read as two's complement. -/
def signed (w v : Nat) : Int :=
  if v % 2 ^ w < 2 ^ (w - 1) then Int.ofNat (v % 2 ^ w) else Int.ofNat (v % 2 ^ w) - Int.ofNat (2 ^ w)

/-- An integer modulo 2^w. -/
def wrapInt (w : Nat) (v : Int) : Nat := (v % Int.ofNat (2 ^ w)).toNat

/-- A word from a number. -/
def word (v : Nat) : Word := BitVec.ofNat 64 v

/-- Truth as a bit. -/
def bit (b : Bool) : Nat := if b then 1 else 0

/-- The lanes 0 to 31. -/
def allLanes : List Nat := List.range 32

/-- The lanes of a mask in ascending order. -/
def Mask.lanes (m : Mask) : List Nat := allLanes.filter fun l => m.getLsbD l

/-- The mask of a list of lanes. -/
def maskOf (ls : List Nat) : Mask := ls.foldl (fun m l => m ||| BitVec.ofNat 32 (2 ^ l)) 0

/-- The lanes of which a test holds. -/
def maskWhere (p : Nat → Bool) : Mask := maskOf (allLanes.filter p)

/-- The lowest lane of a mask; 0 for the empty mask. -/
def Mask.lowest (m : Mask) : Nat := (Mask.lanes m).headD 0

/-- The number of lanes of a mask. -/
def Mask.count (m : Mask) : Nat := (Mask.lanes m).length

/-- The set bits of a number below n, ascending. -/
def setBits (n v : Nat) : List Nat := (List.range n).filter fun k => bitAt v k

/-- One 64-bit word with bit k of every listed k set. -/
def bitsWord (ks : List Nat) : Word := ks.foldl (fun m k => m ||| word (2 ^ k)) 0

/-- A sparse table's entry, or the default. -/
def tabGet {α : Type} (d : α) : List (Nat × α) → Nat → α
  | [], _ => d
  | (j, v) :: t, k => if j = k then v else tabGet d t k

/-- A sparse table with one entry set, keys kept rising. -/
def tabPut {α : Type} : List (Nat × α) → Nat → α → List (Nat × α)
  | [], k, v => [(k, v)]
  | (j, w) :: t, k, v =>
    if k < j then (k, v) :: (j, w) :: t
    else if j = k then (k, v) :: t
    else (j, w) :: tabPut t k v

/-- A sparse table without an entry. -/
def tabDrop {α : Type} (t : List (Nat × α)) (k : Nat) : List (Nat × α) := t.filter fun e => e.1 != k

/-- Insert a number once, keeping the list rising. -/
def insertNat (n : Nat) : List Nat → List Nat
  | [] => [n]
  | m :: ms => if n < m then n :: m :: ms else if n = m then m :: ms else m :: insertNat n ms

/-- One byte of a memory; an unlisted address reads zero. -/
def Memory.get : Memory → Nat → Byte
  | [], _ => 0
  | (a, v) :: m, k => if a = k then v else Memory.get m k

/-- n bytes from an address on. -/
def Memory.read (m : Memory) (a : Nat) : Nat → List Byte
  | 0 => []
  | n + 1 => m.get a :: Memory.read m (a + 1) n

/-- The cells of bytes from an address on; a zero byte is not listed. -/
def Memory.cells (a : Nat) : List Byte → Memory
  | [] => []
  | b :: bs => if b = 0 then Memory.cells (a + 1) bs else (a, b) :: Memory.cells (a + 1) bs

/-- Bytes stored from an address on. -/
def Memory.write (m : Memory) (a : Nat) (bs : List Byte) : Memory :=
  m.filter (fun c => c.1 < a) ++ (Memory.cells a bs ++ m.filter fun c => a + bs.length ≤ c.1)

/-- A little-endian number of n bytes (R3). -/
def Memory.nat (m : Memory) (a n : Nat) : Nat := leNat (m.read a n)

/-- A number stored as n little-endian bytes. -/
def Memory.putNat (m : Memory) (a n v : Nat) : Memory := m.write a (leBytes n v)

/-- A memory without the bytes from lo to hi - 1: they read zero. -/
def Memory.clear (m : Memory) (lo hi : Nat) : Memory := m.filter fun c => c.1 < lo || hi ≤ c.1

end Sys2Proof.Machine

namespace Sys2Proof
open Machine

/-- Least common upper bound of two vector clocks. -/
def Clocks.join (x y : Clocks) : Clocks :=
  y.foldl (fun t e => tabPut t e.1 (max e.2 (tabGet 0 t e.1))) x

/-- A vector clock has seen epoch c of party p. -/
def Clocks.seen (x : Clocks) (p c : Nat) : Bool := c ≤ tabGet 0 x p

end Sys2Proof
end

