-- ==== Sys2Proof/Machine/Numbers.lean ====
section
/-! DEFINITION. Number formats, exact values, rounding and saturation (R89-R104), the keyed
generator (R111) and the stochastic draw (R101). -/

namespace Sys2Proof.Machine

/-- An exact value: a real number as sign and fraction, an infinity or NaN (R98). A zero keeps its
sign; the denominator is positive. -/
inductive Val where
  | nan
  | inf (neg : Bool)
  | num (neg : Bool) (n d : Nat)
deriving DecidableEq, Repr

/-- Element e of a register read in elements of width w (R89). -/
def elemOf (w e : Nat) (r : Word) : Nat := r.toNat / 2 ^ (w * e) % 2 ^ w

/-- A register from its elements, element 0 lowest (R89). -/
def packElems (w : Nat) : List Nat → Nat
  | [] => 0
  | e :: es => e % 2 ^ w + 2 ^ w * packElems w es

/-- The elements of a register under a format (R89); bits [63:60] of L6 are ignored (R90). -/
def elems (t : Tag) (r : Word) : List Nat := (List.range (fmtCount t)).map fun e => elemOf (fmtWidth t) e r

/-- A register from elements of a format; an L6 result has bits [63:60] zero (R90). -/
def fromElems (t : Tag) (es : List Nat) : Word := word (packElems (fmtWidth t) es)

/-- An I format (R91). -/
def isSigned (t : Tag) : Bool := 1 ≤ t.toNat && t.toNat ≤ 4
/-- An integer format. -/
def isInt (t : Tag) : Bool := 1 ≤ t.toNat && t.toNat ≤ 8
/-- A binary floating-point format (R94). -/
def isFloat (t : Tag) : Bool := 9 ≤ t.toNat && t.toNat ≤ 14

/-- Fields of a floating-point format (R94): exponent bits, fraction bits, bias, infinities. -/
structure FloatFmt where
  ebits : Nat
  fbits : Nat
  bias : Nat
  hasInf : Bool
deriving DecidableEq, Repr

def floatFmt (t : Tag) : FloatFmt :=
  match t.toNat with
  | 9 => ⟨11, 52, 1023, true⟩
  | 11 => ⟨5, 10, 15, true⟩
  | 12 => ⟨8, 7, 127, true⟩
  | 13 => ⟨4, 3, 7, false⟩
  | 14 => ⟨5, 2, 15, true⟩
  | _ => ⟨8, 23, 127, true⟩

/-- The encoding of the sign bit. -/
def FloatFmt.sign (q : FloatFmt) (neg : Bool) : Nat := bit neg * 2 ^ (q.ebits + q.fbits)
/-- +infinity, canonical NaN and largest finite magnitude (R95). -/
def FloatFmt.inf (q : FloatFmt) : Nat := (2 ^ q.ebits - 1) * 2 ^ q.fbits
def FloatFmt.nan (q : FloatFmt) : Nat :=
  if q.hasInf then q.inf + 2 ^ (q.fbits - 1) else 2 ^ (q.ebits + q.fbits) - 1
def FloatFmt.largest (q : FloatFmt) : Nat := if q.hasInf then q.inf - 1 else q.nan - 1

/-- 2^k as a fraction, for any integer k. -/
def pow2 (k : Int) : Nat × Nat := if 0 ≤ k then (2 ^ k.toNat, 1) else (1, 2 ^ (-k).toNat)

/-- The value times 2^k, exactly (R104). -/
def Val.scale (v : Val) (k : Int) : Val :=
  match v with
  | .num s n d => .num s (n * (pow2 k).1) (d * (pow2 k).2)
  | _ => v

/-- The value of a floating-point encoding (R94). -/
def FloatFmt.value (q : FloatFmt) (x : Nat) : Val :=
  let neg := bitAt x (q.ebits + q.fbits)
  let e := x / 2 ^ q.fbits % 2 ^ q.ebits
  let f := x % 2 ^ q.fbits
  if q.hasInf && e == 2 ^ q.ebits - 1 then (if f == 0 then .inf neg else .nan)
  else if !q.hasInf && e == 2 ^ q.ebits - 1 && f == 2 ^ q.fbits - 1 then .nan
  else if e == 0 then (Val.num neg f 1).scale (1 - q.bias - q.fbits)
  else (Val.num neg (2 ^ q.fbits + f) 1).scale (e - q.bias - q.fbits)

/-- t(f) of R102. -/
def l6t (f : Nat) : Nat :=
  match f with
  | 0 => 0x1000
  | 1 => 0x1307
  | 2 => 0x16A1
  | 3 => 0x1AE9
  | _ => 0x2000

/-- grid(q) of R103 as a fraction. -/
def l6grid (q : Int) : Nat × Nat :=
  let k := Int.fdiv q 4
  let f := (q - 4 * k).toNat
  (l6t f * (pow2 k).1, 4096 * (pow2 k).2)

/-- V(c) of R102. -/
def l6value (x : Nat) : Val :=
  let c := x % 32
  let neg := bitAt x 5
  if c == 0 then (if neg then .nan else .num false 0 1)
  else let g := l6grid (Int.ofNat c - 16); .num neg g.1 g.2

/-- The value of an element of any format but untagged (R91, R94, R102). -/
def elemValue (t : Tag) (x : Nat) : Val :=
  if t == 15 then l6value x
  else if isFloat t then (floatFmt t).value x
  else if isSigned t then let i := signed (fmtWidth t) x; .num (i < 0) i.natAbs 1
  else .num false x 1

/-- ⌊log₂ (n / d)⌋ for positive n and d. -/
def floorLog2 (n d : Nat) : Int :=
  let e := Int.ofNat n.log2 - Int.ofNat d.log2
  let p := pow2 e
  if p.1 * d ≤ n * p.2 then e else e - 1

/-- The choice between the lower neighbour and the upper one (R99): the part r / d of the way from
lo to hi, whether lo's encoding is even, the sign, the code and the draw. True picks hi. -/
def pickHi (code : Nat) (neg loEven : Bool) (r d u : Nat) : Bool :=
  if r == 0 then false
  else
    match code with
    | 0 => if 2 * r == d then !loEven else d < 2 * r
    | 1 => false
    | 2 => neg
    | 3 => !neg
    | 4 => d ≤ 2 * r
    | _ => u < 2 ^ 32 * r / d

/-- A rounding code of R99 and SAT (R61). -/
structure Rnd where
  code : Nat
  sat : Bool
deriving DecidableEq, Repr

/-- Nearest-even without saturation: F32 and F64 (R98). -/
def Rnd.ne : Rnd := ⟨0, false⟩

/-- The result of an overflow (R100), for the encodings of infinity or NaN and of the largest. -/
def overflowPick (r : Rnd) (neg : Bool) : Bool :=
  -- true: the largest finite value
  r.sat || r.code == 1 || (r.code == 2 && !neg) || (r.code == 3 && neg)

/-- Rounds a value to a floating-point format (R98-R100). -/
def FloatFmt.round (q : FloatFmt) (v : Val) (r : Rnd) (u : Nat) : Nat :=
  let past (neg : Bool) : Nat :=
    if overflowPick r neg then q.sign neg + q.largest
    else if q.hasInf then q.sign neg + q.inf else q.nan
  match v with
  | .nan => q.nan
  | .inf neg => past neg
  | .num neg n d =>
    if n == 0 then q.sign neg
    else
      let emin : Int := 1 - q.bias
      let e := max (floorLog2 n d) emin
      -- the magnitude in units of 2^(e - fbits)
      let p := pow2 (e - q.fbits)
      let num := n * p.2
      let den := d * p.1
      let lo := num / den
      let encLo := (e - emin).toNat * 2 ^ q.fbits + lo
      let enc := if pickHi r.code neg (encLo % 2 == 0) (num % den) den u then encLo + 1 else encLo
      if q.largest < enc then past neg else q.sign neg + enc

/-- Rounds a value into L6 (R103). -/
def roundL6 (v : Val) (r : Rnd) (u : Nat) : Nat :=
  let past (neg : Bool) : Nat := if overflowPick r neg then bit neg * 32 + 31 else 0x20
  match v with
  | .nan => 0x20
  | .inf neg => past neg
  | .num neg n d =>
    if n == 0 then 0
    else
      let least := l6grid (-15)
      if n * least.2 < least.1 * d then
        -- between zero, which counts as even, and grid(-15)
        if pickHi r.code neg true (n * least.2) (least.1 * d) u then bit neg * 32 + 1 else 0
      else
        let e := floorLog2 n d
        let p := pow2 e
        -- m = (n * p.2) / (d * p.1)
        let m4096 := fun f => l6t f * (d * p.1) ≤ 4096 * (n * p.2)
        let j := if m4096 3 then 3 else if m4096 2 then 2 else if m4096 1 then 1 else 0
        let qlo := 4 * e + Int.ofNat j
        let lo := l6grid qlo
        let hi := l6grid (qlo + 1)
        let den := d * lo.2 * hi.2
        let above := n * lo.2 * hi.2 - lo.1 * d * hi.2
        let gap := hi.1 * d * lo.2 - lo.1 * d * hi.2
        -- ties go to the even code (q + 16 is even exactly when q is)
        let q := if den == 0 then qlo
          else if pickHi r.code neg (qlo % 2 == 0) above gap u then qlo + 1 else qlo
        if 15 < q then past neg else bit neg * 32 + (q + 16).toNat

/-- The integer that a value rounds to under a code (R93, R92); none for NaN and infinities. -/
def roundInt (v : Val) (code u : Nat) : Option Int :=
  match v with
  | .num neg n d =>
    let lo := n / d
    let m := if pickHi code neg (lo % 2 == 0) (n % d) d u then lo + 1 else lo
    some (if neg then -Int.ofNat m else Int.ofNat m)
  | _ => none

/-- Bounds of an integer format. -/
def intMin (t : Tag) : Int := if isSigned t then -Int.ofNat (2 ^ (fmtWidth t - 1)) else 0
def intMax (t : Tag) : Int :=
  if isSigned t then Int.ofNat (2 ^ (fmtWidth t - 1)) - 1 else Int.ofNat (2 ^ fmtWidth t) - 1

/-- An integer narrowed into an integer format (R92). -/
def narrowInt (t : Tag) (v : Int) (sat : Bool) : Nat :=
  wrapInt (fmtWidth t) (if sat then max (intMin t) (min (intMax t) v) else v)

/-- The indefinite value (R93). -/
def indefinite (t : Tag) : Nat :=
  if isSigned t then 2 ^ (fmtWidth t - 1) else 2 ^ fmtWidth t - 1

/-- A floating-point value converted to an integer format (R93). -/
def floatToInt (t : Tag) (v : Val) (r : Rnd) (u : Nat) : Nat :=
  match v with
  | .nan => if r.sat then 0 else indefinite t
  | .inf neg =>
    if r.sat then wrapInt (fmtWidth t) (if neg then intMin t else intMax t) else indefinite t
  | .num _ _ _ =>
    match roundInt v r.code u with
    | none => 0
    | some i =>
      if intMin t ≤ i && i ≤ intMax t then wrapInt (fmtWidth t) i
      else if r.sat then wrapInt (fmtWidth t) (if i < intMin t then intMin t else intMax t)
      else indefinite t

/-- A block-scaled value narrowed into an integer format (R92, R173): a finite value is rounded and
then narrowed as an integer; a NaN or an infinity follows R93. -/
def scaledToInt (t : Tag) (v : Val) (r : Rnd) (u : Nat) : Nat :=
  match roundInt v r.code u with
  | some i => narrowInt t i r.sat
  | none => floatToInt t v r u

/-- Rounds a value into a format: R98-R100 for floating point, R103 for L6, R93 for integers. -/
def roundTo (t : Tag) (v : Val) (r : Rnd) (u : Nat) : Nat :=
  if t == 15 then roundL6 v r u
  else if isFloat t then (floatFmt t).round v r u
  else floatToInt t v r u

/-- round_to_format of R173 and R273: a value times 2^(127 - b) under the block scale b, where 0xFF makes it NaN, is
rounded once into the format. -/
def roundScaled (t : Tag) (b : Nat) (v : Val) (r : Rnd) (u : Nat) : Nat :=
  let x := if b == 0xFF then .nan else v.scale (127 - Int.ofNat b)
  if isInt t then scaledToInt t x r u else roundTo t x r u

/-- F32 nearest-even, the rounding of every matrix step. -/
def roundF32 (v : Val) : Nat := (floatFmt 10).round v Rnd.ne 0
def valueF32 (x : Nat) : Val := (floatFmt 10).value x

/-- Sign as a factor. -/
def Val.int (neg : Bool) (n : Nat) : Int := if neg then -Int.ofNat n else Int.ofNat n

/-- The negated value. -/
def Val.neg : Val → Val
  | .nan => .nan
  | .inf s => .inf (!s)
  | .num s n d => .num (!s) n d

/-- Exact sum (R96, R97): `down` is the rounding code 010, under which an exact zero sum of
operands whose signs differ is -0. -/
def Val.add (x y : Val) (down : Bool) : Val :=
  match x, y with
  | .nan, _ => .nan
  | _, .nan => .nan
  | .inf s, .inf r => if s == r then .inf s else .nan
  | .inf s, .num _ _ _ => .inf s
  | .num _ _ _, .inf r => .inf r
  | .num s n d, .num r m e =>
    let t := Val.int s n * Int.ofNat e + Val.int r m * Int.ofNat d
    if t == 0 then .num (if s == r then s else down) 0 1
    else .num (t < 0) t.natAbs (d * e)

/-- Exact product (R96, R97). -/
def Val.mul (x y : Val) : Val :=
  match x, y with
  | .nan, _ => .nan
  | _, .nan => .nan
  | .inf s, .inf r => .inf (s != r)
  | .inf s, .num r m _ => if m == 0 then .nan else .inf (s != r)
  | .num s n _, .inf r => if n == 0 then .nan else .inf (s != r)
  | .num s n d, .num r m e => .num (s != r) (n * m) (d * e)

/-- Exact quotient (R168). -/
def Val.div (x y : Val) : Val :=
  match x, y with
  | .nan, _ => .nan
  | _, .nan => .nan
  | .inf _, .inf _ => .nan
  | .inf s, .num r _ _ => .inf (s != r)
  | .num s _ _, .inf r => .num (s != r) 0 1
  | .num s n d, .num r m e =>
    if m == 0 then (if n == 0 then .nan else .inf (s != r))
    else .num (s != r) (n * e) (d * m)

/-- The order of two values that are not NaN, with -0 equal to +0: x < y. -/
def Val.lt (x y : Val) : Bool :=
  match x, y with
  | .nan, _ => false
  | _, .nan => false
  | .inf s, .inf r => s && !r
  | .inf s, .num _ _ _ => s
  | .num _ _ _, .inf r => !r
  | .num s n d, .num r m e => Val.int s n * Int.ofNat e < Val.int r m * Int.ofNat d

def Val.eq (x y : Val) : Bool :=
  match x, y with
  | .nan, _ => false
  | _, .nan => false
  | .inf s, .inf r => s == r
  | .num s n d, .num r m e => Val.int s n * Int.ofNat e == Val.int r m * Int.ofNat d
  | _, _ => false

def Val.isNan : Val → Bool
  | .nan => true
  | _ => false

def Val.isNeg : Val → Bool
  | .nan => false
  | .inf s => s
  | .num s _ _ => s

def Val.isZero : Val → Bool
  | .num _ n _ => n == 0
  | _ => false

def Val.isFinite : Val → Bool
  | .num _ _ _ => true
  | _ => false

/-- The lesser of two values with -0 below +0 (R168): true picks x. -/
def Val.pickMin (x y : Val) : Bool :=
  if x.eq y then x.isNeg || !y.isNeg else x.lt y

/-- Nibble of NMODE that covers a format (R61). -/
def nmodeNibble (t : Tag) : Option Nat :=
  match t.toNat with
  | 1 => some 0 | 2 => some 1 | 3 => some 2 | 5 => some 3 | 6 => some 4 | 7 => some 5
  | 11 => some 6 | 12 => some 7 | 13 => some 8 | 14 => some 9 | 15 => some 10
  | _ => none

/-- SAT and RND of a format under NMODE; F32 and F64 nearest-even (R98), I64 and N64 as with SAT
(R93). -/
def nmodeRnd (nmode : Word) (t : Tag) : Rnd :=
  match nmodeNibble t with
  | some k => ⟨elemOf 4 k nmode % 8, bitAt (elemOf 4 k nmode) 3⟩
  | none => ⟨0, t == 4 || t == 8⟩

/-- A value that a write to nmode refuses (R62). -/
def nmodeBad (v : Word) : Bool :=
  v.toNat / 2 ^ 44 != 0 || (List.range 11).any fun k => 6 ≤ elemOf 4 k v % 8

/-- 32-bit rotations of R111. -/
def rotr32 (x k : Nat) : Nat := (x / 2 ^ k + x * 2 ^ (32 - k)) % 2 ^ 32
def rotl32 (x k : Nat) : Nat := rotr32 x (32 - k)

/-- Rounds i to i + n - 1 of the keyed generator (R111). -/
def genRounds (key : Nat) : Nat → Nat → Nat → Nat → Nat × Nat
  | 0, _, x, y => (x, y)
  | n + 1, i, x, y =>
    let kw := ((if i % 2 == 0 then key % 2 ^ 32 else key / 2 ^ 32 % 2 ^ 32) + i * 0x6A09E667) % 2 ^ 32
    let x' := ((rotr32 x 9 + y) % 2 ^ 32) ^^^ kw
    let y' := rotl32 y 4 ^^^ x'
    genRounds key n (i + 1) x' y'

/-- The keyed generator (R111). -/
def keyedGen (key ctr : Nat) : Nat :=
  let p := genRounds (key % 2 ^ 64) 12 0 (ctr % 2 ^ 32) (ctr / 2 ^ 32 % 2 ^ 32)
  p.2 * 2 ^ 32 + p.1

/-- sr_key of R101. -/
def srKey (streamKey : Word) (pc srcBits : Nat) : Nat :=
  streamKey.toNat ^^^ (pc * 2 ^ 32 % 2 ^ 64) ^^^ (srcBits / 2 ^ 32 ^^^ srcBits % 2 ^ 32)

/-- The draw of R101 for a counter. -/
def srDraw (streamKey : Word) (pc srcBits ctr : Nat) : Nat :=
  keyedGen (srKey streamKey pc srcBits) (ctr % 2 ^ 64) % 2 ^ 32

/-- One pass over the pairs of a Hadamard stage of distance h (R110). -/
def hadStage (h : Nat) (x : List Nat) : List Nat :=
  (List.range x.length).map fun i =>
    let v := fun j => valueF32 (x.getD j 0)
    if i / h % 2 == 0 then roundF32 ((v i).add (v (i + h)) false)
    else roundF32 ((v (i - h)).add (v i).neg false)

/-- The negated value of an F32 encoding; a NaN stays the canonical one (R95, R96). -/
def negF32 (x : Nat) : Nat :=
  match valueF32 x with
  | .nan => (floatFmt 10).nan
  | _ => x ^^^ 2 ^ 31

/-- The sign flips of R110. -/
def hadSigns (w : Nat) (x : List Nat) : List Nat :=
  (List.range x.length).map fun e => if bitAt w e then negF32 (x.getD e 0) else x.getD e 0

/-- The 64-point Hadamard transform of R110 on F32 encodings. -/
def hadamard (inverse : Bool) (seed block : Nat) (x : List Nat) : List Nat :=
  let w := keyedGen seed block
  let x0 := if inverse then x else hadSigns w x
  let x6 := [1, 2, 4, 8, 16, 32].foldl (fun y h => hadStage h y) x0
  let x7 := x6.map fun e => roundF32 ((valueF32 e).scale (-3))
  if inverse then hadSigns w x7 else x7

/-- emax of R173. -/
def emaxOf (t : Tag) : Int :=
  match t.toNat with
  | 1 => 6 | 13 => 8 | 14 => 15 | 11 => 15 | 15 => 3
  | _ => 127

/-- The greatest magnitude among finite values, as a fraction. -/
def maxMag : List Val → Nat × Nat
  | [] => (0, 1)
  | .num _ n d :: vs => let m := maxMag vs; if m.1 * d < n * m.2 then (n, d) else m
  | _ :: vs => maxMag vs

/-- The block scale that QNT.derive and QTILE choose (R173, R273). -/
def deriveScale (t : Tag) (vals : List Val) : Nat :=
  if vals.any fun v => !v.isFinite then 0xFF
  else
    let m := maxMag vals
    if m.1 == 0 then 0x7F
    else (max 0 (min 0xFE (floorLog2 m.1 m.2 - emaxOf t + 127))).toNat

/-- CRC-32C, Castagnoli, reflected (R252): one byte, then a list. -/
def crcByte : Nat → Nat → Nat
  | 0, c => c
  | n + 1, c => crcByte n (if c % 2 == 1 then (c / 2) ^^^ 0x82F63B78 else c / 2)

def crc32c (bytes : List Byte) : BitVec 32 :=
  let c := bytes.foldl (fun c b => crcByte 8 (c ^^^ b.toNat)) 0xFFFFFFFF
  BitVec.ofNat 32 (c ^^^ 0xFFFFFFFF)

end Sys2Proof.Machine
end

