-- ==== Sys2Proof/Machine/Ops.lean ====
section
/-! DEFINITION. The operations every meaning shares: finding and updating teams, braids and lanes;
registers; the synchronisation order; taking a trap and returning from one; raising a system fault;
and the one frame in which every instruction is performed. -/

namespace Sys2Proof.Machine

/-- Teams, launches and partitions by number. -/
def State.team? (s : State) (uid : Nat) : Option Team := s.teams.find? fun t => t.uid == uid
def State.setTeam (s : State) (t : Team) : State :=
  { s with teams := s.teams.map fun u => if u.uid == t.uid then t else u }
def State.modTeam (s : State) (uid : Nat) (g : Team → Team) : State :=
  { s with teams := s.teams.map fun u => if u.uid == uid then g u else u }
def State.launch? (s : State) (n : Nat) : Option Launch := s.launches.find? fun l => l.num == n
def State.modLaunch (s : State) (n : Nat) (g : Launch → Launch) : State :=
  { s with launches := s.launches.map fun l => if l.num == n then g l else l }
def State.part? (s : State) (n : Nat) : Option Partition := s.parts.find? fun p => p.num == n
def State.modPart (s : State) (n : Nat) (g : Partition → Partition) : State :=
  { s with parts := s.parts.map fun p => if p.num == n then g p else p }

/-- The launch of a team; none for a supervisor team. -/
def State.launchOf (s : State) (t : Team) : Option Launch := t.launch.bind s.launch?

/-- A supervisor team (R324). -/
def Team.isSup (t : Team) : Bool := t.launch.isNone

/-- DONE_REC of the team's launch; 0 for a supervisor team. -/
def State.doneRecOf (s : State) (t : Team) : Nat := ((s.launchOf t).map (·.doneRec)).getD 0

/-- The launch runs in deterministic mode (R43). -/
def State.isDet (s : State) (t : Team) : Bool := ((s.launchOf t).map (·.det)).getD false

/-- Vector registers per thread (R57). -/
def Team.nv (t : Team) : Nat := 8 * (t.vblk + 1)

/-- Braids and lanes. -/
def Team.modBraid (t : Team) (rank : Nat) (g : Braid → Braid) : Team :=
  { t with braids := t.braids.modify rank g }
def State.modBraid (s : State) (uid rank : Nat) (g : Braid → Braid) : State :=
  s.modTeam uid fun t => t.modBraid rank g
def Braid.modLanes (b : Braid) (m : Mask) (g : Nat → Lane → Lane) : Braid :=
  { b with lanes := b.lanes.mapIdx fun l x => if m.getLsbD l then g l x else x }
def State.modLanes (s : State) (uid rank : Nat) (m : Mask) (g : Nat → Lane → Lane) : State :=
  s.modBraid uid rank fun b => b.modLanes m g

/-- A thread that has exited. -/
def Lane.dead : Lane :=
  { pc := 0, live := false, preds := 1, depth := 0, stack := [], priv := [], v := [], tags := []
    age := 0, wait := none, sleepUntil := none, yielded := false, arrTeam := none, arrGroup := []
    vc := [], fences := [], seen := [] }

def Braid.lane (b : Braid) (l : Nat) : Lane := b.lanes.getD l Lane.dead
/-- The lanes that have not exited. -/
def Braid.liveMask (b : Braid) : Mask := maskWhere fun l => (b.lane l).live

/-- Lanes end their SLEEP and go on at the next instruction; in a melded region the whole region goes on (R80, R211). -/
def Braid.wake (b : Braid) (m : Mask) : Braid :=
  if m == 0 then b
  else
    let pc := ((b.lane (Mask.lowest m)).sleepUntil.map (·.2)).getD (b.lane (Mask.lowest m)).pc
    b.modLanes (if b.meld then b.liveMask else m) fun _ x =>
      { x with pc := if b.meld then pc else (x.sleepUntil.map (·.2)).getD x.pc, wait := none, sleepUntil := none }

/-- Predicate pk of a lane; p0 reads 1 (R57). -/
def Lane.pred (x : Lane) (k : Nat) : Bool := k % 8 == 0 || x.preds.getLsbD (k % 8)
/-- A predicate written; a write to p0 is discarded (R57). -/
def Lane.setPred (x : Lane) (k : Nat) (v : Bool) : Lane :=
  if k % 8 == 0 then x
  else { x with preds := if v then x.preds ||| BitVec.ofNat 8 (2 ^ (k % 8))
                         else x.preds &&& ~~~ BitVec.ofNat 8 (2 ^ (k % 8)) }

/-- The guard of R132. -/
def guardHolds (g : BitVec 4) (x : Lane) : Bool := x.pred (g.toNat % 8) != g.getLsbD 3

/-- next_pc of R135. -/
def nextPc (pc : Pc) (len : Nat) : Pc :=
  let n := pc.toNat + len
  BitVec.ofNat 32 (if n % 32 == 28 then n + 4 else n)

/-- The register that a vector field names in a lane (R81). -/
def Braid.vecName (b : Braid) (f : Fields) (l : Nat) (v : BitVec 7) : Nat :=
  if f.m && b.meld && 112 ≤ v.toNat then
    (if b.path.getLsbD l then b.mt1 else b.mt0).getD (v.toNat - 112) 0
  else v.toNat

/-- The field is one that R81 translates here. -/
def Braid.translates (b : Braid) (f : Fields) (v : BitVec 7) : Bool := f.m && b.meld && 112 ≤ v.toNat

/-- Registers. -/
def Lane.vreg (x : Lane) (n : Nat) : Word := x.v.getD n 0
def Lane.vtag (x : Lane) (n : Nat) : Tag := x.tags.getD n 0
def Lane.setV (x : Lane) (n : Nat) (v : Word) (t : Tag) : Lane :=
  { x with v := x.v.set n v, tags := x.tags.set n t }
def Braid.sreg (b : Braid) (n : Nat) : Word := b.s.getD n 0
def Braid.setS (b : Braid) (n : Nat) (v : Word) : Braid := { b with s := b.s.set n v }

/-- Logical identifier of a braid (R21). -/
def logicalId (index rank : Nat) : Nat := index * 32 + rank

/-! The synchronisation order -/

/-- Party numbers (R279): threads are even, engine commands and work entries odd, each element of a command under a
number of its own, which is how far the command has come (R236, R282). -/
def laneParty (uid rank lane : Nat) : Nat := 2 * (uid * 1024 + rank * 32 + lane)
def engineParty (n elem : Nat) : Nat := 2 * (n * 64 + elem % 64) + 1

/-- Both numbers are of one engine command. -/
def sameCommand (p q : Nat) : Bool := p % 2 == 1 && q % 2 == 1 && p / 128 == q / 128

/-- A command's clocks with its element's own writes. -/
def elementClocks (vc : Clocks) (party elem : Nat) : Clocks := tabPut vc (party + 2 * (elem % 64)) 1

/-- A command's clocks with the writes of every element (R294). -/
def commandClocks (vc : Clocks) (party count : Nat) : Clocks :=
  (List.range (min count 64)).foldl (fun c k => elementClocks c party k) vc

/-- The number under which a lane's remote stores and atomics without return are recorded: they are ordered before
the lane's later accesses by a fence at fabric scope or a closed batch only (R248, R295). -/
def remoteParty (uid rank lane : Nat) : Nat := laneParty uid rank lane + 2 ^ 63

/-- A lane's clocks with its remote stores so far. -/
def remoteClocks (uid rank lane : Nat) (vc : Clocks) : Clocks :=
  tabPut vc (remoteParty uid rank lane) (tabGet 0 vc (laneParty uid rank lane))

/-- A number of one device (a party, a binding or a group) as another device knows it: numbers of the device itself
lie below 2^64, and those of the device at coordinate c from 2^64 × (c + 1) on. -/
def carry (src dst n : Nat) : Nat :=
  if src == dst then n
  else if n < 2 ^ 64 then 2 ^ 64 * (src + 1) + n
  else if n / 2 ^ 64 == dst + 1 then n % 2 ^ 64
  else n

def carryClocks (src dst : Nat) (vc : Clocks) : Clocks :=
  if src == dst then vc else vc.foldl (fun t e => tabPut t (carry src dst e.1) e.2) []

/-- A release as another device knows it. -/
def carryRelease (src dst : Nat) (r : Release) : Release :=
  if src == dst then r
  else
    { r with
      vc := carryClocks src dst r.vc, uid := carry src dst r.uid, key := carry src dst r.key
      keys := r.keys.map (carry src dst)
      src := match r.src with
        | none => some src
        | some c => if c == dst then none else some c }

/-- The number of a group: one that spans devices is named by its gang on every device. -/
def groupKey (n : Launch) (g : Group) : Nat :=
  if g.gang != 0 then 2 ^ 64 * (2 ^ 32 + g.gang.toNat) else n.num * 256 + g.index

/-- The groups of a team (R27). -/
def teamKeys (s : State) (launch : Option Nat) (index : Nat) : List Nat :=
  match launch.bind s.launch? with
  | some n => (n.groups.filter fun g => g.members.contains index).map (groupKey n)
  | none => []

/-- The number of the group that a Trellis index names. -/
def namedKey (s : State) (launch : Option Nat) (group : Nat) : Option Nat :=
  (launch.bind s.launch?).bind fun n => (n.groups.find? fun g => g.index == group).map (groupKey n)

/-- A release on its way to another device: its groups are added. -/
def outRelease (s : State) (r : Release) : Release :=
  if r.src.isSome then r
  else { r with key := (namedKey s r.launch r.group).getD 0, keys := teamKeys s r.launch r.index }

/-- The party with its scope instance contains the other (R283): `x` is inside the instance of
scope and group as seen by the party of launch, index, uid and rank. -/
def scopeHas (s : State) (scope group : Nat) (uid rank : Nat) (launch : Option Nat)
    (uid' rank' : Nat) (launch' : Option Nat) (index' : Nat) : Bool :=
  match scope with
  | 0 => uid == uid' && rank == rank'
  | 1 => uid == uid'
  | 2 => launch == launch' &&
      (match launch.bind s.launch? with
       | some n => n.groups.any fun g => g.index == group && g.members.contains index'
       | none => false)
  | _ => true

/-- A release synchronises with an acquire of this scope by this party (R281, R283); one made on another device
must reach this one, and an acquire of device scope reaches only what was performed here (R295). -/
def syncs (s : State) (r : Release) (scope group : Nat) (t : Team) (rank : Nat) : Bool :=
  if r.src.isSome then
    (r.scope == 4 || (r.scope == 2 && (teamKeys s t.launch t.index).contains r.key))
      && (scope == 4 || (scope == 3 && !r.far) || (scope == 2 && (match namedKey s t.launch group with
                                       | some k => r.keys.contains k
                                       | none => false)))
  else
    scopeHas s r.scope r.group r.uid r.rank r.launch t.uid rank t.launch t.index
      && scopeHas s scope group t.uid rank t.launch r.uid r.rank r.launch r.index

/-- The release that a party with these clocks makes (R281). -/
def mkRelease (t : Team) (rank : Nat) (vc : Clocks) (scope group : Nat) : Release :=
  { vc, scope, uid := t.uid, rank, launch := t.launch, index := t.index, group, phase := 0, src := none, key := 0, keys := [] }

/-- The clocks of the releases among `rs` that synchronise. -/
def acquired (s : State) (rs : List Release) (scope group : Nat) (t : Team) (rank : Nat) : Clocks :=
  rs.foldl (fun c r => if syncs s r scope group t rank then c.join r.vc else c) []

/-- An acquire of group scope or wider discards the copies of the core's cache (R287). -/
def State.dropCopies (s : State) (core scope : Nat) : State :=
  if 2 ≤ scope then { s with copies := tabDrop s.copies core } else s

/-- The mark, in a replayed team's lines, of where an interval of one of its braids began. -/
def intervalMark (rank : Nat) : Nat := 2 ^ 80 + rank

/-- A new interval begins (R389): the lines logged so far are read again; in a replay those of this braid alone are,
since the log does not say when the other braids used theirs last. -/
def Team.newInterval (u : Team) (rank : Nat) (pc : Pc) (m : Mask) : Team :=
  { u with
    logged := if u.replay.isSome then (intervalMark rank, []) :: u.logged else []
    logQueue := u.logQueue ++ [{ type := 4, rank, pc, lanes := m, value := 0, handle := 0, line := [] }] }

/-- Lanes of a braid acquire from releases (R281, R287), and a new interval begins (R389); an engine's acquire names its
command's program counter. -/
def State.acquire (s : State) (t : Team) (rank : Nat) (m : Mask) (rs : List Release)
    (scope group : Nat) (at_ : Option Pc := none) : State :=
  let c := acquired s rs scope group t rank
  let s := s.modLanes t.uid rank m fun _ x => { x with vc := x.vc.join c }
  (s.dropCopies t.core scope).modTeam t.uid fun u =>
    u.newInterval rank (at_.getD (((u.braids[rank]?).map fun b => (b.lane (Mask.lowest m)).pc).getD 0)) m

/-! System faults -/

/-- What a fault says of its cause (R328, R329). -/
structure Draft where
  cause : Nat
  detail : Nat
  addr : Nat := 0
  info : Nat := 0
  handle : Nat := 0
  group : Nat := 0
  coord : Nat := 0
  party : Nat := 0
  lanes : Mask := 0
  /-- Address bits within the page at which the fault was found. -/
  shift : Nat := 12
  /-- The leaf of the walk lies outside the partition's memory, which xlviol has counted (R355). -/
  viol : Bool := false
deriving DecidableEq, Repr

/-- Two faults lie on one page (R191, R359): the page that the leaf maps, or 4 KiB where the walk met no leaf. -/
def Draft.samePage (d x : Draft) : Bool := x.addr / 2 ^ d.shift == d.addr / 2 ^ d.shift

/-- The party that a fault stops: a braid at a program counter, a tracker's element, or a work
entry's chunk (R327, R328). -/
inductive Culprit where
  | braid (rank : Nat) (pc : Pc)
  | element (rank trk elem : Nat)
  | entry (rank num wtag chunk : Nat)
deriving DecidableEq, Repr

/-- The record of a fault, not yet posted (R328). -/
def mkRecord (s : State) (t : Team) (c : Culprit) (d : Draft) : FaultRec :=
  let rank := match c with | .braid r _ => r | .element r _ _ => r | .entry r _ _ _ => r
  { id := s.faultIds, seq := none
    wtag := match c with | .entry _ _ w _ => w | _ => 0
    group := d.group, handle := d.handle
    we := match c with | .entry _ _ _ _ => true | _ => false
    eng := match c with | .braid _ _ => false | _ => true
    elem := match c with | .braid _ _ => 0 | .element _ _ e => e | .entry _ _ _ k => k % 64
    trk := match c with | .element _ k _ => k | _ => 0
    rank, detail := d.detail, cause := d.cause, coord := d.coord, team := t.index
    pc := match c with | .braid _ p => p.toNat | _ => 0
    lanes := match c with | .braid _ _ => d.lanes | _ => 0
    party := word d.party, info := word d.info, addr := word d.addr
    launch := word (s.doneRecOf t), uid := t.uid
    entry := match c with | .entry _ n _ _ => n | _ => 0 }

/-- Raises a system fault (R327): the record waits for the fault queue, and the party stops; for a supervisor team it
goes to Gazebo, and the team stops. -/
def State.raiseFault (s : State) (t : Team) (c : Culprit) (d : Draft) : State :=
  let r := mkRecord s t c d
  let s := { s with faultIds := s.faultIds + 1 }
  let s := if t.isSup then { s with gazebo := s.gazebo ++ [.supervisorFault r] }
    else s.modPart t.part fun p => { p with faultWait := p.faultWait ++ [r] }
  s.modTeam t.uid fun u =>
    let u := if t.isSup then
        { u with braids := u.braids.map fun b => { b with stop := if b.stop == .running then .fault r.id else b.stop } }
      else u
    match c with
    | .braid rank _ => u.modBraid rank fun b => { b with stop := .fault r.id }
    | .element _ k _ =>
      { u with trackers := u.trackers.modify k fun o => o.map fun x => { x with fault := some r.id } }
    | .entry _ n _ _ =>
      { u with entries := u.entries.map fun e => if e.num == n then { e with fault := some r.id } else e }

/-- Posts a record that concerns a team and stops nothing more: a save error, a refused image, or a node
record that cannot be read (R69, R332, R363). -/
def noteFault (s : State) (t : Team) (d : Draft) (c : Culprit := .braid 0 0) : State :=
  let r := mkRecord s t c d
  let s := { s with faultIds := s.faultIds + 1 }
  if t.isSup then { s with gazebo := s.gazebo ++ [.supervisorFault r] }
  else s.modPart t.part fun p => { p with faultWait := p.faultWait ++ [r] }

/-! User-level traps -/

/-- A user-level trap: cause, DETAIL and OPND of ecause, the lanes concerned and evalue (R149). -/
structure Trap where
  cause : Nat
  detail : Nat := 0
  opnd : Nat := 0
  lanes : Mask
  value : Nat := 0
deriving DecidableEq, Repr

/-- ecause (R149). -/
def Trap.ecause (x : Trap) : Nat := x.cause % 256 + 256 * (x.detail % 256) + 65536 * (x.opnd % 256)

/-- eop from the header bits (R149). -/
def eopOf (raw : BitVec 128) : Word :=
  let n := raw.toNat
  word (bitsOf n 11 4 + 2 ^ 8 * bitsOf n 15 12 + 2 ^ 12 * bitsOf n 47 44 + 2 ^ 16 * bitsOf n 55 48
    + 2 ^ 24 * bitsOf n 63 56 + 2 ^ 32 * bitsOf n 1 0 + 2 ^ 34 * bitsOf n 2 2 + 2 ^ 35 * bitsOf n 3 3)

/-- The vector fields of what was trapped: of an encoding that is no instruction, those that its opcode's row gives
under its kind bits, and none where the map does not assign the opcode. -/
def trappedVecs (i : Instr) (raw : BitVec 128) : VecFields :=
  match i.info.orElse fun _ => (assemble (opOf raw).toNat (fieldsOf raw)).bind (·.info) with
  | some n => n.vecs
  | none => ⟨false, false, false, false⟩

/-- eregs of a lane: D, A, B and C, vector fields after translation (R149). -/
def eregsOf (b : Braid) (i : Instr) (raw : BitVec 128) (l : Nat) : Word :=
  let f := fieldsOf raw
  let v := trappedVecs i raw
  let n := fun (k : Bool) (r : BitVec 7) => if k then b.vecName f l r else r.toNat
  word (n v.d f.d + 2 ^ 8 * n v.a f.a + 2 ^ 16 * n v.b f.b + 2 ^ 24 * n v.c f.c)

/-- The presentation registers that a trap at a program counter writes (R149). -/
def presentOf (b : Braid) (i : Instr) (raw : BitVec 128) (pc : Pc) (x : Trap) : Present :=
  { ecause := word x.ecause, epc := word pc.toNat, emask := word x.lanes.toNat
    einst0 := word (raw.toNat % 2 ^ 64), einst1 := word (raw.toNat / 2 ^ 64), eop := eopOf raw
    eregs := allLanes.map (eregsOf b i raw), evalue := word x.value
    enext := word (nextPc pc (lenBytes (lenOf raw))).toNat }

/-- Takes a user-level trap (R147): the presentation registers are written, and the lanes concerned,
or every lane of a melded region, go to EMUL_VEC. Without a handler, or inside one, the trap is a
system fault instead and the braid stops. -/
def State.takeTrap (s : State) (t : Team) (rank : Nat) (i : Instr) (raw : BitVec 128) (pc : Pc)
    (x : Trap) : State :=
  match t.braids[rank]? with
  | none => s
  | some b =>
    if b.handler.isSome || t.emulVec == 0 then
      let s := if b.handler.isSome then s
        else s.modBraid t.uid rank fun b => { b with pres := presentOf b i raw pc x }
      s.raiseFault t (.braid rank pc) { cause := 7, detail := 0, info := x.ecause, lanes := x.lanes }
    else
      let entered := if b.meld then b.liveMask else x.lanes
      s.modBraid t.uid rank fun b =>
        { b.modLanes entered (fun _ y => { y with pc := BitVec.ofNat 32 t.emulVec, wait := none, sleepUntil := none }) with
          pres := presentOf b i raw pc x, handler := some entered }

/-- Returns from the emulation handler (R148, R219): every lane that entered and has not exited goes
to the given program counter, and the held lanes are released. -/
def State.trapReturn (s : State) (uid rank : Nat) (entered : Mask) (target : Pc) : State :=
  s.modBraid uid rank fun b =>
    { b.modLanes (entered &&& b.liveMask) (fun _ y => { y with pc := target, wait := none, sleepUntil := none }) with
      handler := none }

/-! The frame of an instruction -/

/-- What an instruction's meaning is given: the state at its issue, its team and braid, its fields,
and its participating and active lanes (R70). -/
structure Env where
  s : State
  t : Team
  b : Braid
  i : Instr
  f : Fields
  pc : Pc
  part : Mask
  act : Mask

/-- How an instruction's meaning ends. -/
inductive Act where
  /-- The effect is in the state, and every participating lane advances. -/
  | go (s : State)
  /-- The effect, program counters of the active lanes included, is in the state. -/
  | moved (s : State)
  /-- The effect, the program counters of every lane included, is in the state. -/
  | jumped (s : State)
  /-- A user-level trap; nothing else changes. -/
  | trap (x : Trap)
  /-- A user-level trap met after memory has been read: the state carries the device's counters. -/
  | trapAt (s : State) (x : Trap)
  /-- A system fault precise at the instruction; the state carries the device's counters. -/
  | fault (s : State) (d : Draft)
  /-- These lanes wait; the effect for the others is in the state, and they advance (R188). -/
  | wait (s : State) (left : Mask) (w : WaitAt)

/-- Lanes go on at the next instruction. -/
def advance (len : Nat) (m : Mask) (b : Braid) : Braid :=
  b.modLanes m fun _ x => { x with pc := nextPc x.pc len, wait := none, sleepUntil := none }

/-- Instructions that end the idempotent region (R217). -/
def endsIdem : Instr → Bool
  | .atom _ | .atx _ | .rstx _ | .bclose _ | .launch _ | .launchUni _ | .carve _ | .detach _
  | .trig _ | .barArv _ | .pharr _ | .tktTake _ | .hitchWait _ | .hitchPass _ | .qpwPost _
  | .qpwArm _ | .cntAdd _ => true
  | _ => false

/-- IDEM.BEGIN. -/
def isIdemBegin : Instr → Bool
  | .idemBegin _ => true
  | _ => false

/-- What an executed instruction does to the idempotent region and to the braid's first-instruction
mark (R216, R217). -/
def State.settleIdem (s : State) (uid rank : Nat) (ends : Bool) : State :=
  let s := s.modBraid uid rank fun b => { b with fresh := false }
  if ends then s.modTeam uid fun t => { t with idem := false } else s

/-- The first vector field whose name lies at or above nv (R57, R145, R81): OPND, lanes and name. -/
def nvTrap (e : Env) (v : VecFields) : Option Trap :=
  let check := fun (on : Bool) (r : BitVec 7) (opnd : Nat) =>
    if !on then none
    else
      let bad := maskOf ((Mask.lanes e.act).filter fun l => e.t.nv ≤ e.b.vecName e.f l r)
      if bad == 0 then none
      else
        let lanes := if e.b.translates e.f r then bad else e.act
        some { cause := 4, opnd, lanes, value := e.b.vecName e.f (Mask.lowest bad) r : Trap }
  (check v.d e.f.d 1).orElse fun _ => (check v.a e.f.a 2).orElse fun _ =>
    (check v.b e.f.b 3).orElse fun _ => check v.c e.f.c 4

/-- Conditions of orders 3 to 5 of R146 that need no operand: privilege, meld and partial mask. -/
def earlyTrap (e : Env) (n : Info) : Option Trap :=
  if n.cls == .priv && !e.t.isSup then
    some { cause := 3, lanes := if e.act == 0 then e.part else e.act }
  else if e.act == 0 then none
  else
    let unmelded := match e.i with | .unmeld _ => !e.b.meld | _ => false
    let nested := match e.i with | .meld _ => e.b.meld | _ => false
    if (e.f.m && !e.b.meld && n.vecs.any) || unmelded then some { cause := 10, lanes := e.act }
    else if nested then some { cause := 9, lanes := e.act }
    else if e.i.braidWide && e.act != e.b.liveMask then some { cause := 6, lanes := e.act }
    else none

/-- The lanes of an issue that go on while others of it wait: in a melded region none does, since its lanes issue
every instruction together (R80). -/
def Env.passing (e : Env) (left : Mask) : Mask := if e.b.meld then 0 else e.part &&& ~~~ left

/-- How the end of a meaning becomes the next state. An issue with no active lane ends no idempotent region by what
its instruction would do (R187). -/
def finish (e : Env) (a : Act) : State :=
  let u := e.t.uid
  let r := e.s.cur.rank
  let len := e.i.bytes
  let other := e.b.fresh && !isIdemBegin e.i
  let ends := (e.act != 0 && endsIdem e.i) || other
  match a with
  | .go s => (s.modBraid u r (advance len e.part)).settleIdem u r ends
  | .moved s =>
    (s.modBraid u r (advance len (e.part &&& ~~~ e.act))).settleIdem u r ends
  | .jumped s => s.settleIdem u r ends
  | .trap x => (e.s.takeTrap e.t r e.i (encode e.i) e.pc x).settleIdem u r other
  | .trapAt s x => (s.takeTrap e.t r e.i (encode e.i) e.pc x).settleIdem u r other
  | .fault s d => s.raiseFault e.t (.braid r e.pc) d
  | .wait s left w =>
    let s := s.modBraid u r (advance len (e.passing left))
    let s := s.modLanes u r (e.part &&& ~~~ e.passing left) fun l x =>
      { x with wait := some (if left.getLsbD l then w else .ended) }
    if left == e.act then s else s.settleIdem u r ends

/-- The environment of the current issue (R70): participating lanes have not exited, and active
lanes are those whose guard holds (R132). -/
def mkEnv (s : State) (t : Team) (b : Braid) (i : Instr) (f : Fields) : Env :=
  let part := s.cur.lanes &&& b.liveMask
  { s, t, b, i, f, pc := s.cur.pc, part
    act := maskWhere fun l => part.getLsbD l && guardHolds f.g (b.lane l) }

/-- The rank of the issuing braid. -/
def Env.rank (e : Env) : Nat := e.s.cur.rank

/-- The register fields of an instruction in a lane, as lane and register; lane 32 stands for the
scalars of the braid. -/
def fieldName (e : Env) (r : Role) (kinds kind : Bool) (v : BitVec 7) (l : Nat) : Option (Nat × Nat) :=
  if r.isVec kinds kind then some (l, e.b.vecName e.f l v)
  else if r.isScal kinds kind then some (32, v.toNat)
  else none

/-- The registers that an instruction reads in a lane, and the one it writes. -/
def regsRead (e : Env) (n : Info) (l : Nat) : List (Nat × Nat) :=
  let sh := n.shape
  [if e.i.readsD then fieldName e sh.d sh.kinds e.f.kindD e.f.d l else none,
   fieldName e sh.a sh.kinds e.f.kindA e.f.a l, fieldName e sh.b sh.kinds e.f.kindB e.f.b l,
   fieldName e sh.c sh.kinds e.f.kindC e.f.c l].filterMap id
def regsWritten (e : Env) (n : Info) (l : Nat) : List (Nat × Nat) :=
  (fieldName e n.shape.d n.shape.kinds e.f.kindD e.f.d l).toList

/-- The parity errors of registers that the instruction reads (R363): none after at most three
retries, which parcnt counts, or some that persist. -/
def regErrors (e : Env) (names : List (Nat × Nat)) : List Nat :=
  e.s.soft.filterMap fun x =>
    match x with
    | .parityReg uid rank lane reg fails =>
      if uid == e.t.uid && rank == e.s.cur.rank && names.contains (lane, reg) then some fails else none
    | _ => none
def clearReg (s : State) (uid rank : Nat) (names : List (Nat × Nat)) : State :=
  { s with soft := s.soft.filter fun x =>
      match x with
      | .parityReg u r lane reg _ => !(u == uid && r == rank && names.contains (lane, reg))
      | _ => true }

/-- A persistent parity error ranks with ECC among the system faults of R146: the instruction's traps and the
system faults before it come first. -/
def parityYields : Act → Bool
  | .trap _ | .trapAt _ _ => true
  | .fault _ d => d.cause != 5
  | _ => false

/-- Reads the registers of an instruction through their parity (R363): the retries that succeed are
counted by the caller's `bump`; a persistent error is a fault, at its place in the order of R146. -/
def withParity (e : Env) (n : Info) (bump : State → Nat → State) (body : Env → Act) : Act :=
  if e.s.soft.isEmpty then body e
  else
    let names := (Mask.lanes e.act).flatMap (regsRead e n)
    let errs := regErrors e names
    if errs.any (3 < ·) then
      let a := body e
      let lanes := (Mask.lanes e.act).filter fun l => (regErrors e (regsRead e n l)).any (3 < ·)
      if parityYields a then a else .fault e.s { cause := 4, detail := 3, lanes := maskOf lanes }
    else if errs.isEmpty then body e
    else body { e with s := bump (clearReg e.s e.t.uid e.s.cur.rank names) errs.length }

/-- Counts parity retries in parcnt of a partition (R352, R363). -/
def State.countParity (s : State) (part n : Nat) : State :=
  s.modPart part fun p =>
    let k := 0x0112 * 65536
    { p with regs := tabPut p.regs k (tabGet 0 p.regs k + word n) }

/-- Performs an instruction: the conditions of R146 that precede its operands, nothing but the
program counters when no lane is active (R187, R157), and otherwise its own meaning. Among several conditions of
cause 0x04 in one instruction R146 gives no order: vector names at or above nv come first (log entry 81). -/
def perform (i : Instr) (s : State) (body : Env → Act) : Host.Outcome State Fault Refusal :=
  match s.team? s.cur.uid with
  | none => .fault .noBraid
  | some t =>
    match t.braids[s.cur.rank]? with
    | none => .fault .noBraid
    | some b =>
      match i.info with
      | none => .fault .noBraid
      | some n =>
        let e := mkEnv s t b i n.fields
        .next (finish e
          (match earlyTrap e n with
           | some x => .trap x
           | none =>
             if e.act == 0 then .go s
             else
               match nvTrap e n.vecs with
               | some x => .trap x
               | none => withParity e n (fun s k => s.countParity t.part k) fun e =>
                 match body e with
                 | .go s' => .go (if s.soft.isEmpty then s'
                     else clearReg s' t.uid s'.cur.rank ((Mask.lanes e.act).flatMap (regsWritten e n)))
                 | a => a))

end Sys2Proof.Machine
end

