-- ==== Sys2Proof/Machine/Operands.lean ====
section
/-! DEFINITION. Operand forms of the lane-arithmetic and cross-lane classes (R137-R139, R156-R159):
reading sources, checking tags, writing destinations. -/

namespace Sys2Proof.Machine

/-- n copies of an element (R139). -/
def replicateElem (w n x : Nat) : Nat := packElems w (List.replicate n x)

/-- imm_operand of R139. -/
def immOperand (f : Fields) : Word :=
  if f.len == 2 then f.l ++ f.e
  else if f.f == 9 then word (roundTo 9 (valueF32 f.e.toNat) Rnd.ne 0)
  else if f.f == 15 then word (replicateElem 6 10 (f.e.toNat % 64))
  else if fmtWidth f.f == 64 then f.e.signExtend 64
  else word (replicateElem (fmtWidth f.f) (64 / fmtWidth f.f) (f.e.toNat % 2 ^ fmtWidth f.f))

/-- A source register, scalar or vector, in a lane (R157, R81). -/
def Env.src (e : Env) (kind : Bool) (r : BitVec 7) (l : Nat) : Word :=
  if kind then e.b.sreg r.toNat else (e.b.lane l).vreg (e.b.vecName e.f l r)

/-- Its tag; a scalar carries none (R59). -/
def Env.srcTag (e : Env) (kind : Bool) (r : BitVec 7) (l : Nat) : Tag :=
  if kind then 0 else (e.b.lane l).vtag (e.b.vecName e.f l r)

/-- Sources A, B and C of the classes with kind bits; B may be an immediate (R139). -/
def Env.srcA (e : Env) (l : Nat) : Word := e.src e.f.kindA e.f.a l
def Env.srcB (e : Env) (l : Nat) : Word :=
  if e.f.len == 0 then e.src e.f.kindB e.f.b l else immOperand e.f
def Env.srcC (e : Env) (l : Nat) : Word := e.src e.f.kindC e.f.c l
def Env.tagA (e : Env) (l : Nat) : Tag := e.srcTag e.f.kindA e.f.a l
def Env.tagC (e : Env) (l : Nat) : Tag := e.srcTag e.f.kindC e.f.c l

/-- A source whose tag is checked: whether it is a vector, its field, OPND, and the tag expected. -/
structure Check where
  vec : Bool
  reg : BitVec 7
  opnd : Nat
  want : Tag

/-- The active lanes in which a checked operand fails (R59). -/
def Check.bad (e : Env) (c : Check) : Mask :=
  if c.vec then maskOf ((Mask.lanes e.act).filter fun l => e.srcTag false c.reg l != c.want) else 0

/-- The tag-check trap of R59 for a list of operands in field order. -/
def tagTrap (e : Env) (cs : List Check) : Option Trap :=
  match cs.find? fun c => c.bad e != 0 with
  | none => none
  | some c =>
    some { cause := 5, opnd := c.opnd, lanes := cs.foldl (fun m c => m ||| c.bad e) 0
           value := (e.srcTag false c.reg (Mask.lowest (c.bad e))).toNat }

/-- Checks of A, B and C against a tag. -/
def Env.checkD (e : Env) (t : Tag) : Check := ⟨!e.f.kindD, e.f.d, 1, t⟩
def Env.checkA (e : Env) (t : Tag) : Check := ⟨!e.f.kindA, e.f.a, 2, t⟩
def Env.checkB (e : Env) (t : Tag) : Check := ⟨e.f.len == 0 && !e.f.kindB, e.f.b, 3, t⟩
def Env.checkC (e : Env) (t : Tag) : Check := ⟨!e.f.kindC, e.f.c, 4, t⟩

/-- Writes a register destination (R157, R60): a scalar takes the lowest active lane's result, a
vector is written with its tag in every active lane. -/
def Env.writeReg (e : Env) (s : State) (kind : Bool) (r : BitVec 7) (val : Nat → Word)
    (tag : Nat → Tag) : State :=
  if kind then s.modBraid e.t.uid e.rank fun b => b.setS r.toNat (val (Mask.lowest e.act))
  else s.modLanes e.t.uid e.rank e.act fun l x => x.setV (e.b.vecName e.f l r) (val l) (tag l)

/-- Writes destination D under its kind bit. -/
def Env.writeD (e : Env) (val : Nat → Word) (tag : Nat → Tag) : State :=
  e.writeReg e.s e.f.kindD e.f.d val tag

/-- Writes a predicate in every active lane (R157). -/
def Env.writePred (e : Env) (s : State) (p : Nat) (val : Nat → Bool) : State :=
  s.modLanes e.t.uid e.rank e.act fun l x => x.setPred p (val l)

/-- Checks tags, then goes on with an effect. -/
def withTags (e : Env) (cs : List Check) (k : State) : Act :=
  match tagTrap e cs with
  | some x => .trap x
  | none => .go k

/-- Element by element on one, two or three registers (R89). -/
def mapElems (t : Tag) (g : Nat → Nat → Nat) (a : Word) : Word :=
  fromElems t ((List.range (fmtCount t)).map fun k => g k (elemOf (fmtWidth t) k a))
def mapElems2 (t : Tag) (g : Nat → Nat → Nat → Nat) (a b : Word) : Word :=
  fromElems t ((List.range (fmtCount t)).map fun k =>
    g k (elemOf (fmtWidth t) k a) (elemOf (fmtWidth t) k b))
def mapElems3 (t : Tag) (g : Nat → Nat → Nat → Nat → Nat) (a b c : Word) : Word :=
  fromElems t ((List.range (fmtCount t)).map fun k =>
    g k (elemOf (fmtWidth t) k a) (elemOf (fmtWidth t) k b) (elemOf (fmtWidth t) k c))

/-- The launch's generator key (R101); a supervisor team has none and uses 0. -/
def Env.streamKey (e : Env) : Word := ((e.s.launchOf e.t).map (·.streamKey)).getD 0

/-- The stochastic draw of R101 for a lane's result element k with these source bits. -/
def Env.draw (e : Env) (code l k srcBits : Nat) : Nat :=
  if code == 5 then
    srDraw e.streamKey e.pc.toNat srcBits ((logicalId e.t.index e.rank * 32 + l) * 16 + k)
  else 0

end Sys2Proof.Machine
end

