-- ==== Sys2Proof/Machine/Sysregs.lean ====
section
/-! DEFINITION. The system registers (R326, R337, R352, R367, R381, R386, R388, R391): which exist,
their access and reset values, and how one is read. -/

namespace Sys2Proof.Machine

/-- Who may write a register (R5, R326). -/
inductive Access where
  | ro | rw | g | wo
deriving DecidableEq, Repr

/-- A register's number, access and reset value. -/
structure RegRow where
  num : Nat
  access : Access
  reset : Nat

/-- The rows of R326. -/
def regsPriv : List RegRow :=
  [⟨0x0001, .ro, 0x01⟩, ⟨0x0002, .g, 0⟩, ⟨0x0010, .rw, 0⟩, ⟨0x0011, .rw, 16⟩, ⟨0x0012, .ro, 0⟩,
   ⟨0x0013, .rw, 0⟩, ⟨0x0014, .g, 0⟩, ⟨0x0020, .rw, 0⟩, ⟨0x0021, .rw, 0⟩, ⟨0x0030, .rw, 0⟩,
   ⟨0x0031, .rw, 0⟩, ⟨0x0040, .rw, 1000⟩, ⟨0x0050, .g, 0⟩, ⟨0x0060, .ro, 0⟩]

/-- The rows of R352 and R337. -/
def regsSched : List RegRow :=
  [⟨0x0100, .rw, 0⟩, ⟨0x0101, .rw, 0⟩, ⟨0x0102, .rw, 0⟩, ⟨0x0110, .ro, 0⟩, ⟨0x0111, .ro, 0⟩,
   ⟨0x0112, .ro, 0⟩, ⟨0x0120, .rw, 0⟩, ⟨0x0121, .rw, 0⟩, ⟨0x0122, .rw, 0⟩, ⟨0x0123, .ro, 0⟩,
   ⟨0x0500, .g, 0⟩, ⟨0x0501, .ro, 0⟩, ⟨0x0510, .rw, 0⟩, ⟨0x0511, .rw, 0⟩, ⟨0x0512, .ro, 0⟩,
   ⟨0x0513, .ro, 0⟩, ⟨0x0520, .rw, 0⟩, ⟨0x0521, .rw, 0⟩, ⟨0x0530, .rw, 16⟩, ⟨0x0540, .wo, 0⟩]

/-- The rows of R367, R381, R386 and R388. -/
def regsDebug : List RegRow :=
  [⟨0x0200, .g, 0⟩, ⟨0x0201, .g, 0⟩, ⟨0x0202, .g, 0⟩, ⟨0x0203, .ro, 0⟩, ⟨0x0204, .ro, 0⟩,
   ⟨0x0205, .ro, 0⟩, ⟨0x0206, .rw, 0⟩, ⟨0x0207, .rw, 0⟩, ⟨0x0300, .rw, 0⟩, ⟨0x0301, .rw, 0⟩,
   ⟨0x0302, .wo, 0⟩, ⟨0x0308, .rw, 0⟩, ⟨0x0309, .rw, 0⟩, ⟨0x0310, .rw, 0⟩, ⟨0x0311, .rw, 64⟩,
   ⟨0x0312, .ro, 0⟩, ⟨0x0313, .rw, 0⟩, ⟨0x0314, .ro, 0⟩, ⟨0x0315, .rw, 0⟩, ⟨0x0320, .rw, 0⟩,
   ⟨0x0321, .rw, 0⟩, ⟨0x0322, .ro, 0⟩, ⟨0x0330, .rw, 0⟩, ⟨0x0331, .rw, 0⟩, ⟨0x0332, .ro, 0⟩,
   ⟨0x0333, .rw, 0⟩, ⟨0x0334, .rw, 0⟩, ⟨0x0335, .wo, 0⟩]

/-- The rows of R391. -/
def regsPlatform : List RegRow :=
  [⟨0x0400, .ro, 0⟩, ⟨0x0401, .ro, 0⟩, ⟨0x0402, .ro, 0⟩, ⟨0x0410, .g, 40⟩, ⟨0x0411, .g, 4500⟩,
   ⟨0x0412, .ro, 0⟩, ⟨0x0413, .rw, 760⟩, ⟨0x0420, .rw, 0⟩, ⟨0x0421, .rw, 64⟩, ⟨0x0422, .ro, 0⟩,
   ⟨0x0430, .ro, 0⟩]

def regRows : List RegRow := regsPriv ++ regsSched ++ regsDebug ++ regsPlatform

def regRow (num : Nat) : Option RegRow := regRows.find? fun r => r.num == num

/-- The bits that a register's row assigns (R326, R334, R352, R367, R381, R386, R388); a write leaves the others zero, and
a 1 in them has no effect (R5). -/
def assignedBits (num idx : Nat) : Nat :=
  match num with
  | 0x0014 => 0x3FFF
  | 0x0102 | 0x0202 => 0xFFFF
  | 0x0120 => 1
  | 0x0200 | 0x0201 => 0x3FFFFFFF
  | 0x0301 => 7
  | 0x0302 => 0x33FFF
  | 0x0309 => 0xFFFFFFFF0000003F
  | 0x0320 => 0xFFFFFFFF00FF0F01
  | 0x0335 => 0x7FFF
  | 0x0500 =>
    match idx with
    | 0 => 0x31F
    | 1 => 0xFFFFFFFF03FFFFFF
    | _ => 0xFFFFFFFFFFFFFFFF
  | _ => 0xFFFFFFFFFFFFFFFF

/-- Key of a register and index in the partition's table. -/
def regKey (num idx : Nat) : Nat := num * 65536 + idx

/-- A register of a partition as it is kept: its value, or its reset value. -/
def Partition.reg (p : Partition) (num idx : Nat) : Nat :=
  (tabGet (word (((regRow num).map (·.reset)).getD 0)) p.regs (regKey num idx)).toNat

/-- A register set; the table lists every register that has been set. -/
def Partition.setReg (p : Partition) (num idx v : Nat) : Partition :=
  { p with regs := tabPut p.regs (regKey num idx) (word v) }

/-- One more in a counting register, modulo 2^64. -/
def Partition.bump (p : Partition) (num idx n : Nat) : Partition :=
  p.setReg num idx (p.reg num idx + n)

/-- The Gazebo root runs (R398, R401). -/
def rootRuns (s : State) : Bool := 2 ≤ s.bootstage

/-- The active key slot of a sender: its counter and key, and the next key in the idle slot (R375). -/
def LinkTx.ctr (t : LinkTx) : Nat := if t.slot then t.ctr1 else t.ctr0
def LinkTx.key (t : LinkTx) : Option (BitVec 256) := if t.slot then t.key1 else t.key0
def LinkTx.next (t : LinkTx) : Option (BitVec 256) := if t.old then none else if t.slot then t.key0 else t.key1

/-- linkstat (R367). -/
def linkStat (k : Link) : Nat :=
  bit k.up + 2 * bit k.tx.slot + 4 * bit k.tx.next.isSome + 65536 * k.tx.ctr

/-- The value that SRD reads (R326): registers of the device come from their own state, the others
from the partition's table. -/
def State.sysRead (s : State) (p : Partition) (num idx : Nat) : Word :=
  match num with
  | 0x0001 => s.devid
  | 0x0060 => word s.clock
  | 0x0400 => word s.lcstate
  | 0x0401 => word p.stage
  | 0x0402 => s.meas.getD idx 0
  | 0x0430 => word (bit s.ptpLocked + 2 * bit s.ptpPort1 + 2 ^ 32 * wrapInt 32 s.ptpOffset)
  | 0x0203 => word (((s.links.find? fun k => k.num == idx).map linkStat).getD 0)
  | 0x0302 | 0x0335 | 0x0540 => 0
  | _ => word (p.reg num idx)

/-- A register of the partition of a team; 0 where the partition is unknown. -/
def State.teamReg (s : State) (t : Team) (num idx : Nat) : Nat :=
  ((s.part? t.part).map fun p => (s.sysRead p num idx).toNat).getD 0

/-- partid (R326): shape and quarters held. -/
def Partition.quarters (p : Partition) : Nat := bitsOf (p.reg 0x0002 0) 7 4

/-- Axis coordinates, used-axis mask and extents of the partition's fabric node (R367). -/
def Partition.coord (p : Partition) : Nat := bitsOf (p.reg 0x0200 0) 24 0
def Partition.axes (p : Partition) : Nat := bitsOf (p.reg 0x0200 0) 29 25
def Partition.extent (p : Partition) (a : Nat) : Nat :=
  if bitAt p.axes a then bitsOf (p.reg 0x0201 0) (6 * a + 5) (6 * a) else 1

/-- The groups of a launch that contain a team, in Trellis order (R27). -/
def groupsOf (n : Launch) (index : Nat) : List Group := n.groups.filter fun g => g.members.contains index

/-- The group in a slot g0-g3 (R27). -/
def State.groupAt (s : State) (t : Team) (slot : Nat) : Option Group :=
  match s.launchOf t with
  | none => none
  | some n => (groupsOf n t.index)[slot]?

/-- Rank of a member of a group over every device it spans (R28): members of devices with a lower
coordinate come first. -/
def Group.rank (g : Group) (coord index : Nat) : Nat :=
  (g.remote.filter fun r => r.1 < coord).foldl (fun n r => n + r.2) 0
    + (g.members.takeWhile fun m => m < index).length

/-- Members of a group over every device (R119). -/
def Group.total (g : Group) : Nat := g.members.length + g.remote.foldl (fun n r => n + r.2) 0

/-- The coordinate of the team's node. -/
def State.coordOf (s : State) (t : Team) : Nat := ((s.part? t.part).map (·.coord)).getD 0

/-- The member of a rank: its device's coordinate and its position there (R28). -/
def Group.locate (g : Group) (coord rank : Nat) : Option (Nat × Nat) :=
  let devices := (coord, g.members.length) :: g.remote
  let lower := fun (c : Nat) => (devices.filter fun d => d.1 < c).foldl (fun n d => n + d.2) 0
  (devices.find? fun d => lower d.1 ≤ rank && rank < lower d.1 + d.2).map fun d => (d.1, rank - lower d.1)

end Sys2Proof.Machine
end

