-- ==== Sys2Proof/Machine/Translate.lean ====
section
/-! DEFINITION. Physical memory, soft errors (R362), address translation (R351-R358), reading through
it, and handle entries and tensor headers (R113-R116, R126, R127). -/

namespace Sys2Proof.Machine

/-- What an operation on memory answers: the state with its counters, and a value or a fault. -/
abbrev Got (α : Type) := State × Except Draft α

/-- The physical address lies in the partition's relay store, which no translation reaches (R369). -/
def Partition.relays (p : Partition) (pa : Nat) : Bool := p.reg 0x0206 0 ≤ pa && pa < p.reg 0x0206 0 + p.reg 0x0207 0

/-- The physical address lies in the memory of a partition that translations reach (R355): DRAM of its quarters outside
its relay store, or far memory attached to their CXL ports and sanitised (R400). -/
def inPartition (s : State) (p : Partition) (pa : Nat) : Bool :=
  if pa < Config.dramBytes then bitAt p.quarters (pa / Config.quarterBytes) && !p.relays pa
  else if Config.farBase ≤ pa && pa < 2 * Config.farBase - 0x200000000000 then
    let port := (pa - Config.farBase) / Config.farPortBytes
    bitAt p.quarters (port / 2) && s.cxl.any fun c =>
      c.port == port && c.clean && (pa - Config.farBase) % Config.farPortBytes < c.bytes
  else false

/-- The soft error that a read of physical bytes meets (R362): a poisoned line. -/
def poisonAt (s : State) (pa n : Nat) : Option Bool :=
  s.soft.findSome? fun e =>
    match e with
    | .poison line l2 => if line * 64 < pa + n && pa < line * 64 + 64 then some l2 else none
    | _ => none

/-- Single-bit errors in the bytes read are corrected and counted in cecnt (R362). -/
def correctSingles (s : State) (part pa n : Nat) : State :=
  let hit := fun (e : SoftError) => match e with
    | .single w => w * 8 < pa + n && pa < w * 8 + 8
    | _ => false
  let k := (s.soft.filter hit).length
  if k == 0 then s
  else { s with soft := s.soft.filter fun e => !hit e }.modPart part fun p => p.bump 0x0111 0 k

/-- Physical bytes as read by a party of a partition (R362). -/
def readPhys (s : State) (part pa n : Nat) : Got (List Byte) :=
  match poisonAt s pa n with
  | some l2 => (s, .error { cause := 4, detail := if l2 then 2 else 1, addr := pa })
  | none => (correctSingles s part pa n, .ok (s.mem.read pa n))

/-- Physical bytes stored (R362): a write of a whole poisoned line clears the poison, a partial one
is not performed and faults. -/
def writePhys (s : State) (pa : Nat) (bs : List Byte) : Got Unit :=
  let n := bs.length
  let covered := fun (line : Nat) => pa ≤ line * 64 && line * 64 + 64 ≤ pa + n
  let bad := s.soft.findSome? fun e =>
    match e with
    | .poison line l2 =>
      if line * 64 < pa + n && pa < line * 64 + 64 && !covered line then some l2 else none
    | _ => none
  match bad with
  | some l2 => (s, .error { cause := 4, detail := if l2 then 2 else 1, addr := pa })
  | none =>
    let keep := fun (e : SoftError) => match e with
      | .poison line _ => !covered line
      | .single w => !(pa ≤ w * 8 && w * 8 + 8 ≤ pa + n)
      | _ => true
    ({ s with mem := s.mem.write pa bs, soft := s.soft.filter keep }, .ok ())

/-- Level of a table, its index bits (R354), low bit first. -/
def levelBits (lvl : Nat) : Nat × Nat :=
  match lvl with
  | 3 => (55, 43)
  | 2 => (42, 31)
  | 1 => (30, 21)
  | _ => (20, 12)

/-- Bits of alignment of a leaf's frame, and of the next table below a level. -/
def frameBits (lvl : Nat) (c64 : Bool) : Nat :=
  match lvl with
  | 2 => 31
  | 1 => 21
  | _ => if c64 then 16 else 12
def tableBits (lvl : Nat) : Nat :=
  match lvl with
  | 3 => 15
  | 2 => 13
  | _ => 12

/-- A page-table entry is valid and well formed at its level (R354). -/
def entryOk (lvl e : Nat) : Bool :=
  let leaf := bitAt e 3
  let c64 := bitAt e 4
  let addr := bitsOf e 51 12 * 4096
  bitAt e 0 && bitsOf e 63 52 == 0 && bitsOf e 11 5 == 0
    && (lvl != 3 || !leaf) && (lvl != 0 || leaf) && (lvl == 0 || !c64)
    && (if leaf then addr % 2 ^ frameBits lvl c64 == 0
        else addr % 2 ^ tableBits lvl == 0 && !bitAt e 2 && !bitAt e 1)

/-- An entry as the walker meets it (R356): as memory holds it, or a version that the device still
holds; where the two differ, which is used is the implementation's choice. -/
def walkEntry (s : State) (part ctx lvl tag : Nat) (now : Nat) : State × Nat :=
  match s.held.find? fun h => h.part == part && h.ctx == ctx && h.level == lvl && h.tag == tag with
  | none => (s, now)
  | some h =>
    if h.entry.toNat == now then (s, now)
    else ({ s with choices := s.choices + 1 }, if Config.choice s.choices then h.entry.toNat else now)

/-- The kind of access a walk is for (R355): its failure's DETAIL. -/
def walkFail (kind : AccessKind) (detail : Nat) : Draft :=
  { cause := 1, detail := match kind with | .fetch => 5 | _ => detail }

/-- What a level of the walk gives: the physical address of a leaf and the bits within its page, or the next table. -/
inductive WalkStep where
  | leaf (pa shift : Nat)
  | table (next : Nat)
deriving DecidableEq, Repr

/-- One level of the walk of R355: the entry of a table for an address. -/
def walkLevel (p : Partition) (ctx va : Nat) (kind : AccessKind) (lvl table : Nat) (s : State) : Got WalkStep :=
  let (hi, lo) := levelBits lvl
  match readPhys s p.num (table + 8 * bitsOf va hi lo) 8 with
  | (s, .error d) => (s, .error d)
  | (s, .ok bs) =>
    let (s, e) := walkEntry s p.num ctx lvl (va / 2 ^ lo) (leNat bs)
    if !entryOk lvl e then (s, .error (walkFail kind 1))
    else if bitAt e 3 then
      let shift := frameBits lvl (bitAt e 4)
      let pa := bitsOf e 51 12 * 4096 + va % 2 ^ shift
      if !inPartition s p pa then
        (s.modPart p.num fun q => q.bump 0x0110 0 1, .error { walkFail kind 1 with shift, viol := true })
      else if kind == .write && !bitAt e 1 then (s, .error { walkFail kind 2 with shift })
      else if kind == .fetch && !bitAt e 2 then (s, .error { walkFail kind 5 with shift })
      else (s, .ok (.leaf pa shift))
    else (s, .ok (.table (bitsOf e 51 12 * 4096)))

/-- The walk of R355 from a table at a level downward. -/
def walkFrom (p : Partition) (ctx va : Nat) (kind : AccessKind) : Nat → Nat → State → Got (Nat × Nat)
  | 0, table, s =>
    match walkLevel p ctx va kind 0 table s with
    | (s, .error d) => (s, .error d)
    | (s, .ok (.leaf pa shift)) => (s, .ok (pa, shift))
    | (s, .ok (.table _)) => (s, .error (walkFail kind 1))
  | n + 1, table, s =>
    match walkLevel p ctx va kind (n + 1) table s with
    | (s, .error d) => (s, .error d)
    | (s, .ok (.leaf pa shift)) => (s, .ok (pa, shift))
    | (s, .ok (.table next)) => walkFrom p ctx va kind n next s

/-- A context descriptor is valid and well formed (R353). -/
def descriptorOk (d : Nat) : Bool := bitAt d 0 && bitsOf d 15 1 == 0 && d / 2 ^ 52 == 0

/-- The walk of a context from a descriptor. -/
def walkContext (p : Partition) (ctx va : Nat) (kind : AccessKind) (d : Nat) (s : State) : Got (Nat × Nat) :=
  if !descriptorOk d then (s, .error (walkFail kind 1))
  else walkFrom p ctx va kind 3 (bitsOf d 51 16 * 65536) s

/-- Translates a global virtual address (R122, R355), and says how many of its bits lie within the page. A context beyond
ctxcount has no descriptor; one that the device still holds from before a write of that register may go on being used
until a TLBI (R352). -/
def translatePage (s : State) (part ctx va : Nat) (kind : AccessKind) : Got (Nat × Nat) :=
  match s.part? part with
  | none => (s, .error (walkFail kind 1))
  | some p =>
    if va / 2 ^ 56 != 0 then (s, .error { walkFail kind 4 with addr := va })
    else if p.reg 0x0101 0 ≤ ctx then
      match s.held.find? fun h => h.part == part && h.ctx == ctx && h.level == 4 with
      | none => (s, .error (walkFail kind 1))
      | some h =>
        let use := Config.choice s.choices
        let s := { s with choices := s.choices + 1 }
        if use then walkContext p ctx va kind h.entry.toNat s else (s, .error (walkFail kind 1))
    else
      match readPhys s part (p.reg 0x0100 0 + 16 * ctx) 16 with
      | (s, .error d) => (s, .error d)
      | (s, .ok bs) =>
        let (s, d) := walkEntry s part ctx 4 0 (leNat bs)
        walkContext p ctx va kind d s

/-- Translates a global virtual address. -/
def translate (s : State) (part ctx va : Nat) (kind : AccessKind) : Got Nat :=
  match translatePage s part ctx va kind with
  | (s, .error d) => (s, .error d)
  | (s, .ok x) => (s, .ok x.1)

/-- The lanes of one instruction that miss on one page share a walk (R358): where its leaf lies outside the partition's
memory, xlviol counts it once for all of them. -/
def shareWalks (before s : State) (part : Nat) (bad : List Draft) : State :=
  let hits := bad.filter (·.viol)
  if hits.length ≤ 1 then s
  else
    let pages := (hits.map fun d => d.addr / 2 ^ d.shift).eraseDups.length
    s.modPart part fun p => p.setReg 0x0110 0 (((before.part? part).map fun q => q.reg 0x0110 0).getD 0 + pages)

/-- Reads bytes of one page through a context (R355). -/
def readVirt (s : State) (part ctx va n : Nat) (kind : AccessKind) : Got (List Byte) :=
  match translate s part ctx va kind with
  | (s, .error d) => (s, .error { d with addr := va })
  | (s, .ok pa) =>
    match readPhys s part pa n with
    | (s, .error d) => (s, .error { d with addr := va })
    | r => r

/-- Stores bytes of one page through a context. -/
def writeVirt (s : State) (part ctx va : Nat) (bs : List Byte) : Got Unit :=
  match translate s part ctx va .write with
  | (s, .error d) => (s, .error { d with addr := va })
  | (s, .ok pa) =>
    match writePhys s pa bs with
    | (s, .error d) => (s, .error { d with addr := va })
    | r => r

/-- Reads n bytes that may span pages: 64 bytes or less at a time. -/
def readSpan (s : State) (part ctx va : Nat) (kind : AccessKind) : Nat → List Byte → Nat → Got (List Byte)
  | 0, acc, _ => (s, .ok acc)
  | fuel + 1, acc, n =>
    if n == 0 then (s, .ok acc)
    else
      let k := min n (64 - va % 64)
      match readVirt s part ctx va k kind with
      | (s, .error d) => (s, .error d)
      | (s, .ok bs) => readSpan s part ctx (va + k) kind fuel (acc ++ bs) (n - k)

/-- Reads n bytes from an address on, page by page. -/
def readBytes (s : State) (part ctx va n : Nat) (kind : AccessKind) : Got (List Byte) :=
  readSpan s part ctx va kind (n / 64 + 2) [] n

/-- Stores bytes that may span pages, 64 or less at a time; stops at the first failure. -/
def writeSpan (s : State) (part ctx va : Nat) : Nat → List Byte → Got Unit
  | 0, _ => (s, .ok ())
  | fuel + 1, bs =>
    match bs with
    | [] => (s, .ok ())
    | _ =>
      let k := 64 - va % 64
      match writeVirt s part ctx va (bs.take k) with
      | (s, .error d) => (s, .error d)
      | (s, .ok ()) => writeSpan s part ctx (va + (bs.take k).length) fuel (bs.drop k)

/-- Stores bytes from an address on. -/
def writeBytes (s : State) (part ctx va : Nat) (bs : List Byte) : Got Unit :=
  writeSpan s part ctx va (bs.length / 64 + 2) bs

/-- A handle entry from its 64 bytes (R114, R116). A reserved CACHE code makes an entry malformed under every SPACE,
also where R115 ignores CACHE (the model's choice, log 85). -/
def parseHandle (n : Nat) : Handle :=
  let space := bitsOf n 131 128
  let cache := bitsOf n 135 132
  let base := bitsOf n 63 0
  let hdr := bitsOf n 255 192
  { shardVer := word (bitsOf n 319 256), hdr := word hdr, peerH := bitsOf n 159 152
    wgroup := bitsOf n 151 144, stale := bitAt n 137, checked := bitAt n 136, cache, space
    bound := bitsOf n 127 64, base
    bad := space == 0 || 8 ≤ space || 4 ≤ cache || n / 2 ^ 320 != 0 || bitsOf n 191 160 != 0
      || bitsOf n 143 138 != 0 || base % 64 != 0 || hdr % 64 != 0 || (space == 7 && base != 0) }

/-- An entry that no instruction has read. -/
def Handle.none : Handle :=
  { shardVer := 0, hdr := 0, peerH := 0, wgroup := 0, stale := false, checked := false, cache := 0
    space := 0, bound := 0, base := 0, bad := true }

/-- The entry breaks R116 for this team: a window group that does not contain it too. -/
def handleBad (s : State) (t : Team) (h : Handle) : Bool :=
  h.bad || (h.space == 3 &&
    !((s.launchOf t).map fun n => n.groups.any fun g => g.index == h.wgroup && g.w
        && g.members.contains t.index).getD false)

/-- Reads handle entry h of a team (R113): none for HANDLES = 0. -/
def readHandle (s : State) (t : Team) (h : Nat) : Got (Option Handle) :=
  if t.handles == 0 then (s, .ok none)
  else
    match readVirt s t.part t.ctx (t.handles + 64 * h) 64 .read with
    | (s, .error d) =>
      (s, .error { d with detail := if d.cause == 1 then 6 else d.detail, handle := h })
    | (s, .ok bs) => (s, .ok (some (parseHandle (leNat bs))))

/-- A tensor header record (R126). -/
structure Header where
  seed : Word
  shardVer : Word
  bad : Bool
deriving DecidableEq, Repr

/-- Bytes of a row of n elements of a format (R127). -/
def rowBytes (t : Tag) (n : Nat) : Nat := if t == 15 then 8 * ((n + 9) / 10) else n * fmtWidth t / 8

/-- A header from its 64 bytes (R126, R127). -/
def parseHeader (n : Nat) : Header :=
  let fmt : Tag := BitVec.ofNat 4 (bitsOf n 227 224)
  let pitches := [bitsOf n 159 128, bitsOf n 191 160, bitsOf n 223 192]
  let dims := [bitsOf n 31 0, bitsOf n 63 32, bitsOf n 95 64, bitsOf n 127 96]
  { seed := word (bitsOf n 511 448), shardVer := word (bitsOf n 447 384)
    bad := bitsOf n 319 234 != 0 || bitsOf n 231 230 != 0 || bitsOf n 233 232 == 3 || fmt == 0
      || dims.any (· == 0) || pitches.any (fun p => p % 8 != 0)
      || bitsOf n 159 128 < rowBytes fmt (bitsOf n 31 0) }

/-- Reads the header of a handle (R126): DETAIL 7 on a translation fault. -/
def readHeader (s : State) (t : Team) (h : Handle) (hIdx : Nat) : Got Header :=
  match readVirt s t.part t.ctx h.hdr.toNat 64 .read with
  | (s, .error d) =>
    (s, .error { d with detail := if d.cause == 1 then 7 else d.detail, handle := hIdx })
  | (s, .ok bs) => (s, .ok (parseHeader (leNat bs)))

end Sys2Proof.Machine
end

