-- ==== Sys2Proof/Machine/Access.lean ====
section
/-! DEFINITION. Accesses to memory: where an offset under a handle lies (R117-R124), what the race
detector says of an access (R289-R292), the deterministic-mode rules (R44, R45), reading and writing
at the ordering points and through a core's cache (R286, R287), and the releases that travel with
the bytes (R281). -/

namespace Sys2Proof.Machine

/-- Where the bytes of an access lie. -/
inductive Place where
  /-- A lane's slice (R56). -/
  | slice (lane addr : Nat)
  /-- The scratchpad of a team of this device. -/
  | scratch (uid addr : Nat)
  /-- The chip scratchpad. -/
  | chip (addr : Nat)
  /-- Physical memory. -/
  | phys (pa : Nat)
  /-- A window part on another device: its coordinate, the member's rank and the window address. -/
  | peer (dst rank addr : Nat)
deriving DecidableEq, Repr

/-- A resolved access: its place, its level address (ADDR of a record), the entry, handle index,
group and length. -/
structure Spot where
  place : Place
  addr : Nat
  h : Handle
  hIdx : Nat
  group : Nat
  n : Nat
  /-- Address bits within its page. -/
  shift : Nat := 12
deriving DecidableEq, Repr

/-- What an access does. -/
structure Use where
  read : Bool
  write : Bool
  sync : Bool
  atomic : Bool
deriving DecidableEq, Repr

def Use.load : Use := ⟨true, false, false, false⟩
def Use.store : Use := ⟨false, true, false, false⟩
def Use.syncRead : Use := ⟨true, false, true, false⟩
def Use.syncWrite : Use := ⟨false, true, true, false⟩
def Use.rmw : Use := ⟨true, true, true, true⟩
/-- The kind of access as a walk sees it (R355). -/
def Use.kind (u : Use) : AccessKind := if u.write then .write else .read

/-- Level scope of a handle (R225). -/
def Handle.scope (h : Handle) : Nat :=
  match h.space with
  | 1 => 0
  | 2 => 1
  | 3 => 2
  | _ => 3

/-- The slice offsets that exist (R56). -/
def sliceOk (t : Team) (o n : Nat) : Bool :=
  o + n ≤ 8 * t.nv || (0x400 ≤ o && o + n ≤ 0x460) || (0x480 ≤ o && o + n ≤ 0x4C0)

/-- A byte of a lane's slice (R56). -/
def Lane.sliceByte (x : Lane) (o : Nat) : Byte :=
  if o < 0x400 then BitVec.ofNat 8 ((x.vreg (o / 8)).toNat / 2 ^ (8 * (o % 8)))
  else if o < 0x460 then x.priv.getD (o - 0x400) 0
  else BitVec.ofNat 8 ((x.stack.getD ((o - 0x480) / 4) 0).toNat / 2 ^ (8 * (o % 4)))

/-- A number with byte k replaced. -/
def putByte (v k : Nat) (b : Byte) : Nat :=
  v % 2 ^ (8 * k) + b.toNat * 2 ^ (8 * k) + v / 2 ^ (8 * k + 8) * 2 ^ (8 * k + 8)

/-- A lane with a byte of its slice stored; a vector register becomes untagged (R56). -/
def Lane.putSlice (x : Lane) (o : Nat) (b : Byte) : Lane :=
  if o < 0x400 then x.setV (o / 8) (word (putByte (x.vreg (o / 8)).toNat (o % 8) b)) 0
  else if o < 0x460 then { x with priv := x.priv.set (o - 0x400) b }
  else
    let k := (o - 0x480) / 4
    { x with stack := x.stack.set k (BitVec.ofNat 32 (putByte (x.stack.getD k 0).toNat (o % 4) b)) }

/-- The bound fault of R117, at the level address. -/
def boundDraft (h : Handle) (hIdx : Nat) (off : Int) : Draft :=
  { cause := 1, detail := 3, addr := wrapInt 64 (Int.ofNat h.base + off), handle := hIdx }

/-- The group that a window handle names (R114). -/
def windowGroup (s : State) (t : Team) (h : Handle) : Option Group :=
  (s.launchOf t).bind fun n => n.groups.find? fun g => g.index == h.wgroup && g.w

/-- The place of a window address (R119), or none beyond the extent. -/
def windowPlace (s : State) (t : Team) (g : Group) (a n : Nat) : Option (Except Nat Place) :=
  let p := g.winGran * 4096
  if p == 0 || g.total * p < a + n then none
  else
    match g.locate (s.coordOf t) (a / p) with
    | none => none
    | some (c, pos) =>
      if c != s.coordOf t then some (.ok (.peer c (a / p) a))
      else
        let m := g.members.getD pos 0
        if g.departed.contains m then some (.error (a / p))
        else
          match s.teams.find? fun u => u.launch == t.launch && u.index == m with
          | some u => some (.ok (.scratch u.uid (a % p)))
          | none => some (.error (a / p))

/-- Chip-scratchpad bytes of a partition and the device address of one of them (R121). -/
def chipExtent (q : Nat) : Nat := (setBits 4 q).length * Config.chipPart
def chipAddr (q a : Nat) : Nat :=
  (setBits 4 q).getD (a / Config.chipPart) 0 * Config.chipPart + a % Config.chipPart

/-- Resolves an access of n bytes at an offset under a handle, for a lane where the level is the
slice (R117-R122, in the order of R359). A team that has detached from the group meets that fault before one of the
departed member (the model's choice, log 86). -/
def resolve (s : State) (t : Team) (h : Handle) (hIdx lane : Nat) (off : Int) (n : Nat)
    (kind : AccessKind) : Got Spot :=
  let bound := boundDraft h hIdx off
  if off < 0 || Int.ofNat h.bound < off + Int.ofNat n then (s, .error bound)
  else
    let a := h.base + off.toNat
    let spot := fun (p : Place) (g : Nat) =>
      { place := p, addr := a, h, hIdx, group := g, n : Spot }
    match h.space with
    | 1 => if sliceOk t a n then (s, .ok (spot (.slice lane a) 0)) else (s, .error bound)
    | 2 => if a + n ≤ t.scrGran * 4096 then (s, .ok (spot (.scratch t.uid a) 0)) else (s, .error bound)
    | 3 =>
      match windowGroup s t h with
      | none => (s, .error bound)
      | some g =>
        match windowPlace s t g a n with
        | none => (s, .error bound)
        | some r =>
          let gone := fun (d info : Nat) =>
            { cause := 2, detail := d, addr := a, info, handle := hIdx, group := g.index : Draft }
          if t.detached.contains g.index then (s, .error (gone 1 (g.rank (s.coordOf t) t.index)))
          else
            match r with
            | .error rank => (s, .error (gone 2 rank))
            | .ok p => (s, .ok (spot p g.index))
    | 4 =>
      let q := ((s.part? t.part).map (·.quarters)).getD 0
      if a + n ≤ chipExtent q then (s, .ok (spot (.chip (chipAddr q a)) 0)) else (s, .error bound)
    | _ =>
      match translatePage s t.part t.ctx a kind with
      | (s, .error d) => (s, .error { d with addr := a, handle := hIdx })
      | (s, .ok (pa, shift)) => (s, .ok { spot (.phys pa) 0 with shift })

/-! The race detector -/

/-- The party that makes an access, as the detector keeps it (R289), the number of the same thread's remote stores, and
the groups of its team. -/
structure Accessor where
  party : Nat
  self : Nat
  vc : Clocks
  uid : Nat
  rank : Nat
  launch : Option Nat
  index : Nat
  core : Nat
  since : Nat
  coord : Nat
  engine : Bool
  remote : Bool
  trk : Nat
  keys : List Nat
  /-- The launch that a remote access met (R124). -/
  under : Option Nat
  part : Nat := 0
deriving DecidableEq, Repr

/-- How the detector treats a pair (R292): never compared, always compared, or compared only while
the entry is still held. -/
inductive Pairing where
  | never | complete | maybe
deriving DecidableEq, Repr

/-- The launch of this device under which a party accesses: its own, or the one that a remote access met (R124). -/
def homeLaunch (remote : Bool) (under launch : Option Nat) : Option Nat := if remote then under else launch

/-- The class of a pair of accesses (R292). Supervisor teams have no launch: they are compared within
a team only. A gang is one group on every device. A team that has left the core by its exit alone still counts as held
there (R313, log entry 92). In a deterministic launch no free choice decides what is reported (R297): the entry is still
held (log entry 92). -/
def pairing (s : State) (x : Accessor) (e : Shadow) : Pairing :=
  let home := homeLaunch x.remote x.under x.launch
  if x.uid == e.uid then .complete
  else if x.keys.any e.keys.contains then .complete
  else if home != homeLaunch e.remote e.under e.launch || home.isNone then .never
  else if x.remote || e.remote then .maybe
  else if x.core == e.core && e.there.contains x.uid && !(s.teams.any fun u => u.uid == e.uid && u.core != x.core) then
    .complete
  else if ((x.launch.bind s.launch?).map (·.det)).getD false then .complete
  else .maybe

/-- The pair conflicts and no order of R282 stands between (R284, R295). -/
def conflicts (x : Accessor) (u : Use) (e : Shadow) : Bool :=
  (e.write || u.write) && (!e.sync || !u.sync) && !sameCommand x.party e.party
    && x.party != e.party && x.self != e.party && !x.vc.seen e.party e.epoch

/-- The ordering point's own key of a place (R286), none where the detector does not watch. -/
def Place.loc : Place → Option (LocKind × Nat × Nat)
  | .scratch u a => some (.scratch, u, a)
  | .chip a => some (.chip, 0, a)
  | .phys a => some (.phys, 0, a)
  | _ => none

/-- The race detector covers the access (R130). -/
def Spot.covered (sp : Spot) : Bool :=
  match sp.place with
  | .scratch _ _ | .chip _ => true
  | .phys _ => sp.h.checked
  | _ => false

/-- The granules of a byte range with the mask of their bytes. -/
def granules (a n : Nat) : List (Nat × BitVec 64) :=
  if n == 0 then []
  else (List.range ((a + n - 1) / 64 + 1 - a / 64)).map fun k =>
    let g := a / 64 + k
    let lo := max a (64 * g) - 64 * g
    let hi := min (a + n) (64 * g + 64) - 64 * g
    (g, BitVec.ofNat 64 (2 ^ hi - 2 ^ lo))

/-- The first held entry that the access races with. -/
def raceWith (x : Accessor) (u : Use) (k : LocKind) (id g : Nat) (m : BitVec 64) :
    List Shadow → State → State × Option Shadow
  | [], s => (s, none)
  | e :: es, s =>
    if e.kind == k && e.id == id && e.granule == g && e.bytes &&& m != 0 && conflicts x u e then
      match pairing s x e with
      | .never => raceWith x u k id g m es s
      | .complete => (s, some e)
      | .maybe =>
        if Config.choice s.choices then ({ s with choices := s.choices + 1 }, some e)
        else raceWith x u k id g m es { s with choices := s.choices + 1 }
    else raceWith x u k id g m es s

/-- The writes that the access reads ahead, by byte of the granule: what a team of higher index of its
deterministic launch wrote last (R44). -/
def readsAhead (s : State) (x : Accessor) (k : LocKind) (id g : Nat) (m : BitVec 64) : List (Nat × Shadow) :=
  if ((x.launch.bind s.launch?).map (·.det)).getD false then
    (List.range 64).filterMap fun b =>
      if m.getLsbD b then
        match s.shadow.find? fun e => e.kind == k && e.id == id && e.granule == g && e.write && e.bytes.getLsbD b with
        | some e => if e.launch == x.launch && x.index < e.index then some (b, e) else none
        | none => none
      else none
  else []

/-- PARTY of a memory-model record (R328). -/
def Shadow.word (e : Shadow) : Nat :=
  logicalId e.index e.rank % 2 ^ 37 + 2 ^ 37 * e.trk + 2 ^ 40 * bit e.engine + 2 ^ 41 * bit e.write
    + 2 ^ 42 * bit e.sync + 2 ^ 43 * bit e.remote

/-- How many entries of a partition the detector can hold (R292): its own storage and the core's cache granules, and
64 bytes an entry in the overflow area that shadowbase and shadowlen name (R326). -/
def State.shadowLimit (s : State) (part : Nat) : Nat :=
  s.shadowRoom + ((s.part? part).map fun p => (tabGet 0 p.regs (0x0031 * 65536)).toNat / 64).getD 0

/-- The entry of an access in a granule (R289). -/
def shadowOf (s : State) (x : Accessor) (u : Use) (k : LocKind) (id g : Nat) (m : BitVec 64) : Shadow :=
  { kind := k, id, granule := g, bytes := m, write := u.write, sync := u.sync, engine := x.engine
    remote := x.remote, trk := x.trk, party := x.party, epoch := tabGet 0 x.vc x.party, uid := x.uid
    rank := x.rank, launch := x.launch, index := x.index, core := x.core, coord := x.coord
    time := s.clock, keys := x.keys, under := x.under, part := x.part
    there := (s.teams.filter fun t => t.core == x.core).map (·.uid) }

/-- A later entry of the same party makes this one needless: whatever races with it races with the
later one. -/
def Shadow.covers (n e : Shadow) : Bool :=
  e.kind == n.kind && e.id == n.id && e.granule == n.granule && e.party == n.party && e.write == n.write
    && e.sync == n.sync && e.under == n.under && e.bytes &&& ~~~ n.bytes == 0

/-- Tests and records an access in one granule (R290, R292); a deterministic read names the writer of the lowest
byte concerned (R44, R328). -/
def testGranule (x : Accessor) (u : Use) (sp : Spot) (k : LocKind) (id base : Nat)
    (gm : Nat × BitVec 64) (s : State) : Got Unit :=
  let (g, m) := gm
  let at_ := sp.addr + (max base (64 * g) - base)
  let model := fun (d info party coord : Nat) =>
    { cause := 3, detail := d, addr := at_, info, handle := sp.hIdx, group := sp.group, coord, party : Draft }
  match raceWith x u k id g m s.shadow s with
  | (s, some e) => (s, .error (model 1 (e.bytes &&& m).toNat e.word e.coord))
  | (s, none) =>
    match if u.read then readsAhead s x k id g m else [] with
    | (b, e) :: rest =>
      (s, .error (model 2 (((b, e) :: rest).foldl (fun n y => n + 2 ^ y.1) 0) e.word e.coord))
    | [] =>
      let e := shadowOf s x u k id g m
      let kept := s.shadow.filter fun o => !e.covers o
      if s.shadowLimit x.part ≤ (kept.filter fun o => o.part == x.part).length then (s, .error (model 4 m.toNat 0 0))
      else ({ s with shadow := e :: kept }, .ok ())

/-- Tests and records an access in its granules, one after the other. -/
def testGranules (x : Accessor) (u : Use) (sp : Spot) (k : LocKind) (id base : Nat) :
    List (Nat × BitVec 64) → State → Got Unit
  | [], s => (s, .ok ())
  | gm :: gs, s =>
    match testGranule x u sp k id base gm s with
    | (s, .error d) => (s, .error d)
    | (s, .ok ()) => testGranules x u sp k id base gs s

/-- The dependence-graph node among some bytes that is held or running (R240): rank of its braid, and its tracker
while it runs. -/
def nodeHit (s : State) (uid a n : Nat) : Option (Nat × Nat) :=
  match s.team? uid with
  | none => none
  | some t =>
    let hit := fun (off : Nat) => off < a + n && a < off + 64
    match t.nodes.find? fun d => hit d.off with
    | some d => some (d.rank, 0)
    | none => (List.range t.trackers.length).findSome? fun k =>
      match t.trackers.getD k none with
      | some c => if c.node.any hit then some (c.rank, k) else none
      | none => none

/-- PARTY of the engine's synchronising access to a node (R240, R293, R328). -/
def nodeParty (s : State) (uid rank trk : Nat) : Nat :=
  logicalId (((s.team? uid).map (·.index)).getD 0) rank % 2 ^ 37 + 2 ^ 37 * trk + 2 ^ 40 + 2 ^ 41 + 2 ^ 42

/-- The braid holds its Hitch turn (R45). -/
def holdsTurn (s : State) (t : Team) (rank : Nat) : Bool :=
  match s.launchOf t with
  | some n => n.hitchHeld && n.hitchNow == logicalId t.index rank
  | none => false

/-- A write or atomic of a deterministic launch that needs a Hitch turn (R45, R230). -/
def needsTurn (s : State) (t : Team) (h : Handle) (u : Use) : Bool :=
  s.isDet t && u.write &&
    (if u.atomic then 3 ≤ h.space else h.space == 3 || h.space == 4 || (5 ≤ h.space && h.checked))

/-- The memory-model check of an access (R240, R45, R290); `turn` asks for the turn rule. -/
def checkModel (s : State) (t : Team) (x : Accessor) (u : Use) (sp : Spot) (turn : Bool) : Got Unit :=
  let fail := fun (d info : Nat) =>
    { cause := 3, detail := d, addr := sp.addr, info, handle := sp.hIdx, group := sp.group : Draft }
  let mask := ((granules sp.addr sp.n).headD (0, 0)).2.toNat
  let node : Option Nat := match sp.place with
    | .scratch uid a => if x.engine then none else (nodeHit s uid a sp.n).map fun r => nodeParty s uid r.1 r.2
    | _ => none
  if node.isSome then (s, .error { fail 5 mask with party := node.getD 0 })
  else if turn && needsTurn s t sp.h u && !holdsTurn s t x.rank then (s, .error (fail 3 mask))
  else
    match sp.place.loc with
    | some (k, id, a) =>
      if sp.covered then testGranules x u sp k id a (granules a sp.n) s else (s, .ok ())
    | none => (s, .ok ())

/-- Parity of scratchpad bytes as they are read (R363). -/
def probeScratch (s : State) (uid a n : Nat) : Got Unit :=
  let hit := fun (x : SoftError) => match x with
    | .parityScratch u w _ => u == uid && w * 8 < a + n && a < w * 8 + 8
    | _ => false
  let errs := s.soft.filterMap fun x => match x with
    | .parityScratch _ _ k => if hit x then some k else none
    | _ => none
  if errs.isEmpty then (s, .ok ())
  else if errs.any (3 < ·) then (s, .error { cause := 4, detail := 3, addr := a })
  else
    let part := ((s.team? uid).map (·.part)).getD 0
    ({ s with soft := s.soft.filter fun x => !hit x }.countParity part errs.length, .ok ())

/-- Parity of the vector registers of a lane's slice as its bytes are read (R56, R363). -/
def probeSlice (s : State) (part uid rank lane a n : Nat) : Got Unit :=
  let hit := fun (x : SoftError) => match x with
    | .parityReg u r l reg _ => u == uid && r == rank && l == lane && a < 0x400 && reg * 8 < a + n && a < reg * 8 + 8
    | _ => false
  let errs := s.soft.filterMap fun x => match x with
    | .parityReg _ _ _ _ k => if hit x then some k else none
    | _ => none
  if errs.isEmpty then (s, .ok ())
  else if errs.any (3 < ·) then (s, .error { cause := 4, detail := 3, addr := a })
  else ({ s with soft := s.soft.filter fun x => !hit x }.countParity part errs.length, .ok ())

/-- A slice's register that is written whole has good parity again (R363). -/
def healSlice (s : State) (uid rank lane a n : Nat) : State :=
  if s.soft.isEmpty then s
  else { s with soft := s.soft.filter fun x =>
      match x with
      | .parityReg u r l reg _ => !(u == uid && r == rank && l == lane && a < 0x400 && a ≤ reg * 8 && reg * 8 + 8 ≤ a + n)
      | _ => true }

/-- The ECC check of an access (R362, R363): a read of a poisoned line, or a write of a part of it. -/
def probe (s : State) (part : Nat) (u : Use) (sp : Spot) : Got Unit :=
  match sp.place with
  | .scratch uid a =>
    if u.read then
      match probeScratch s uid a sp.n with
      | (s, .error d) => (s, .error { d with addr := sp.addr, handle := sp.hIdx })
      | r => r
    else (s, .ok ())
  | .phys pa =>
    if u.read then
      match readPhys s part pa sp.n with
      | (s, .error d) => (s, .error { d with addr := sp.addr, handle := sp.hIdx })
      | (s, .ok _) => (s, .ok ())
    else
      match writePhys s pa (List.replicate sp.n 0) with
      | (_, .error d) => (s, .error { d with addr := sp.addr, handle := sp.hIdx })
      | (_, .ok _) => (s, .ok ())
  | _ => (s, .ok ())

/-! Reading and writing -/

/-- The copy of a line in a core's cache. -/
def State.copyOf (s : State) (core line : Nat) : Option (List Byte) :=
  ((tabGet [] s.copies core).find? fun e => e.1 == line).map (·.2)
def State.setCopy (s : State) (core line : Nat) (bs : List Byte) : State :=
  { s with copies := tabPut s.copies core (tabPut (tabGet [] s.copies core) line bs) }

/-- Physical bytes of one line as a core reads them (R287): at the ordering point, or from a copy
where the two differ and the implementation chooses it. -/
def readLine (s : State) (core pa n : Nat) (copies alloc : Bool) : State × List Byte :=
  let now := s.mem.read pa n
  if !copies then (s, now)
  else
    match s.copyOf core (pa / 64) with
    | none => (if alloc then s.setCopy core (pa / 64) (s.mem.read (pa / 64 * 64) 64) else s, now)
    | some c =>
      let old := (c.drop (pa % 64)).take n
      if old == now then (s, now)
      else
        let s' := { s with choices := s.choices + 1 }
        if Config.choice s.choices then (s', old)
        else (if alloc then s'.setCopy core (pa / 64) (s.mem.read (pa / 64 * 64) 64) else s', now)

/-- Physical bytes line by line. -/
def readLines (core : Nat) (copies alloc : Bool) : Nat → Nat → Nat → State → State × List Byte
  | 0, _, _, s => (s, [])
  | fuel + 1, pa, n, s =>
    if n == 0 then (s, [])
    else
      let k := min n (64 - pa % 64)
      let (s, bs) := readLine s core pa k copies alloc
      let (s, rest) := readLines core copies alloc fuel (pa + k) (n - k) s
      (s, bs ++ rest)

/-- A store updates the storing core's copies (R287). -/
def patchCopies (s : State) (core pa : Nat) (bs : List Byte) : State :=
  let mine := tabGet [] s.copies core
  if mine.isEmpty then s
  else
    { s with copies := tabPut s.copies core (mine.map fun e =>
        (e.1, e.2.mapIdx fun k b =>
          let a := e.1 * 64 + k
          if pa ≤ a && a < pa + bs.length then bs.getD (a - pa) b else b)) }

/-- CACHE and SPACE let the core hold copies (R115, R123, R287). -/
def Spot.cached (sp : Spot) : Bool := sp.h.space == 5 && sp.h.cache ≤ 1

/-- Reads the bytes of a checked access. `point` reads at the ordering point; the core's copies then take what was
read, so that no later read of the reader goes back to an older value (R285; log entry 93). -/
def readSpot (s : State) (core uid rank : Nat) (sp : Spot) (point alloc : Bool) : State × List Byte :=
  match sp.place with
  | .slice l a =>
    (s, match (s.team? uid).bind fun t => t.braids[rank]? with
        | some b => (List.range sp.n).map fun k => (b.lane l).sliceByte (a + k)
        | none => List.replicate sp.n 0)
  | .scratch u a =>
    (s, match s.team? u with
        | some t => t.scratch.read a sp.n
        | none => List.replicate sp.n 0)
  | .chip a => (s, s.chip.read a sp.n)
  | .phys pa =>
    let copies := sp.cached && !point
    let r := readLines core copies alloc (sp.n / 64 + 2) pa sp.n s
    (if copies then r.1 else patchCopies r.1 core pa r.2, r.2)
  | .peer _ _ _ => (s, List.replicate sp.n 0)

/-- Bytes of a range are written whole: their parity is good again (R363). -/
def healScratch (s : State) (uid a n : Nat) : State :=
  if s.soft.isEmpty then s
  else { s with soft := s.soft.filter fun x =>
      match x with
      | .parityScratch u w _ => !(u == uid && a ≤ w * 8 && w * 8 + 8 ≤ a + n)
      | _ => true }

/-- Stores bytes into physical memory and the storing core's copies. -/
def storePhys (s : State) (core pa : Nat) (bs : List Byte) : State :=
  patchCopies (writePhys s pa bs).1 core pa bs

/-- Stores the bytes of a checked access. -/
def writeSpot (s : State) (core uid rank : Nat) (sp : Spot) (bs : List Byte) : State :=
  match sp.place with
  | .slice l a =>
    (healSlice s uid rank l a bs.length).modLanes uid rank (BitVec.ofNat 32 (2 ^ l)) fun _ x =>
      (bs.zipIdx a).foldl (fun y b => y.putSlice b.2 b.1) x
  | .scratch u a => (healScratch s u a bs.length).modTeam u fun t => { t with scratch := t.scratch.write a bs }
  | .chip a => { s with chip := s.chip.write a bs }
  | .phys pa => storePhys s core pa bs
  | .peer _ _ _ => s

/-! The releases that travel with the bytes (R281) -/

/-- A release entry without the bytes from a to a + n - 1: at most two pieces. -/
def LocRelease.without (r : LocRelease) (a n : Nat) : List LocRelease :=
  if r.addr + r.len ≤ a || a + n ≤ r.addr then [r]
  else
    (if r.addr < a then [{ r with len := a - r.addr }] else [])
      ++ (if a + n < r.addr + r.len then
            [{ r with addr := a + n, len := r.addr + r.len - (a + n) }] else [])

/-- The entries of the location order that overlap the bytes from a to a + n - 1. -/
def LocRelease.overlaps (r : LocRelease) (k : LocKind) (id a n : Nat) : Bool :=
  r.kind == k && r.id == id && r.addr < a + n && a < r.addr + r.len

/-- The releases that a read of a place meets. -/
def relsAt (s : State) (p : Place) (n : Nat) : List Release :=
  match p.loc with
  | none => []
  | some (k, id, a) => s.locRels.flatMap fun r => if !r.old && r.overlaps k id a n then r.rels else []

/-- The releases that the bytes have carried at any time: an atomic passes all of them on (R281). -/
def relsEver (s : State) (p : Place) (n : Nat) : List Release :=
  match p.loc with
  | none => []
  | some (k, id, a) => s.locRels.flatMap fun r => if r.overlaps k id a n then r.rels else []

/-- A write of these bytes publishes releases: what they carried before is met by no read of the new value. -/
def publish (s : State) (p : Place) (n : Nat) (rels : List Release) : State :=
  match p.loc with
  | none => s
  | some (k, id, a) =>
    if s.locRels.isEmpty && rels.isEmpty then s
    else
      let past := s.locRels.flatMap fun r =>
        if r.overlaps k id a n then
          let lo := max a r.addr
          { r with addr := lo, len := min (a + n) (r.addr + r.len) - lo, old := true } :: r.without a n
        else [r]
      { s with locRels := if rels.isEmpty then past else { kind := k, id, addr := a, len := n, rels } :: past }

/-- As `publish`, where the write passes on all that the bytes ever carried. -/
def publishAll (s : State) (p : Place) (n : Nat) (own : List Release) : State :=
  match p.loc with
  | none => s
  | some (k, id, a) =>
    let rels := relsEver s p n ++ own
    let rest := s.locRels.flatMap fun r => if r.overlaps k id a n then r.without a n else [r]
    { s with locRels := if rels.isEmpty then rest else { kind := k, id, addr := a, len := n, rels } :: rest }

/-- What a write does to the releases of its bytes (R281): an atomic adds its own to those that went before it, any
other synchronising write replaces those a read meets, and a data write ends them. -/
def settleRels (s : State) (sp : Spot) (u : Use) (own : List Release) : State :=
  if !u.write then s
  else if u.atomic then publishAll s sp.place sp.n own
  else if u.sync then publish s sp.place sp.n own
  else publish s sp.place sp.n []

/-- A release of a lane at a scope: its own, and those of its earlier release fences. -/
def laneReleases (t : Team) (rank : Nat) (x : Lane) (own : Bool) (scope group : Nat) : List Release :=
  (if own then [mkRelease t rank x.vc scope group] else []) ++ x.fences

/-- Synchronising reads of some lanes meet releases, which a later acquire fence of the lanes may take (R281). -/
def State.meetAll (s : State) (t : Team) (rank : Nat) (m : Mask) (rels : List Release) : State :=
  if rels.isEmpty then s else s.modLanes t.uid rank m fun _ x => { x with seen := x.seen ++ rels }

/-- A lane reads bytes with a synchronising access: it meets their releases, and an acquire takes them at once. -/
def meetRels (s : State) (t : Team) (rank lane : Nat) (sp : Spot) (acq : Bool) : State :=
  let rels := relsAt s sp.place sp.n
  let m : Mask := BitVec.ofNat 32 (2 ^ lane)
  let s := s.meetAll t rank m rels
  if acq then s.acquire t rank m rels sp.h.scope sp.h.wgroup else s

/-! The accesses of an instruction's lanes -/

/-- The highest active lane, whose clocks hold those of every lower active lane (R280): an instruction that acts once
for its issue acts after all of them. -/
def Env.issuer (e : Env) : Nat := ((Mask.lanes e.act).getLast?).getD (Mask.lowest e.part)

/-- The accessor of one lane's access: the thread is the party (R279). -/
def Env.laneAccessor (e : Env) (l : Nat) : Accessor :=
  { party := laneParty e.t.uid e.rank l, self := remoteParty e.t.uid e.rank l, vc := (e.b.lane l).vc, uid := e.t.uid
    rank := e.rank, launch := e.t.launch, index := e.t.index, core := e.t.core, since := e.t.since
    coord := e.s.coordOf e.t, engine := false, remote := false, trk := 0
    keys := teamKeys e.s e.t.launch e.t.index, under := none, part := e.t.part }

/-- The accessor of an access that an instruction makes once for its issue. -/
def Env.accessor (e : Env) : Accessor := e.laneAccessor e.issuer

/-- One lane's access of an instruction. -/
structure LaneReq where
  lane : Nat
  off : Int
deriving DecidableEq, Repr

/-- An access of a replayed team beyond its own state: only its bound is checked, since its bytes
come from the log and its effects are not performed (R390). -/
def replaySpot (h : Handle) (hIdx : Nat) (off : Int) (n : Nat) : Except Draft Spot :=
  if off < 0 || Int.ofNat h.bound < off + Int.ofNat n then .error (boundDraft h hIdx off)
  else .ok { place := .phys 0, addr := h.base + off.toNat, h, hIdx, group := 0, n }

/-- A lane's request that has been sent from an instruction. -/
def Braid.pending (b : Braid) (pc : Pc) (lane : Nat) : Option PendX :=
  b.pendX.find? fun x => x.pc == pc && x.lane == lane

/-- The team as a lane's access finds it: one that another device has been sent before a DETACH of the braid is no access
after it (R215). -/
def Env.teamOf (e : Env) (lane : Nat) : Team :=
  if (e.b.pending e.pc lane).isSome then { e.t with detached := [] } else e.t

/-- The ECC and parity checks of a lane's access. -/
def probeLane (e : Env) (u : Use) (sp : Spot) (s : State) : Got Unit :=
  match sp.place with
  | .slice l a =>
    if u.read then
      match probeSlice s e.t.part e.t.uid e.rank l a sp.n with
      | (s, .error d) => (s, .error { d with handle := sp.hIdx })
      | r => r
    else (s, .ok ())
  | _ => probe s e.t.part u sp

/-- The memory-model, ECC and parity checks of a lane's access, at the page that it lies in. -/
def checkSpot (e : Env) (u : Use) (lane : Nat) (sp : Spot) (s : State) : Got Spot :=
  let at_ := fun (d : Draft) => { d with shift := sp.shift }
  match checkModel s e.t (e.laneAccessor lane) u sp true with
  | (s, .error d) => (s, .error (at_ d))
  | (s, .ok ()) =>
    match probeLane e u sp s with
    | (s, .error d) => (s, .error (at_ d))
    | (s, .ok ()) => (s, .ok sp)

/-- Checks the accesses of an instruction, every one before any is performed (R225, R290, R359). -/
def checkLanes (e : Env) (h : Handle) (hIdx n : Nat) (u : Use) :
    List LaneReq → State → State × List (Nat × Except Draft Spot)
  | [], s => (s, [])
  | r :: rs, s =>
    let one : Got Spot :=
      if e.t.replay.isSome && 3 ≤ h.space then (s, replaySpot h hIdx r.off n)
      else
      match resolve s (e.teamOf r.lane) h hIdx r.lane r.off n u.kind with
      | (s, .error d) => (s, .error d)
      | (s, .ok sp) => checkSpot e u r.lane sp s
    let (s, rest) := checkLanes e h hIdx n u rs one.1
    (s, (r.lane, one.2) :: rest)

/-- The lanes that fail, each with its fault. -/
def laneFaults {α : Type} (rs : List (Nat × Except Draft α)) : List (Nat × Draft) :=
  rs.filterMap fun r => match r.2 with
    | .error d => some (r.1, d)
    | .ok _ => none

/-- The record of the lanes that fail (R359): the lowest lane's cause, and every lane that failed
with the same cause, detail and page. -/
def laneFault {α : Type} (rs : List (Nat × Except Draft α)) : Option Draft :=
  let bad := laneFaults rs
  match bad with
  | [] => none
  | (_, d) :: _ =>
    some { d with lanes := maskOf ((bad.filter fun b =>
      b.2.cause == d.cause && b.2.detail == d.detail && d.samePage b.2).map (·.1)) }

/-- The spots of accesses that all passed. -/
def laneSpots (rs : List (Nat × Except Draft Spot)) : List (Nat × Spot) :=
  rs.filterMap fun r => match r.2 with
    | .error _ => none
    | .ok sp => some (r.1, sp)

/-- The immediate of the memory class (R223). -/
def memImm (f : Fields) : Int := if f.len == 0 then signed 7 f.b.toNat else signed 32 f.e.toNat

/-- The offset of a lane (R117). -/
def Env.offset (e : Env) (imm : Int) (scale l : Nat) : Int :=
  signed 64 (e.src (e.f.x.getLsbD 7) e.f.a l).toNat + imm * Int.ofNat scale

/-- A malformed or unusable handle (R113, R116, R225). -/
def handleTrap (e : Env) (hIdx opnd : Nat) : Trap :=
  { cause := 4, opnd, lanes := e.act, value := hIdx }

/-- The misaligned trap of the lanes whose offsets break a multiple (R117). -/
def misalignTrap (offs : List LaneReq) (n : Nat) : Option Trap :=
  let bad := offs.filter fun r => r.off % Int.ofNat n != 0
  if bad.isEmpty then none else some { cause := 7, lanes := maskOf (bad.map (·.lane)) }

/-- Reads the handle of a lane-wise instruction and makes the checks that precede its accesses, in
the order of R146: entry and what the instruction asks of it, another operand's condition of cause 0x04, tags, alignment, and the entry's own
translation last. -/
def withHandleIf (e : Env) (fit : Handle → Bool) (early : Option Trap) (checks : List Check) (offs : List LaneReq)
    (align : Nat) (k : State → Handle → Act) : Act :=
  let hIdx := e.f.h.toNat
  let later := fun (s : State) (go : Act) =>
    match early.orElse fun _ => (tagTrap e checks).orElse fun _ => misalignTrap offs align with
    | some x => .trapAt s x
    | none => go
  match readHandle e.s e.t hIdx with
  | (s, .error d) => later s (.fault s { d with lanes := e.act })
  | (s, .ok none) => .trapAt s (handleTrap e hIdx 5)
  | (s, .ok (some h)) =>
    if handleBad s e.t h || !fit h then .trapAt s (handleTrap e hIdx 5)
    else later s (k s h)

/-- As `withHandleIf`, where the instruction asks for the SPACE alone. -/
def withHandleFirst (e : Env) (spaces : List Nat) (early : Option Trap) (checks : List Check) (offs : List LaneReq)
    (align : Nat) (k : State → Handle → Act) : Act :=
  withHandleIf e (fun h => spaces.contains h.space) early checks offs align k

/-- As `withHandleFirst`, where no other operand can be illegal. -/
def withHandle (e : Env) (spaces : List Nat) (checks : List Check) (offs : List LaneReq) (align : Nat)
    (k : State → Handle → Act) : Act :=
  withHandleFirst e spaces none checks offs align k

/-- Makes the checks of an instruction's accesses and goes on with their spots. -/
def withSpots (e : Env) (s : State) (h : Handle) (n : Nat) (u : Use) (offs : List LaneReq)
    (k : State → List (Nat × Spot) → Act) : Act :=
  match checkLanes e h e.f.h.toNat n u offs s with
  | (s', rs) =>
    match laneFault rs with
    | some d => .fault { shareWalks s s' e.t.part ((laneFaults rs).map (·.2)) with shadow := s.shadow } d
    | none => k s' (laneSpots rs)

end Sys2Proof.Machine
end

