-- ==== Sys2Proof/Machine/Phase.lean ====
section
/-! DEFINITION. The objects that parties meet at: phase objects (R199-R203), barriers (R196-R198),
tickets (R204-R206) and the Hitch (R45, R207). -/

namespace Sys2Proof.Machine

/-! Phase objects -/

/-- A phase object (R199). -/
structure PhaseObj where
  init : Nat
  next : Int
  pend : Int
  rsv : Nat
  broken : Bool
  ph : Nat
deriving DecidableEq, Repr

def parsePhase (n : Nat) : PhaseObj :=
  { init := bitsOf n 127 96, next := signed 32 (bitsOf n 95 64), pend := signed 32 (bitsOf n 63 32)
    rsv := bitsOf n 31 17, broken := bitAt n 16, ph := bitsOf n 15 0 }

/-- The 16 bytes of a phase object. -/
def PhaseObj.num (o : PhaseObj) : Nat :=
  o.ph + 2 ^ 16 * bit o.broken + 2 ^ 17 * o.rsv + 2 ^ 32 * wrapInt 32 o.pend + 2 ^ 64 * wrapInt 32 o.next
    + 2 ^ 96 * o.init

/-- One turn of the loop of R201: a phase with nothing owed ends. -/
def PhaseObj.turn (o : PhaseObj) : PhaseObj :=
  if o.pend == 0 && !o.broken then
    { o with ph := (o.ph + 1) % 65536, pend := Int.ofNat o.init + o.next, next := 0 }
  else o

/-- The value fits a signed 32-bit count. -/
def fits32 (v : Int) : Bool := -2147483648 ≤ v && v < 2147483648

/-- Distance of a phase from the current one (R201, R202). -/
def PhaseObj.ahead (o : PhaseObj) (b : Nat) : Nat := (b % 65536 + 65536 - o.ph) % 65536

/-- phase_update of R201: the object after an arrival for phase b, or the detail of the refusal. INIT
is at least 1, so the loop ends after two turns at most. -/
def phaseUpdate (o : PhaseObj) (b : Nat) (add sub : Int) : Except Nat PhaseObj :=
  let d := o.ahead b
  if 2 ≤ d then .error (if d < 0x8000 then 1 else 2)
  else if o.broken then .ok o
  else if o.init == 0 || o.rsv != 0 then .ok { o with broken := true }
  else
    let o := if d == 0 then { o with pend := o.pend + add - sub } else { o with next := o.next + add - sub }
    let o := o.turn.turn
    .ok (if o.pend < 0 || !fits32 o.pend || !fits32 o.next then { o with broken := true } else o)

/-- The phase object at a checked place (R200), and a new one stored there. -/
def phaseAt (s : State) (sp : Spot) : PhaseObj := parsePhase (leNat (readSpot s 0 0 0 sp true false).2)
def setPhase (s : State) (sp : Spot) (o : PhaseObj) : State := writeSpot s 0 0 0 sp (leBytes 16 o.num)

/-- The release of an arrival counted for phase b or an earlier one (R281). -/
def phasePassed (b : Nat) (r : Release) : Bool := (b % 65536 + 65536 - r.phase) % 65536 < 0x8000

/-- An arrival or credit at a place (R201, R236): the object updated and the release kept with it. -/
def arrivePhase (s : State) (sp : Spot) (b : Nat) (add sub : Int) (rels : List Release) :
    Except Nat State :=
  match phaseUpdate (phaseAt s sp) b add sub with
  | .error d => .error d
  | .ok o =>
    .ok (publish (setPhase s sp o) sp.place 16
      (relsAt s sp.place 16 ++ rels.map fun r => { r with phase := b % 65536 }))

/-- Sets BROKEN (R203, R236, R238); bytes with bad parity stay bad, since they are not written anew (R363). -/
def breakPhase (s : State) (sp : Spot) : State :=
  { setPhase s sp { phaseAt s sp with broken := true } with soft := s.soft }

/-- The phase object of a handle entry at an offset, where it can be reached without translation
(R200). -/
def phaseSpot (s : State) (t : Team) (h : Handle) (hIdx : Nat) (off : Int) : Except Draft Spot :=
  (resolve s t h hIdx 0 off 16 .write).2

/-! Barriers -/

/-- The lane counts as arrived in a phase of the team barrier, or of a group's barrier (R196). -/
def Lane.inTeam (x : Lane) (phase : Nat) : Bool := !x.live || x.arrTeam == some phase
def Lane.lastGroup (x : Lane) (g : Nat) : Option Nat := (x.arrGroup.find? fun a => a.1 == g).map (·.2)
def Lane.inGroup (x : Lane) (g phase : Nat) : Bool := !x.live || x.lastGroup g == some phase

/-- Every lane of a team satisfies a test; some lane does. -/
def Team.allLane (t : Team) (p : Lane → Bool) : Bool := t.braids.all fun b => b.lanes.all p
def Team.anyLane (t : Team) (p : Lane → Bool) : Bool := t.braids.any fun b => b.lanes.any p

def State.modGroup (s : State) (launch g : Nat) (k : Group → Group) : State :=
  s.modLaunch launch fun n => { n with groups := n.groups.map fun x => if x.index == g then k x else x }

/-- The bound team of an index of a launch. -/
def State.member? (s : State) (launch index : Nat) : Option Team :=
  s.teams.find? fun t => t.launch == some launch && t.index == index

/-- The team barrier's phase completes when its team has arrived (R196); a pending carve-out comes
first (R65). -/
def settleTeamBarrier (s : State) (uid : Nat) : State :=
  match s.team? uid with
  | none => s
  | some t =>
    if (t.anyLane fun x => x.arrTeam == some t.barPhase) && t.allLane (·.inTeam t.barPhase) then
      s.modTeam uid fun t =>
        if t.carve.isSome then { t with carveDue := true }
        else { t with barPhase := t.barPhase + 1
                      barRel := t.barRel.filter fun r => t.barPhase ≤ r.1 + 1 }
    else s

/-- A group barrier's phase completes when every member still in the group has arrived (R196). A member whose
last lane exits without any arrival is judged by its exit first (R198); once the exit is held, it counts as
arrived. -/
def settleGroupBarrier (s : State) (launch g : Nat) : State :=
  match (s.launch? launch).bind fun n => n.groups.find? fun x => x.index == g with
  | none => s
  | some x =>
    let stay := x.members.filter fun m => !x.bar.gone.contains m
    let arrived := stay.all fun m =>
      match s.member? launch m with
      | some t => (t.exited || x.bar.took.contains m || t.anyLane (·.live)) && t.allLane (·.inGroup g x.bar.phase)
      | none => false
    if !x.b || x.bar.broken || x.bar.took.isEmpty || !arrived then s
    else
      let carving := stay.filter fun m =>
        match s.member? launch m with
        | some t => t.carve.isSome
        | none => false
      if carving.isEmpty then
        s.modGroup launch g fun x =>
          { x with bar := { x.bar with
              phase := x.bar.phase + 1, took := []
              rels := x.bar.rels.filter fun r => x.bar.phase ≤ r.1 + 1 } }
      else
        { s with teams := s.teams.map fun t =>
            if t.launch == some launch && carving.contains t.index then { t with carveDue := true } else t }

/-- Every barrier that a team counts in (R196). -/
def settleBarriers (s : State) (uid : Nat) : State :=
  let s := settleTeamBarrier s uid
  match s.team? uid with
  | none => s
  | some t =>
    match s.launchOf t with
    | none => s
    | some n => (groupsOf n t.index).foldl (fun s g => settleGroupBarrier s n.num g.index) s

/-- A member has arrived in the current phase and taken part in it (R198). -/
def Group.arrived (s : State) (launch : Nat) (g : Group) (index : Nat) : Bool :=
  g.bar.took.contains index &&
    match s.member? launch index with
    | some t => t.allLane (·.inGroup g.index g.bar.phase)
    | none => false

/-- A member's exit completes, or it is killed, as the barrier unit sees it (R198). -/
def leaveBarrier (s : State) (launch g index : Nat) (killed : Bool) : State :=
  match (s.launch? launch).bind fun n => n.groups.find? fun x => x.index == g with
  | none => s
  | some x =>
    if !x.b then s
    else
      let others := x.members.any fun m => m != index && !x.bar.gone.contains m && x.arrived s launch m
      let part := if killed then x.arrived s launch index else x.bar.took.contains index
      if others && !part then s.modGroup launch g fun x => { x with bar := { x.bar with broken := true } }
      else
        settleGroupBarrier
          (s.modGroup launch g fun x => { x with bar := { x.bar with gone := insertNat index x.bar.gone } })
          launch g

/-! Tickets -/

/-- The run of advance over passed ranks (R205). -/
def ticketRun : Nat → TicketSeq → TicketSeq
  | 0, q => q
  | k + 1, q =>
    if q.pass.contains q.now then
      ticketRun k { q with poison := q.poison || q.poisonAt.contains q.now, now := q.now + 1 }
    else q

/-- advance of R205. -/
def TicketSeq.advance (q : TicketSeq) : TicketSeq :=
  ticketRun q.pass.length { q with now := q.now + 1, poison := q.poison || q.poisonAt.contains q.now }

/-- take of R205; none where the ticket has been passed already. -/
def TicketSeq.take (q : TicketSeq) (r : Nat) (poisoned : Bool) : Option TicketSeq :=
  if q.pass.contains r || r < q.now then none
  else
    let q := if poisoned then { q with poisonAt := insertNat r q.poisonAt } else q
    if q.now < r then some { q with pass := insertNat r q.pass } else some q.advance

/-- The device passes every ticket that a team still owes in a group (R206). -/
def passTickets (s : State) (launch : Nat) (g : Group) (index : Nat) (killed : Bool)
    (rels : List Release) : State :=
  let r := g.rank 0 index
  s.modGroup launch g.index fun x =>
    { x with tickets := x.tickets.map fun q =>
        match q.take r killed with
        | none => q
        | some q => if killed then q
                    else { q with rels := q.rels ++ rels.map fun k => { k with group := g.index, phase := r } } }

/-! The Hitch -/

/-- The logical identifier after another one in the launch (R21, R45). -/
def Launch.nextId (n : Launch) (id : Nat) : Nat :=
  if id % 32 + 1 < n.braids then id + 1 else (id / 32 + 1) * 32

/-- The turns passed in advance that come next. -/
def Launch.hitchRun : Nat → Launch → Launch
  | 0, n => n
  | k + 1, n =>
    if n.hitchPassed.contains n.hitchNow then
      Launch.hitchRun k { n with hitchPoison := n.hitchPoison || n.hitchPoisonAt.contains n.hitchNow
                                 hitchNow := n.nextId n.hitchNow }
    else n

/-- The turn of a braid is over, or was passed in advance (R207). -/
def Launch.turnSpent (n : Launch) (id : Nat) : Bool := id < n.hitchNow || n.hitchPassed.contains id

/-- Ends a braid's turn, or marks it spent before it comes (R45, R207). -/
def Launch.endTurn (n : Launch) (id : Nat) (poisoned : Bool) (rels : List Release) : Launch :=
  if n.turnSpent id then n
  else
    let own := rels.map fun (r : Release) => { r with phase := id }
    let n := { n with hitchRel := n.hitchRel ++ own }
    if id == n.hitchNow then
      Launch.hitchRun n.hitchPassed.length
        { n with hitchHeld := false, hitchNow := n.nextId id, hitchPoison := n.hitchPoison || poisoned }
    else
      { n with hitchPassed := insertNat id n.hitchPassed
               hitchPoisonAt := if poisoned then insertNat id n.hitchPoisonAt else n.hitchPoisonAt }

end Sys2Proof.Machine
end

