-- ==== Sys2Proof/Machine/Retire.lean ====
section
/-! DEFINITION. The completion record (R39-R42), footprints (R51, R52), and a team's way from its exit to
its retirement (R38, R40). -/

namespace Sys2Proof.Machine

/-! Footprints -/

/-- Granules of a braid block, and of a team's footprint (R51, R52). -/
def blockGran (vblk : Nat) : Nat := (8 + 2 * (vblk + 1) + 3) / 4
def footprint (braids vblk scr : Nat) : Nat := braids * blockGran vblk + 1 + scr

/-- A team's footprint stands from a granule on (R51, R335): the team area, the braid blocks in ascending rank, each
with its base register (R53), and the scratchpad. -/
def Team.placed (t : Team) (base : Nat) : Team :=
  { t with base, braids := t.braids.mapIdx fun r b => { b with base := base + 1 + r * blockGran t.vblk } }

/-- The granules that a team holds on its core: its whole footprint, or its window parts in held exit
(R35, R51). -/
def Team.gran (t : Team) : Nat :=
  match t.status with
  | .saved => 0
  | _ => if t.braids.isEmpty then t.scrGran else footprint t.braids.length t.vblk t.scrGran

/-- The team occupies its core: every state but saved (R32). -/
def Team.onCore (t : Team) (core : Nat) : Bool := t.core == core && t.status != .saved

/-! Admission units -/

/-- The teams linked to a set of teams by one shared group (R30). -/
def linkOnce (n : Launch) (xs : List Nat) : List Nat :=
  (n.groups.filter fun g => (g.b || g.w) && g.members.any xs.contains).foldl
    (fun ys g => g.members.foldl (fun ys m => insertNat m ys) ys) xs

/-- The admission unit of a team on this device (R30), ascending. -/
def linkAll : Nat → Launch → List Nat → List Nat
  | 0, _, xs => xs
  | k + 1, n, xs => linkAll k n (linkOnce n xs)
def unitOf (n : Launch) (index : Nat) : List Nat := linkAll n.groups.length n [index]

/-! The completion record -/

/-- Teams of a launch (R21). -/
def Launch.grid (n : Launch) : Nat := n.gridX * n.gridY * n.gridZ

/-- A launch has had a team bound and has not retired, failed or been killed (R342). -/
def Launch.resident (n : Launch) : Bool := n.phase == .admitted && 1 ≤ n.st

/-- Word 2 of the record (R39). -/
def Launch.stateWord (n : Launch) (cause : Nat) : Nat := n.st + 256 * cause + 65536 * bit n.poison

/-- The releases that the words of a record carry (R41, R281). -/
def Launch.prefixRels (n : Launch) : List Release := if n.grid ≤ n.prefixN then n.exitRel else []
def Launch.stateRels (n : Launch) : List Release :=
  if 3 ≤ n.st then n.trigRel ++ n.exitRel else if n.st == 2 then n.trigRel else []

/-- Writes a completion record (R39): four single-copy stores of 8 bytes, each with its release. A record
that cannot be reached is not written. -/
def writeRecord (s : State) (n : Launch) (cause : Nat) : State :=
  if n.doneRec == 0 then s
  else
    match translate s n.part n.ctx n.doneRec .write with
    | (s, .error _) => s
    | (s, .ok pa) =>
      let words := [n.prefixN, n.triggered, n.stateWord cause, s.time]
      match writePhys s pa (words.flatMap (leBytes 8)) with
      | (s, .error _) => s
      | (s, .ok ()) =>
        let put := fun (s : State) (k : Nat) (r : List Release) => publish s (.phys (pa + 8 * k)) 8 r
        put (put (put (put s 0 n.prefixRels) 1 n.stateRels) 2 n.stateRels) 3 []

/-- Writes the record where a launch has changed it. -/
def recordIf (s : State) (old : Launch) : State :=
  match s.launch? old.num with
  | none => s
  | some n =>
    if n.prefixN == old.prefixN && n.triggered == old.triggered && n.st == old.st && n.poison == old.poison then s
    else writeRecord s n 0

/-- Counts a team in TRIGGERED once (R40, R41). -/
def Launch.count (n : Launch) (index : Nat) : Launch :=
  if index < n.prefixN || n.counted.contains index then n
  else { n with counted := insertNat index n.counted, triggered := n.triggered + 1 }

/-- A team's exit is recorded: its mark, and its count. -/
def Launch.mark (n : Launch) (index : Nat) : Launch :=
  { n.count index with marks := insertNat index n.marks }

/-- PREFIX moves over the marked entries that directly follow it (R40). -/
def Launch.advance : Nat → Launch → Launch
  | 0, n => n
  | k + 1, n =>
    if n.marks.contains n.prefixN then
      Launch.advance k
        { n with marks := n.marks.filter (· != n.prefixN), counted := n.counted.filter (· != n.prefixN)
                 prefixN := n.prefixN + 1 }
    else n

/-- STATE after TRIGGERED or PREFIX has moved (R41, R42). -/
def Launch.settle (n : Launch) : Launch :=
  if 3 ≤ n.st then n
  else if n.grid ≤ n.prefixN then { n with st := if n.killed then 5 else 3, phase := .ended }
  else if n.st < 2 && n.grid ≤ n.triggered then { n with st := 2 }
  else n

/-- The team's record leaves the machine with what belonged to it alone. -/
def removeTeam (s : State) (uid : Nat) : State :=
  let own := fun (k : LocKind) => k == .scratch || k == .tile || k == .slot || k == .node
  { s with
    teams := s.teams.filter fun t => t.uid != uid
    fetched := s.fetched.filter fun x => x.1 != 2 * uid + 1
    shadow := s.shadow.filter fun e => !(own e.kind && e.id == uid)
    locRels := s.locRels.filter fun r => !(own r.kind && r.id == uid) }

/-- A gang's record once the share here is over. -/
def GangState.anew (g : GangState) : GangState :=
  { g with pausing := false, validated := [], paused := [], idem := [], ready := [], stopping := false
           failed := false, early := [] }

/-- What has been reported for the gang's next share here, told again (R346). -/
def GangState.again (part : Nat) (g : GangState) : List Instr :=
  g.early.map fun v => .validated { part, gang := g.gang, src := v.1, count := v.2, idem := false }

/-- No other launch of the partition that is not over holds a share of the gang. -/
def lastOfGang (s : State) (n : Launch) (gang : Word) : Bool :=
  !(s.launches.any fun m => m.num != n.num && m.part == n.part && m.st < 3 && m.groups.any fun g => g.span && g.gang == gang)

/-- What a launch that is over leaves behind it: its stream leaves the table (R24), the detector forgets
it (R289), parked data that no entry can collect is discarded (R307), messages that no entry will take go, and its
gangs begin anew with what has been reported for the next share (R346). -/
def closeLaunch (s : State) (num : Nat) : State :=
  match s.launch? num with
  | none => s
  | some n =>
    if n.st < 3 then s
    else
      let ours := fun (g : Word) => g != 0 && lastOfGang s n g && n.groups.any fun x => x.span && x.gang == g
      let news := ((s.part? n.part).map fun p => (p.gangs.filter fun g => ours g.gang).flatMap (GangState.again p.num)).getD []
      { s with inputs := s.inputs ++ news
               shadow := s.shadow.filter fun e => e.launch != some num && e.under != some num
               fetched := s.fetched.filter fun x => x.1 != 2 * num }.modPart n.part fun p =>
        { p with
          streams := p.streams.filter fun x => x.launch != num
          parked := p.parked.filter fun x => s.teams.any fun t => t.uid == x.uid && t.launch != some num
          rtr := p.rtr.filter fun m => if m.gang == 0 then m.launch != num else !ours m.gang
          head := p.head.filter fun h => h.1 != num
          gangs := p.gangs.map fun (g : GangState) => if ours g.gang then GangState.anew g else g }

/-- Records the teams that waited beyond the reorder window (R40). -/
def recordLate (num : Nat) : Nat → State → State
  | 0, s => s
  | fuel + 1, s =>
    match s.launch? num with
    | none => s
    | some n =>
      let n := n.advance (n.marks.length)
      let s := s.modLaunch num fun _ => n
      match s.teams.find? fun t =>
          t.launch == some num && t.status == .retiring && t.index < n.prefixN + 256 with
      | none => s
      | some t => recordLate num fuel (removeTeam (s.modLaunch num (·.mark t.index)) t.uid)

/-- PREFIX and TRIGGERED of a launch killed as a whole (R42): every team counts but those whose exit is complete
and not recorded yet. -/
def settleKilled (s : State) (old : Launch) : State :=
  match s.launch? old.num with
  | none => s
  | some cur =>
    let left := s.teams.filter fun t => t.launch == some old.num
    let p := ((left.filter fun t => t.status == .exiting).map (·.index)).foldl min old.grid
    let gone := left.filter fun t => t.status == .retiring && t.index < p + 256
    let s := gone.foldl (fun s t => removeTeam s t.uid) s
    let rest := left.filter fun t => !gone.contains t
    let n := { cur with
      prefixN := max cur.prefixN p, poison := true, marks := [], killed := true
      triggered := old.grid - (rest.filter fun (t : Team) => !t.triggered).length
      counted := (rest.filter fun (t : Team) => t.triggered).map fun (t : Team) => t.index }
    closeLaunch (recordIf (s.modLaunch old.num fun _ => n.settle) old) old.num

/-- Brings a launch up to date after marks or counts: PREFIX, STATE, the record and what ends with it. -/
def settleLaunch (s : State) (old : Launch) : State :=
  if old.killed then settleKilled s old
  else
  let s := recordLate old.num (s.teams.length + 1) s
  closeLaunch (recordIf (s.modLaunch old.num Launch.settle) old) old.num

/-- No command of the team names its tiles and slots any more (R38). -/
def Team.idleReleased (t : Team) : Team := { t with tiles := [], tileTags := [], phTiles := [], slots := [] }

/-- A team's exit is complete and nothing of it runs: it is marked, or it waits for the reorder window
(R40), without the tiles and operand slots, which no command names any more (R38); one whose exit was held keeps nothing
of its store either (R35). A supervisor team stays bound until Gazebo releases it (R324). -/
def markTeam (s : State) (uid : Nat) : State :=
  match s.team? uid with
  | none => s
  | some t =>
    match s.launchOf t with
    | none => s.modTeam uid fun t => { t.idleReleased with status := .retiring }
    | some n =>
      if n.prefixN + 256 ≤ t.index then
        s.modTeam uid fun t =>
          let t := t.idleReleased
          if t.braids.isEmpty then { t with status := .retiring, scratch := [], scrGran := 0 }
          else { t with status := .retiring }
      else settleLaunch (removeTeam (s.modLaunch n.num (·.mark t.index)) uid) n

/-- Tiles and slots that no unfinished command names are released (R35, R38). -/
def Team.releaseIdle (t : Team) (tile slot : Instr → Bool) : Team :=
  let busy := fun (p : Instr → Bool) => t.trackers.any fun o => o.any fun c => p c.inst
  let t := if busy tile then t else { t with tiles := [], tileTags := [], phTiles := [] }
  if busy slot then t else { t with slots := [] }

/-- Granules of the window parts of a team (R35). -/
def windowGran (s : State) (t : Team) : Nat :=
  match s.launchOf t with
  | none => 0
  | some n => (groupsOf n t.index).foldl (fun m g => if g.w then max m g.winGran else m) 0

/-- A held team keeps only the window parts of its scratchpad once no command of it runs (R35). -/
def Team.keepWindow (t : Team) (gran : Nat) : Team :=
  if t.trackers.all (·.isNone) then
    { t with scrGran := gran, scratch := t.scratch.clear (4096 * gran) (4096 * t.scrGran) }
  else t

/-- The commands and the fired work entries of a team have ended. -/
def Team.quiet (t : Team) : Bool := t.trackers.all (·.isNone) && t.entries.isEmpty

/-- A command or a work entry of a team whose braids have exited has ended (R35, R38). -/
def settleExit (s : State) (uid : Nat) (tile slot : Instr → Bool) : State :=
  match s.team? uid with
  | none => s
  | some t =>
    match t.status with
    | .heldExit => s.modTeam uid fun u => (u.releaseIdle tile slot).keepWindow (windowGran s t)
    | .exiting =>
      if t.quiet then markTeam s uid else s.modTeam uid fun t => t.releaseIdle tile slot
    | _ => s

end Sys2Proof.Machine
end

