-- ==== Sys2Proof/Machine/Flags.lean ====
section
/-! DEFINITION. What stands in for flags on this machine: the predicates that comparisons and carries
write (R162, R164, R169), and the rounding and saturation controls that results read (R158, R161). -/

namespace Sys2Proof.Machine

/-- An integer condition of R164. -/
def intCond (code : Nat) (a b : Int) : Bool :=
  match code with
  | 0 => a == b
  | 1 => a != b
  | 2 => a < b
  | 3 => a ≤ b
  | 4 => b < a
  | _ => b ≤ a

/-- A floating-point condition of R169. -/
def floatCond (code : Nat) (a b : Val) : Bool :=
  let un := a.isNan || b.isNan
  match code with
  | 0 => a.eq b
  | 1 => !a.eq b
  | 2 => a.lt b
  | 3 => !un && (a.lt b || a.eq b)
  | 4 => b.lt a
  | 5 => !un && (b.lt a || a.eq b)
  | 6 => !un
  | _ => un

/-- Sum and carry out of ADDC (R162). -/
def addCarry (a b : Nat) (c : Bool) : Word × Bool :=
  (word (a + b + bit c), 2 ^ 64 ≤ a + b + bit c)

/-- Difference and borrow out of SUBB (R162). -/
def subBorrow (a b : Nat) (c : Bool) : Word × Bool :=
  (word (wrapInt 64 (Int.ofNat a - Int.ofNat b - Int.ofNat (bit c))), a < b + bit c)

/-- SAT of an integer result (R161): the nibble of F, none for the 64-bit formats. -/
def intSat (nmode : Word) (t : Tag) : Bool :=
  match nmodeNibble t with
  | some k => bitAt (elemOf 4 k nmode) 3
  | none => false

/-- The value of an integer element in its format's signedness (R91). -/
def intVal (t : Tag) (x : Nat) : Int := if isSigned t then signed (fmtWidth t) x else Int.ofNat x

/-- Rounding and saturation of a result (R158): OVR takes the code from X, and SAT stays with the
format's nibble; I64 and N64 behave as with SAT = 1. -/
def Env.rnd (e : Env) (t : Tag) : Rnd :=
  let r := nmodeRnd e.b.nmode t
  if e.f.x.getLsbD 3 then { r with code := e.f.x.toNat % 8 } else r

end Sys2Proof.Machine
end

