-- ==== Sys2Proof/Machine/Replay.lean ====
section
/-! DEFINITION. Locations in code (R378, R380), debug flags (R381), and the logging and replay of a
team (R388-R390): what a step logs, and where a replayed step takes its values from. -/

namespace Sys2Proof.Machine

/-- The location of a program counter (R380): ordinal and offset. -/
def locationOf (spt : List Nat) (pc : Nat) : Nat × Nat :=
  let below := spt.takeWhile (· ≤ pc)
  if below.isEmpty then (0xFFFFFFFF, pc) else (below.length - 1, pc - below.getLast?.getD 0)

def State.location (s : State) (t : Team) (pc : Nat) : Nat × Nat :=
  locationOf (((s.launchOf t).map (·.spt)).getD []) pc

/-- The debug slots of a partition whose dbgl names this completion record (R381). -/
def dbgSlots (p : Partition) (doneRec : Nat) : List Nat :=
  if doneRec == 0 then [] else (List.range 16).filter fun k => p.reg 0x0300 k == doneRec

/-- A flag of dbgf for the team's launch (R381): 0 STOP, 1 SAMPLE, 2 LOG. -/
def State.dbgFlag (s : State) (t : Team) (bit_ : Nat) : Bool :=
  match s.part? t.part with
  | none => false
  | some p => (dbgSlots p (s.doneRecOf t)).any fun k => bitAt (p.reg 0x0301 k) bit_

/-- The launch runs with LOG = 1. -/
def State.isLogged (s : State) (t : Team) : Bool := s.dbgFlag t 2

/-- Adds records to what the step logs. -/
def pushLog (s : State) (t : Team) (rs : List LogRec) : State :=
  if rs.isEmpty || !s.isLogged t then s
  else s.modTeam t.uid fun u => { u with logQueue := u.logQueue ++ rs }

/-- Logs one value per lane (R389). -/
def logValues (e : Env) (s : State) (handle : Nat) (lanes : List Nat) (v : Nat → Nat) : State :=
  pushLog s e.t (lanes.map fun l =>
    { type := 2, rank := e.rank, pc := e.pc, lanes := BitVec.ofNat 32 (2 ^ l), value := v l, handle, line := [] })

/-- Logs one value for all active lanes of an issue. -/
def logValue (e : Env) (s : State) (handle v : Nat) : State :=
  pushLog s e.t [{ type := 2, rank := e.rank, pc := e.pc, lanes := e.act, value := v, handle, line := [] }]

/-- A shared read (R389): SPACE 3 to 7, or scratchpad bytes in a window part. -/
def isShared (s : State) (t : Team) (sp : Spot) : Bool :=
  match sp.h.space with
  | 1 => false
  | 2 =>
    match s.launchOf t, sp.place with
    | some n, .scratch _ a => (groupsOf n t.index).any fun g => g.w && a < g.winGran * 4096
    | _, _ => false
  | _ => true

/-- Key of a logged line: handle and handle offset. -/
def lineKey (hIdx off : Nat) : Nat := hIdx * 2 ^ 64 + off

/-- The 64-byte lines of a place that an access reads, by handle offset, and their bytes now. -/
def lineBytes (s : State) (core : Nat) (sp : Spot) (line : Nat) : List Byte :=
  let base := sp.addr - sp.addr % 64
  let back := fun (p : Place) => match p with
    | .scratch u a => Place.scratch u (a - (sp.addr - base) + (line * 64 + sp.h.base - base))
    | .chip a => .chip (a - (sp.addr - base) + (line * 64 + sp.h.base - base))
    | .phys a => .phys (a - (sp.addr - base) + (line * 64 + sp.h.base - base))
    | p => p
  (readSpot s core 0 0 { sp with place := back sp.place, n := 64 } false false).2

/-- Logs the lines of a shared read that the interval has not logged as they now stand (R389). -/
def logLines (s : State) (t : Team) (rank : Nat) (pc : Pc) (lanes : Mask) (sp : Spot) : State :=
  let abroad := match sp.place with
    | .peer _ _ _ => true
    | _ => false
  if !s.isLogged t || !isShared s t sp || abroad then s
  else
    let off := sp.addr - sp.h.base
    let first := off / 64
    (List.range ((off + sp.n - 1) / 64 + 1 - first)).foldl (fun s k =>
      let line := first + k
      let bs := lineBytes s t.core sp line
      match s.team? t.uid with
      | none => s
      | some u =>
        if (u.logged.find? fun l => l.1 == lineKey sp.hIdx (64 * line)).any (fun l => l.2 == bs) then s
        else
          s.modTeam t.uid fun u =>
            { u with
              logged := (lineKey sp.hIdx (64 * line), bs) ::
                u.logged.filter fun l => l.1 != lineKey sp.hIdx (64 * line)
              logQueue := u.logQueue ++
                [{ type := 1, rank, pc, lanes, value := 64 * line, handle := sp.hIdx, line := bs }] }) s

/-- Logs the lines of a shared read whose bytes another device has answered (R389): the line as far as the interval has
read it. -/
def logAbroad (s : State) (t : Team) (rank : Nat) (pc : Pc) (lanes : Mask) (sp : Spot) (bs : List Byte) : State :=
  if !s.isLogged t || bs.isEmpty then s
  else
    let off := sp.addr - sp.h.base
    (List.range ((off + bs.length - 1) / 64 + 1 - off / 64)).foldl (fun s k =>
      let line := off / 64 + k
      let key := lineKey sp.hIdx (64 * line)
      match s.team? t.uid with
      | none => s
      | some u =>
        let kept := (u.logged.find? fun l => l.1 == key).map (·.2)
        let now := (kept.getD (List.replicate 64 0)).mapIdx fun i b =>
          if off ≤ 64 * line + i && 64 * line + i < off + bs.length then bs.getD (64 * line + i - off) b else b
        if kept == some now then s
        else s.modTeam t.uid fun u =>
          { u with
            logged := (key, now) :: u.logged.filter fun l => l.1 != key
            logQueue := u.logQueue ++ [{ type := 1, rank, pc, lanes, value := 64 * line, handle := sp.hIdx, line := now }] }) s

/-! Replay -/

/-- A record of the log as the replayed team meets it (R388). -/
structure LogEntry where
  type : Nat
  rank : Nat
  handle : Nat
  value : Nat
  lanes : Nat
  off : Nat
  ord : Nat
  team : Nat
  line : List Byte
  /-- Bytes of the record in the log. -/
  size : Nat
deriving DecidableEq, Repr

/-- The record at a position of the log, read under context 0 (R388, R390). -/
def logEntryAt (s : State) (part va : Nat) : Option LogEntry :=
  match readBytes s part 0 va 32 .read with
  | (_, .error _) => none
  | (_, .ok bs) =>
    let n := leNat bs
    let long := bitsOf n 3 0 == 1
    let line := if long then
        (match readBytes s part 0 (va + 32) 64 .read with
         | (_, .ok l) => l
         | (_, .error _) => [])
      else []
    some { type := bitsOf n 3 0, rank := bitsOf n 55 51, handle := bitsOf n 63 56
           value := bitsOf n 127 64, lanes := bitsOf n 159 128, off := bitsOf n 191 160
           ord := bitsOf n 223 192, team := bitsOf n 255 224, line, size := if long then 96 else 32 }

/-- The first record from a position on that is no interval start; `size` reaches past it. -/
def nextFrom (s : State) (part : Nat) : Nat → Nat → Nat → Option LogEntry
  | 0, _, _ => none
  | fuel + 1, va, skipped =>
    match logEntryAt s part va with
    | none => none
    | some x =>
      if x.type == 4 then nextFrom s part fuel (va + x.size) (skipped + x.size)
      else some { x with size := x.size + skipped }

/-- The next record of a replayed team; interval starts only mark the log. -/
def nextLog (s : State) (t : Team) : Option LogEntry :=
  t.replay.bind fun va => nextFrom s t.part 64 va 0

/-- How a step of a replayed team finds its record: it stands next, another braid's stands next, or
the log has another one for this braid. -/
inductive LogMatch where
  | found (x : LogEntry)
  | other
  | diverged
deriving DecidableEq, Repr

/-- The next record matches a type, braid, instruction and lanes (R390). -/
def matchLog (s : State) (t : Team) (type rank : Nat) (pc : Nat) (lanes : Mask) : LogMatch :=
  match nextLog s t with
  | none => .diverged
  | some x =>
    if x.rank != rank then .other
    else if x.type == type && (x.ord, x.off) == s.location t pc && x.lanes == lanes.toNat then .found x
    else .diverged

/-- The record is taken. -/
def takeLog (s : State) (t : Team) (x : LogEntry) : State :=
  s.modTeam t.uid fun u => { u with replay := u.replay.map (· + x.size) }

/-- Divergence (R390): the team stops under R384; DATA0 is the position, DATA1 the type expected. -/
def diverge (s : State) (t : Team) (type rank : Nat) (pc : Pc) (lanes : Mask) : State :=
  (s.modTeam t.uid fun u =>
    { u with stop := match u.stop with
              | .none => .debug 4 type rank pc lanes
              | r => r }).modBraid t.uid rank fun b => { b with stop := .safePoint }

/-- Takes one type 2 record per lane, in ascending lane order (R390). -/
def takeValues (e : Env) : List Mask → State → List Nat → State × Except Bool (List Nat)
  | [], s, acc => (s, .ok acc)
  | m :: ms, s, acc =>
    match s.team? e.t.uid with
    | none => (s, .ok acc)
    | some t =>
      match matchLog s t 2 e.rank e.pc.toNat m with
      | .found x => takeValues e ms (takeLog s t x) (acc ++ [x.value])
      | .other => (e.s, .error false)
      | .diverged => (diverge e.s e.t 2 e.rank e.pc e.act, .error true)

/-- The wait instructions that acquire (R212, R251, R257). -/
def waitAcquires : Instr → Bool
  | .barWait _ | .phwait _ | .tktWait _ | .hitchWait _ | .cntWait _ | .bclose _ => true
  | _ => false

/-- An acquire of a replayed team begins a new interval for its braid. -/
def replayInterval (s : State) (uid rank : Nat) : State :=
  s.modTeam uid fun u => { u with logged := (intervalMark rank, []) :: u.logged }

/-- An instruction whose values come from other parties or from timing: in replay they come from the
log, and no shared state is consulted (R390). `masks` are the lanes of each record. -/
def withReplay (e : Env) (masks : List Mask) (fromLog : State → List Nat → Act) (live : Act) : Act :=
  if e.t.replay.isNone then live
  else
    match takeValues e masks e.s [] with
    | (s, .ok vs) => fromLog (if waitAcquires e.i then replayInterval s e.t.uid e.rank else s) vs
    | (s, .error _) => .wait s e.act .plain

/-- One mask per active lane. -/
def Env.laneMasks (e : Env) : List Mask := (Mask.lanes e.act).map fun l => BitVec.ofNat 32 (2 ^ l)

/-- An effect that a replayed team does not perform (R390). -/
def unlessReplay (e : Env) (live : Act) : Act := if e.t.replay.isSome then .go e.s else live

/-- A line of a shared read in replay: the next record where it is this line, or the line as the
interval has it. -/
def replayLine (s : State) (t : Team) (rank : Nat) (pc : Nat) (lanes : Mask) (hIdx line : Nat) :
    State × Except Bool (List Byte) :=
  let cached := ((t.logged.takeWhile fun l => l.1 != intervalMark rank).find? fun l =>
    l.1 == lineKey hIdx (64 * line)).map (·.2)
  let use := match cached with
    | some bs => (s, .ok bs)
    | none => (s, .error true)
  match nextLog s t with
  | none => use
  | some x =>
    if x.type == 1 && x.rank == rank && x.handle == hIdx && x.value == 64 * line
        && (x.ord, x.off) == s.location t pc && x.lanes == lanes.toNat then
      ((takeLog s t x).modTeam t.uid fun u =>
        { u with logged := (lineKey hIdx (64 * line), x.line) ::
            u.logged.filter fun l => l.1 != lineKey hIdx (64 * line) }, .ok x.line)
    else if cached.isNone && x.rank != rank then (s, .error false)
    else use

/-- Bytes of a shared read from the log, line by line. -/
def replayRead (uid rank : Nat) (pc : Nat) (lanes : Mask) (hIdx : Nat) :
    Nat → Nat → Nat → State → List Byte → State × Except Bool (List Byte)
  | 0, _, _, s, acc => (s, .ok acc)
  | fuel + 1, off, n, s, acc =>
    if n == 0 then (s, .ok acc)
    else
      match s.team? uid with
      | none => (s, .ok acc)
      | some t =>
        let k := min n (64 - off % 64)
        match replayLine s t rank pc lanes hIdx (off / 64) with
        | (s, .error d) => (s, .error d)
        | (s, .ok bs) =>
          replayRead uid rank pc lanes hIdx fuel (off + k) (n - k) s (acc ++ (bs.drop (off % 64)).take k)

end Sys2Proof.Machine
end

