-- ==== Sys2Proof/Machine/Target.lean ====
section
/-! DEFINITION. What an access does at its ordering point: the read-modify-write of an atomic (R229),
and a remote access at its target (R124, R248-R252): which launch it meets, what poisons it, and how
it is performed and checked. -/

namespace Sys2Proof.Machine

/-! Coordinates and patterns (R125, R245, R246) -/

/-- Coordinate of an axis, and a coordinate with one axis set. -/
def coordAxis (c a : Nat) : Nat := bitsOf c (5 * a + 4) (5 * a)
def setAxis (c a v : Nat) : Nat := c - coordAxis c a * 2 ^ (5 * a) + v * 2 ^ (5 * a)

def patMode (w : Word) (a : Nat) : Nat := bitsOf w.toNat (12 * a + 11) (12 * a + 10)
def patHi (w : Word) (a : Nat) : Nat := bitsOf w.toNat (12 * a + 9) (12 * a + 5)
def patLo (w : Word) (a : Nat) : Nat := bitsOf w.toNat (12 * a + 4) (12 * a)
def patSelf (w : Word) : Bool := w.getLsbD 60
def patRed (w : Word) : Bool := w.getLsbD 61

/-- The used axes, and their expansion order: exact axes first (R245). -/
def usedAxes (mask : Nat) : List Nat := setBits 5 mask
def axisOrder (w : Word) (mask : Nat) : List Nat :=
  (usedAxes mask).filter (fun a => patMode w a == 0) ++ (usedAxes mask).filter (fun a => patMode w a != 0)

/-- The axis set (R125). -/
def axisSet (w : Word) (p : Partition) (a : Nat) : List Nat :=
  match patMode w a with
  | 0 => [patLo w a]
  | 1 => List.range (p.extent a)
  | _ => (List.range (patHi w a + 1)).filter fun k => patLo w a ≤ k

/-- The pattern is well formed (R125). -/
def patternOk (w : Word) (p : Partition) : Bool :=
  w.toNat / 2 ^ 62 == 0 && (List.range 5).all fun a =>
    if bitAt p.axes a then
      match patMode w a with
      | 0 => patLo w a < p.extent a
      | 1 => true
      | 2 => patLo w a ≤ patHi w a && patHi w a < p.extent a
      | _ => false
    else patMode w a == 3

/-- A coordinate lies in every axis set. -/
def inAxes (w : Word) (p : Partition) (c : Nat) : Bool :=
  (usedAxes p.axes).all fun a => (axisSet w p a).contains (coordAxis c a)

/-- A device is a target of a pattern issued at `origin`. -/
def isTarget (w : Word) (p : Partition) (origin c : Nat) : Bool :=
  inAxes w p c && !(patSelf w && c == origin)

/-- The derived count (R246). -/
def derivedCount (w : Word) (p : Partition) (origin : Nat) : Nat :=
  let k := (usedAxes p.axes).foldl (fun n a => n * (axisSet w p a).length) 1
  if patSelf w && inAxes w p origin then k - 1 else k

/-- Every target of a pattern, in expansion order. -/
def targets (w : Word) (p : Partition) (origin : Nat) : List Nat :=
  ((axisOrder w p.axes).foldl (fun cs a => cs.flatMap fun c => (axisSet w p a).map (setAxis c a)) [0]).filter
    fun c => !(patSelf w && c == origin)

/-- The root of a reduction (R250): the lowest coordinate of each axis set. -/
def rootOf (w : Word) (p : Partition) : Nat :=
  (usedAxes p.axes).foldl (fun c a => setAxis c a ((axisSet w p a).headD 0)) 0

/-- expand of R245 from this device on: the copies to send, with their J, and whether the access is
delivered here. -/
def expandFrom (w : Word) (p : Partition) (origin here : Nat) : Nat → List Nat → Nat → List (Nat × Nat) × Bool
  | 0, _, _ => ([], false)
  | _ + 1, [], _ => ([], isTarget w p origin here)
  | fuel + 1, a :: as, j =>
    let inner := expandFrom w p origin here fuel as (j + 1)
    ((axisSet w p a).flatMap fun x => if x == coordAxis here a then inner.1 else [(setAxis here a x, j + 1)]
      , (axisSet w p a).contains (coordAxis here a) && inner.2)

def expand (w : Word) (p : Partition) (origin here j : Nat) : List (Nat × Nat) × Bool :=
  expandFrom w p origin here 6 ((axisOrder w p.axes).drop j) j

/-- A copy reaches a unit and carries over more axes: the targets it leads to, for the count of the
acknowledgement it owes (R246). -/
def copyCount (w : Word) (p : Partition) (origin dst j : Nat) : Nat :=
  let rest := (axisOrder w p.axes).drop j
  let ends := rest.foldl (fun cs a => cs.flatMap fun c => (axisSet w p a).map (setAxis c a)) [dst]
  (ends.filter fun c => isTarget w p origin c).length

/-! Atomics -/

/-- The new value of an atomic (R229): the operation, format, memory value, operand and compare. -/
def atomNew (op : Nat) (f : Tag) (m c d : Nat) : Nat :=
  let w := fmtWidth f
  let iv := intVal f
  match op with
  | 0 =>
    if isInt f then (m + c) % 2 ^ w
    else roundTo f ((elemValue f m).add (elemValue f c) false) Rnd.ne 0
  | 1 => if iv c < iv m then c else m
  | 2 => if iv m < iv c then c else m
  | 3 => Nat.land m c
  | 4 => Nat.lor m c
  | 5 => Nat.xor m c
  | 6 => c
  | _ => if m == d then c else m

/-- One element of a reduction (R250, R303): integers as atomics; floats add rounded, or compare with
-0 below +0 and a NaN giving the canonical NaN. -/
def reduceElem (op : Nat) (f : Tag) (m x : Nat) : Nat :=
  if isInt f || op == 0 then atomNew op f m x 0
  else
    let a := elemValue f m
    let b := elemValue f x
    if a.isNan || b.isNan then (floatFmt f).nan
    else if op == 1 then (if b.pickMin a then x else m) else (if a.pickMin b then x else m)

/-- KIND of a record (R372). -/
def kindCode (k : RecKind) : Nat :=
  match k with
  | .store => 0
  | .load => 1
  | .loadReply => 2
  | .atomic => 3
  | .atomicReply => 4
  | .reduce => 5
  | .ack => 6
  | .close => 7
  | .closeReply => 8
  | .chunk => 9
  | .ready => 10
  | .control => 11
  | .reserved c => 12 + c % 4

/-! A team that stands for a launch -/

/-- A team with nothing. -/
def Team.blank : Team :=
  { uid := 0, launch := none, index := 0, part := 0, core := 0, status := .running, base := 0
    phTiles := [], vblk := 0, scrGran := 0, ctx := 0, code := 0, handles := 0, entry := 0
    codeLen := 0, emulVec := 0, braids := [], scratch := [], k := [], kRel := []
    trackers := List.replicate 8 none, issued := 0, nodes := [], carve := none, carveDue := false
    tiles := [], tileTags := [], slots := []
    batches := List.replicate 4 { count := 0, rels := [], closing := none, replies := [], timeout := false }
    entries := [], posted := 0, ords := [], barPhase := 0, barRel := [], idem := false, triggered := false
    detached := [], locks := [], stop := .none, dbgStopped := false, dbgStep := false, since := 0
    stopSince := 0, dumped := false, exited := false, replay := none, logged := [], logQueue := []
    pendE := [] }

/-- A party of a launch at a target: no team of its own (R124). -/
def Launch.proxy (n : Launch) : Team :=
  { Team.blank with launch := some n.num, part := n.part, ctx := n.ctx, handles := n.handles }

/-- The launch of a gang's share on this node (R124): found by GANG_ID. -/
def gangLaunch (s : State) (part : Nat) (gang : Word) : Option Launch :=
  s.launches.find? fun n => n.part == part && n.st < 3 && n.groups.any fun g => g.gang == gang && g.gang != 0

/-- A launch of this node held a share of the gang, be it over: its window parts have departed (R36). -/
def knownGang (s : State) (part : Nat) (gang : Word) : Bool :=
  gang != 0 && s.launches.any fun n => n.part == part && n.groups.any fun g => g.gang == gang

/-- The earliest-validated launch of the node with a team bound, saved or in held exit (R124); a team that is
exiting or retiring counts as bound (log entry 87). -/
def earliestLaunch (s : State) (part : Nat) : Option Launch :=
  s.launches.find? fun n => n.part == part && n.st < 3 && !n.killed && s.teams.any fun t => t.launch == some n.num

/-- PEER_H of a record that names a window part and no handle: a window access between the devices of
a gang (R119). -/
def windowPeer : Nat := 256

/-- The launch that a record meets (R119, R124), none once it is killed: for a window part the share of the window's gang; under SPACE 7 the
share of the first gang of the issuing team whose PEERS names this node, and the earliest launch where none does. -/
def targetLaunch (s : State) (p : Partition) (r : FabRecord) : Option Launch :=
  (if r.peerH == windowPeer then gangLaunch s p.num r.gang
  else
    match r.gangs.find? fun g => isTarget g.2 p r.src p.coord with
    | some g => gangLaunch s p.num g.1
    | none => earliestLaunch s p.num).filter fun n => !n.killed

/-- The pseudo-entry of a window access that arrives for a group. -/
def windowHandle (g : Group) : Handle :=
  { shardVer := 0, hdr := 0, peerH := 0, wgroup := g.index, stale := false, checked := false
    cache := 0, space := 3, bound := 2 ^ 63, base := 0, bad := false }

/-- The poison code of a failure at the target (R329, cause 0x05). -/
def poisonOf (d : Draft) : Nat :=
  match d.cause with
  | 1 => if d.detail == 3 then 3 else 4
  | 2 => 5
  | 3 => 7
  | _ => 4

/-- Error bits of a batch summary for a poison code (R251). -/
def poisonErrs (code : Nat) : BitVec 7 :=
  match code with
  | 0 => 0
  | 3 | 4 => 2
  | 5 => 8
  | 7 => 64
  | _ => 4

/-- The access of a record at its target (R116, R117, R124): the launch, its party, and the place, on this device or on
the one that owns a window part. Of R116's limits on a SPACE 3 entry, the group must be one of the target launch with
W = 1 (DESIGN CHOICE, log entry 110). -/
def targetPlace (s : State) (part : Nat) (r : FabRecord) (off : Int) (n : Nat) (kind : AccessKind) :
    State × Except Nat (Launch × Spot) :=
  match (s.part? part).bind fun p => targetLaunch s p r with
  | none => (s, .error (if r.peerH == windowPeer && knownGang s part r.gang then 5 else 6))
  | some l =>
    let t := l.proxy
    let go := fun (s : State) (h : Handle) (hIdx : Nat) =>
      match resolve s t h hIdx 0 off n kind with
      | (s, .error d) => (s, .error (poisonOf d))
      | (s, .ok sp) => (s, .ok (l, sp))
    if r.peerH == windowPeer then
      match l.groups.find? fun g => g.w && g.gang == r.gang with
      | none => (s, .error 1)
      | some g => go s (windowHandle g) 0
    else
      match readHandle s t r.peerH with
      | (s, .error _) => (s, .error 4)
      | (s, .ok none) => (s, .error 1)
      | (s, .ok (some h)) =>
        let lost := h.space == 3 && !(l.groups.any fun g => g.index == h.wgroup && g.w)
        if h.bad || lost then (s, .error 1)
        else if h.space < 3 || h.space == 7 then (s, .error 2)
        else go s h r.peerH

/-- The same, for an access performed on this device. -/
def targetSpot (s : State) (part : Nat) (r : FabRecord) (off : Int) (n : Nat) (kind : AccessKind) :
    State × Except Nat (Team × Spot) :=
  match targetPlace s part r off n kind with
  | (s, .error c) => (s, .error c)
  | (s, .ok (l, sp)) =>
    match sp.place with
    | .peer _ _ _ => (s, .error 3)
    | _ => (s, .ok (l.proxy, sp))

/-- The coordinate of a partition's node. -/
def hereOf (s : State) (part : Nat) : Nat := ((s.part? part).map (·.coord)).getD 0

/-- The party of a remote access, as its target's detector meets it (R289, R295). -/
def remoteAccessor (s : State) (part src : Nat) (o : Origin) : Accessor :=
  let me := hereOf s part
  { party := carry src me o.party, self := carry src me o.self, vc := carryClocks src me o.vc
    uid := carry src me o.uid, rank := o.rank, launch := if src == me then o.launch else none
    index := o.index, core := Config.cores, since := 0, coord := src, engine := o.engine, remote := true
    trk := o.trk, keys := o.keys.map (carry src me), under := none, part }

/-- The releases that a record brings to a device, or a reply back (R295). -/
def landedRels (s : State) (part : Nat) (r : FabRecord) : List Release :=
  r.origin.rels.map (carryRelease r.src (hereOf s part))

/-- Checks an access at its target, the detector and ECC last (R124). -/
def checkTarget (s : State) (t : Team) (x : Accessor) (u : Use) (sp : Spot) : State × Except Nat Unit :=
  match checkModel s t { x with under := t.launch } u sp false with
  | (s', .error d) => ({ s' with shadow := s.shadow }, .error (poisonOf d))
  | (s', .ok ()) =>
    match probe s' t.part u sp with
    | (s', .error d) => ({ s' with shadow := s.shadow }, .error (poisonOf d))
    | (s', .ok ()) => (s', .ok ())

/-- The source check of a record (R252): CRC-32C over its data bytes and its offset. -/
def sourceCheck (data : List Byte) (off : Int) : BitVec 32 := crc32c (data ++ leBytes 8 (wrapInt 64 off))

/-- What a target answers: poison code, error bits, the bytes it read, and the releases that a synchronising
read met. -/
structure Answer where
  poison : Nat
  errs : BitVec 7
  bytes : List Byte
  rels : List Release
deriving DecidableEq, Repr

def Answer.bad (code : Nat) : Answer := { poison := code, errs := poisonErrs code, bytes := [], rels := [] }
def Answer.good (bytes : List Byte) (rels : List Release) : Answer := { poison := 0, errs := 0, bytes, rels }
/-- A write whose source check fails (R252). -/
def Answer.unchecked : Answer := { poison := 0, errs := 1, bytes := [], rels := [] }

/-- The releases that a synchronising read of another device's party meets at a place, on their way to its device:
the read lies within this device's scope instance (R283, R295). -/
def metRels (s : State) (p : Place) (n : Nat) : List Release :=
  (relsAt s p n).map fun r =>
    { outRelease s r with far := true, scope := if r.src.isNone && r.scope == 3 then 4 else r.scope }

/-- Adds 1 to chkcnt of a partition (R377). -/
def bumpCheck (s : State) (part : Nat) : State := s.modPart part fun p => p.bump 0x0205 0 1

/-- A store record at its target (R248, R252). -/
def storeAt (s : State) (part : Nat) (x : Accessor) (r : FabRecord) : State × Answer :=
  if r.check != sourceCheck r.data r.offset then (bumpCheck s part, .unchecked)
  else
    match targetSpot s part r r.offset r.data.length .write with
    | (s, .error c) => (s, .bad c)
    | (s, .ok (t, sp)) =>
      let u := if r.origin.sync then Use.syncWrite else .store
      match checkTarget s t x u sp with
      | (s, .error c) => (s, .bad c)
      | (s, .ok ()) =>
        (settleRels (writeSpot s Config.cores 0 0 sp r.data) sp u (landedRels s part r), .good [] [])

/-- A load request at its target (R247): `n` bytes. -/
def loadAt (s : State) (part : Nat) (x : Accessor) (r : FabRecord) (n : Nat) : State × Answer :=
  match targetSpot s part r r.offset n .read with
  | (s, .error c) => (s, .bad c)
  | (s, .ok (t, sp)) =>
    match checkTarget s t x (if r.origin.sync then .syncRead else .load) sp with
    | (s, .error c) => (s, .bad c)
    | (s, .ok ()) =>
      let (s, bs) := readSpot s Config.cores 0 0 sp true false
      (s, .good bs (if r.origin.sync then metRels s sp.place n else []))

/-- A phase arrival of another device of a gang at its object (R119, R201): OP 8, with the phase,
what is added and what is subtracted in the data; the answer is the refusal's detail or 0. -/
def phaseArriveAt (s : State) (part : Nat) (x : Accessor) (r : FabRecord) : State × Answer :=
  match targetSpot s part r r.offset 16 .write with
  | (s, .error c) => (s, .bad c)
  | (s, .ok (t, sp)) =>
    match checkTarget s t x .rmw sp with
    | (s, .error c) => (s, .bad c)
    | (s, .ok ()) =>
      let arg := fun (k : Nat) => leNat ((r.data.drop (8 * k)).take 8)
      match arrivePhase s sp (arg 0) (Int.ofNat (arg 1)) (Int.ofNat (arg 2)) (landedRels s part r) with
      | .error d => (s, .good (leBytes 8 d) [])
      | .ok s => (s, .good (leBytes 8 0) [])

/-- An atomic at its target (R249): the data hold the operand and the compare value. -/
def atomicAt (s : State) (part : Nat) (x : Accessor) (r : FabRecord) : State × Answer :=
  let n := fmtWidth r.f / 8
  if r.check != sourceCheck r.data r.offset then (bumpCheck s part, .unchecked)
  else
    match targetSpot s part r r.offset n .write with
    | (s, .error c) => (s, .bad c)
    | (s, .ok (t, sp)) =>
      match checkTarget s t x .rmw sp with
      | (s, .error c) => (s, .bad c)
      | (s, .ok ()) =>
        let (s, bs) := readSpot s Config.cores 0 0 sp true false
        let v := atomNew r.op r.f (leNat bs) (leNat (r.data.take n)) (leNat ((r.data.drop n).take n))
        let met := metRels s sp.place n
        (settleRels (writeSpot s Config.cores 0 0 sp (leBytes n v)) sp .rmw (landedRels s part r), .good bs met)

end Sys2Proof.Machine
end

