-- ==== Sys2Proof/Machine/Send.lean ====
section
/-! DEFINITION. The origin's side of the fabric: tags, records, copies and their acknowledgements
(R244-R249), and requests that wait for a reply (R247, and window accesses to other devices, R119). -/

namespace Sys2Proof.Machine

/-- A tag never used before, which names the team and batch (the model's own form of TAG). -/
def newTag (s : State) (uid bt : Nat) : State × Nat :=
  ({ s with tags := s.tags + 1 }, (s.tags * 2 ^ 32 + uid) * 4 + bt)

/-- Team and batch of a tag. -/
def tagKey (tag : Nat) : Nat := tag % 2 ^ 34

/-- The pieces of data longer than the 192 bytes of a record (R372), but for the last. -/
def piecesOf (piece : List Byte → Outgoing) (data : List Byte) : List Outgoing :=
  (List.range ((data.length - 1) / 192)).map fun k => piece ((data.drop (192 * k)).take 192)

/-- A message as the records that carry it. -/
def recordsOf (o : Outgoing) : List Outgoing :=
  (match o with
    | .access dst r => piecesOf (.piece dst r.kind r.check r.src r.job) r.data
    | .xfer dst toReceiver m => piecesOf (.piece dst (if toReceiver then .chunk else .ready) m.check m.src m.job) m.data
    | _ => []) ++ [o]

/-- A message is handed to the fabric unit of a partition. -/
def postOut (s : State) (part : Nat) (o : Outgoing) : State :=
  { s with fabOut := s.fabOut ++ (recordsOf o).map fun x => (part, x) }

/-- A record is handed to the fabric unit of a partition for a device. -/
def postRecord (s : State) (part dst : Nat) (r : FabRecord) : State := postOut s part (.access dst r)

/-- The gangs that a team belongs to, each with the pattern of its devices (R124). -/
def gangsOf (s : State) (t : Team) : List (Word × Word) :=
  match s.launchOf t with
  | none => []
  | some n => ((groupsOf n t.index).filter fun g => g.span).map fun g => (g.gang, g.peers)

/-- A record of a team with nothing in it (R372). -/
def baseRecord (s : State) (t : Team) (kind : RecKind) : FabRecord :=
  { check := 0, pattern := 0, offset := 0, peerH := 0, f := 0, op := 0, ret := false, bt := 0, j := 0
    kind, data := [], src := s.coordOf t, job := s.teamReg t 0x0202 0, tag := 0, poison := 0
    count := 0, errs := 0, gang := 0, peers := 0, gangs := gangsOf s t
    origin := { party := 0, self := 0, vc := [], uid := t.uid, rank := 0, launch := t.launch, index := t.index, trk := 0
                engine := false, keys := [], sync := false, rels := [] } }

/-- The origin that a record names (R289, R295). -/
def originOf (s : State) (x : Accessor) (sync : Bool) (rels : List Release) : Origin :=
  { party := x.party, self := x.self, vc := x.vc, uid := x.uid, rank := x.rank, launch := x.launch, index := x.index
    trk := x.trk, engine := x.engine, keys := x.keys, sync, rels := rels.map (outRelease s) }

/-- The accessor of a lane's remote store, or atomic without return. -/
def Env.farAccessor (e : Env) (l : Nat) : Accessor :=
  let p := remoteParty e.t.uid e.rank l
  { e.laneAccessor l with party := p, self := p, vc := remoteClocks e.t.uid e.rank l (e.b.lane l).vc }

/-- A target notes accesses of a batch that it has received: how many, their error bits, and how many of them are
not performed yet (R251). Answers which of the origin's batches they belong to. -/
def noteRcv (s : State) (part src key n : Nat) (errs : BitVec 7) (opened : Nat) : State × Nat :=
  let hit := fun (b : RcvBatch) => b.part == part && b.src == src && b.key == key && b.close.isNone
  match s.rcv.find? hit with
  | some b =>
    ({ s with rcv := s.rcv.map fun x =>
        if hit x then { x with count := x.count + n, errs := x.errs ||| errs, open_ := x.open_ + opened } else x }, b.gen)
  | none =>
    ({ s with
        tags := s.tags + 1
        rcv := s.rcv ++ [{ part, src, key, gen := s.tags, count := n, errs, open_ := opened, close := none }] }, s.tags)

/-- Adds an access to a team's batch (R251): its derived count, its targets and what it releases. -/
def addBatch (s : State) (uid bt n : Nat) (to_ : List Nat) (r : Release) : State :=
  s.modTeam uid fun t =>
    { t with batches := t.batches.modify bt fun b => { b with count := b.count + n, rels := b.rels ++ [(to_, r)] } }

/-- The clocks of a lane. -/
def Team.laneVc (t : Team) (rank lane : Nat) : Clocks := ((t.braids[rank]?).map fun b => (b.lane lane).vc).getD []

/-- Sends one lane's store or atomic without return to every target (R245, R246): copies go out, a
delivery on this device is performed at once unless it is deferred, and the rest is awaited. -/
def sendAll (s : State) (t : Team) (rank lane : Nat) (p : Partition) (pat : Word) (r : FabRecord)
    (here : State → FabRecord → State × Option Answer) : State :=
  let me := p.coord
  let need := derivedCount pat p me
  if need == 0 then s
  else
    let (s, tag) := newTag s t.uid r.bt
    let r := { r with tag, pattern := pat }
    let (copies, mine) := expand pat p me me 0
    let s := copies.foldl (fun s c => postRecord s p.num c.1 { r with j := c.2 }) s
    let s := addBatch s t.uid r.bt need (targets pat p me) (mkRelease t rank (remoteClocks t.uid rank lane (t.laneVc rank lane)) 4 0)
    let (s, got) :=
      if mine then
        match here s r with
        | (s, some a) => ((noteRcv s p.num me (tagKey tag) 1 a.errs 0).1, 1)
        | (s, none) => (s, 0)
      else (s, 0)
    if got == need then s
    else { s with txs := s.txs ++ [{ tag, uid := t.uid, rank, lane, need, got, record := r, dst := me }] }

/-- An instruction whose effect has begun although its lanes still wait ends the idempotent region first (R217). -/
def Env.begun (e : Env) (s : State) : State :=
  if endsIdem e.i then s.modTeam e.t.uid fun t => { t with idem := false } else s

/-- Sends a lane's request to one device; where it is this device, it is performed at once. -/
def sendRequest (e : Env) (s : State) (lane dst : Nat) (r : FabRecord)
    (here : Nat → State → FabRecord → State × Option Answer) : State :=
  let (s, tag) := newTag (e.begun s) e.t.uid 0
  let r := { r with tag }
  let add := fun (s : State) (reply : Option (Word × Nat)) (rels : List Release) =>
    s.modBraid e.t.uid e.rank fun b => { b with pendX := b.pendX ++ [{ pc := e.pc, lane, tag, reply, rels }] }
  let await := fun (s : State) =>
    add { s with txs := s.txs ++ [{ tag, uid := e.t.uid, rank := e.rank, lane, need := 1, got := 0, record := r, dst }] } none []
  if dst == r.src then
    match here lane s r with
    | (s, some a) => add s (some (word (leNat (a.bytes.take 8)), a.poison)) a.rels
    | (s, none) => await s
  else await (postRecord s e.t.part dst r)

/-- One request of an instruction: lane, device and record. -/
abbrev Request := Nat × Nat × FabRecord

/-- Sends the requests of an instruction that have not been sent, then answers their replies once
every one has come, by lane: value, poison and the releases met. -/
def exchange (e : Env) (s : State) (reqs : List Request)
    (here : Nat → State → FabRecord → State × Option Answer) :
    State × Option (List (Nat × Word × Nat × List Release)) :=
  let s := reqs.foldl (fun s q =>
    if (e.b.pending e.pc q.1).isSome then s else sendRequest e s q.1 q.2.1 q.2.2 here) s
  match (s.team? e.t.uid).bind fun t => t.braids[e.rank]? with
  | none => (s, none)
  | some b =>
    let got := reqs.map fun q => (b.pending e.pc q.1).bind fun x => x.reply.map fun v => (q.1, v.1, v.2, x.rels)
    if got.all Option.isSome then
      (s.modBraid e.t.uid e.rank fun b =>
        { b with pendX := b.pendX.filter fun x => !(x.pc == e.pc && reqs.any fun q => q.1 == x.lane) }
        , some (got.filterMap id))
    else (s, none)

/-- A lane takes the releases that its synchronising read met at another device: it keeps them for a later acquire
fence, and an acquire takes them at once (R281, R295). -/
def takeRels (s : State) (t : Team) (rank lane : Nat) (rels : List Release) (acq : Bool) (scope group : Nat) : State :=
  let m : Mask := BitVec.ofNat 32 (2 ^ lane)
  let s := s.meetAll t rank m rels
  if acq then s.acquire t rank m rels scope group else s

/-- The fabric-poison fault of lanes (R329): COORD names the target. -/
def poisonDraft (code coord handle group : Nat) (lanes : Mask) (addr : Nat) : Draft :=
  { cause := 5, detail := code, coord, handle, group, lanes, addr }

/-- The fault of a window access that another device refused (R36, R329). -/
def peerDraft (code dst rank hIdx group addr : Nat) (lanes : Mask) : Draft :=
  if code == 5 then { cause := 2, detail := 2, addr, info := rank, handle := hIdx, group, lanes }
  else poisonDraft code dst hIdx group lanes addr

/-- The places of an instruction's lanes on other devices. -/
def peerSpots (spots : List (Nat × Spot)) : List (Nat × Spot) :=
  spots.filter fun x => match x.2.place with
    | .peer _ _ _ => true
    | _ => false

/-- The requests that ask the owners whether any lane's access meets a fault (R225), under lane numbers of their own. -/
def probesOf (reqs : List Request) : List Request :=
  reqs.map fun q =>
    let r := q.2.2
    (q.1 + 32, q.2.1, { r with
      kind := .atomic, op := 14, ret := true, data := if r.kind == .store then leBytes 1 1 else []
      count := if r.kind == .store then r.data.length else if r.op == 8 then 16 else fmtWidth r.f / 8 })

/-- Makes the window accesses of an instruction that reach other devices (R119): the lanes' records
go out, all lanes wait until every reply is there, and then `k` takes the values by lane, with the releases
met. A refusal is the fault that the owner of the bytes found. Before the first of several writes goes out, every owner
has been asked whether its lanes meet a fault (R225). -/
def withPeers (e : Env) (s : State) (spots : List (Nat × Spot)) (mk : Nat → Spot → FabRecord)
    (k : State → (Nat → Word × List Release) → Act) : Act :=
  let far := peerSpots spots
  if far.isEmpty then k s fun _ => (0, [])
  else
    let reqs := far.map fun x =>
      match x.2.place with
      | .peer dst _ a =>
        let r := mk x.1 x.2
        (x.1, dst, { r with
            peerH := windowPeer, offset := Int.ofNat a, check := sourceCheck r.data (Int.ofNat a)
            gang := ((windowGroup s e.t x.2.h).map (·.gang)).getD 0
            peers := ((windowGroup s e.t x.2.h).map (·.peers)).getD 0 })
      | _ => (x.1, 0, mk x.1 x.2)
    let fault := fun (s : State) (bad : List (Nat × Word × Nat × List Release)) =>
      let lane := (bad.head?.map (·.1)).getD 0 % 32
      let code := (bad.head?.map (·.2.2.1)).getD 0
      let page := fun (l : Nat) => ((far.find? fun x => x.1 == l).map fun x => x.2.addr / 4096).getD 0
      let lanes := maskOf ((bad.filter fun b => b.2.2.1 == code && page (b.1 % 32) == page lane).map (·.1 % 32))
      match (far.find? fun x => x.1 == lane).map (·.2) with
      | some sp =>
        match sp.place with
        | .peer dst rank _ => Act.fault s (peerDraft code dst rank sp.hIdx sp.group sp.addr lanes)
        | _ => .fault s (poisonDraft code 0 sp.hIdx sp.group lanes sp.addr)
      | none => .fault s (poisonDraft code 0 0 0 lanes 0)
    let answer := fun (s : State) (reqs : List Request) (go : State → List (Nat × Word × Nat × List Release) → Act) =>
      match exchange e s reqs fun _ s _ => (s, some (.bad 6)) with
      | (s, none) => Act.wait s e.act .plain
      | (s, some vs) =>
        match vs.filter fun v => v.2.2.1 != 0 with
        | [] => go s vs
        | bad => fault s bad
    let perform := fun (s : State) =>
      answer s reqs fun s vs => k s fun l => ((vs.find? fun v => v.1 == l).map fun v => (v.2.1, v.2.2.2)).getD (0, [])
    if reqs.length ≤ 1 || (reqs.all fun q => q.2.2.kind == .load) || (reqs.any fun q => (e.b.pending e.pc q.1).isSome) then
      perform s
    else answer s (probesOf reqs) fun s _ => perform s

end Sys2Proof.Machine
end

