-- ==== Sys2Proof/Machine/Commands.lean ====
section
/-! DEFINITION. Commands of the copy engine and the matrix array (R231-R243, R258-R259, R264, R274-R276):
what one needs at issue, its tracker and its order, the memory traffic of its elements, its credits,
its end, and the dependence graph's records. -/

namespace Sys2Proof.Machine

/-! What a command names -/

/-- Values of the scalars that a command's D, A, B and C name (R232, R239, R278). -/
structure Vals where
  d : Word
  a : Word
  b : Word
  c : Word
deriving DecidableEq, Repr

/-- A field that names no scalar gives zero (R239). -/
def scalarVals (i : Instr) (v : Vals) : Vals :=
  match i.info with
  | none => v
  | some n =>
    let k := fun (r : Role) (w : Word) => if r.isScal n.shape.kinds true then w else 0
    { d := k n.shape.d v.d, a := k n.shape.a v.a, b := k n.shape.b v.b, c := k n.shape.c v.c }

/-- The scalars of a braid that the fields name. -/
def Braid.vals (b : Braid) (i : Instr) : Vals :=
  let f := i.fields
  scalarVals i { d := b.sreg f.d.toNat, a := b.sreg f.a.toNat, b := b.sreg f.b.toNat, c := b.sreg f.c.toNat }

/-- Fields of the E word of R231, and of the slot word of GMMA (R267). -/
def ePhh (f : Fields) : Nat := f.e.toNat / 2 ^ 24
def ePo (f : Fields) : Bool := f.e.getLsbD 23
def eGs (f : Fields) : Nat := f.e.toNat / 2 ^ 21 % 4
def eAux (f : Fields) : Nat := f.e.toNat % 256
def gOb (f : Fields) : Nat := f.e.toNat / 2 ^ 8 % 64
def gOg (f : Fields) : Nat := f.e.toNat % 64

/-- Valid scale slots of MMA's and QTILE's scale word (R266, R273). -/
def scaleSlots (f : Fields) : List Nat :=
  (if f.e.getLsbD 10 then [f.e.toNat % 64] else [])
    ++ (if f.e.getLsbD 21 then [f.e.toNat / 2 ^ 11 % 64] else [])

/-- The command credits a phase object (R231, R258). -/
def credits : Instr → Bool
  | .cpy f | .gath f | .scat f | .accwr f | .accst f => ePo f
  | _ => false

/-- The tile that a command is on, and whether it writes it (R264, R275). -/
def cmdTile : Instr → Option Nat
  | .mma f | .gmma f | .accwr f | .accst f | .hadt f => some f.d.toNat
  | .qtile f => some f.a.toNat
  | _ => none
def writesTile : Instr → Bool
  | .mma _ | .gmma _ | .accwr _ | .hadt _ => true
  | _ => false

/-- The slots that a command reads and those it writes (R275). -/
def slotsRead : Instr → List Nat
  | .mma f => [f.a.toNat, f.b.toNat] ++ scaleSlots f
  | .gmma f => [gOb f, gOg f]
  | _ => []
def slotsWritten : Instr → List Nat
  | .cpy f | .gath f => if f.x.getLsbD 0 then [f.d.toNat] else []
  | .gmma f => [gOg f]
  | .qtile f => f.d.toNat :: scaleSlots f
  | _ => []
def slotsNamed (i : Instr) : List Nat := slotsRead i ++ slotsWritten i

/-- A command must wait for an earlier one (R275). -/
def follows (i j : Instr) : Bool :=
  (cmdTile i).isSome && cmdTile i == cmdTile j
    || (slotsRead i).any (slotsWritten j).contains
    || (slotsWritten i).any fun k => (slotsNamed j).contains k

/-- No earlier unfinished command of the team stands before this one (R275). -/
def Team.inTurn (t : Team) (c : Command) : Bool :=
  t.trackers.all fun o =>
    match o with
    | some x => c.order ≤ x.order || !follows c.inst x.inst
    | none => true

/-- An unfinished command of the team on a tile, or naming a slot of a range. -/
def Team.tileBusy (t : Team) (k : Nat) : Bool :=
  t.trackers.any fun o => o.any fun c => cmdTile c.inst == some k
def Team.slotBusy (t : Team) (lo hi : Nat) : Bool :=
  t.trackers.any fun o => o.any fun c => (slotsNamed c.inst).any fun k => lo ≤ k && k ≤ hi

/-- The team holds a tile, or has claimed a slot. -/
def Team.hasTile (t : Team) (k : Nat) : Bool := k < t.tiles.length
def Team.hasSlot (t : Team) (k : Nat) : Bool := t.slots.any fun x => x.1 == k

/-! Checks at issue -/

/-- The SPACE codes that a command's handle H may have, if it reads one (R232, R272). -/
def handleSpaces : Instr → Option (List Nat)
  | .cpy _ | .gath _ | .scat _ | .gmma _ | .accwr _ | .accst _ => some [2, 3, 4, 5, 6]
  | .hadt _ => some [1, 2, 3, 4, 5, 6, 7]
  | _ => none

/-- CPY between memories names a destination handle (R231). -/
def hasAux : Instr → Bool
  | .cpy f => !f.x.getLsbD 0
  | _ => false

/-- The statement has a SCOPE in X[5:3] (R231, R258). -/
def hasScope : Instr → Bool
  | .cpy _ | .gath _ | .scat _ | .gmma _ | .accwr _ | .accst _ => true
  | _ => false

/-- An entry that a command names: read, unusable, or not reached because its own translation faults. -/
inductive Entry where
  | got (h : Handle)
  | bad
  | late (d : Draft)

def namedEntry (s : State) (t : Team) (hIdx : Nat) (spaces : List Nat) (need : Handle → Bool) : State × Entry :=
  match readHandle s t hIdx with
  | (s, .error d) => (s, .late d)
  | (s, .ok none) => (s, .bad)
  | (s, .ok (some h)) =>
    (s, if handleBad s t h || !spaces.contains h.space || !need h then .bad else .got h)

/-- The three entries of a command: H, AUX and PHH (R113). -/
structure Entries where
  h : Handle
  aux : Handle
  p : Handle

/-- Reads one entry where the command names it; the trap is cause 0x04 with the field's OPND. -/
def takeEntry (on : Bool) (s : State) (t : Team) (hIdx opnd : Nat) (spaces : List Nat)
    (need : Handle → Bool) (m : Mask) : State × Except Trap (Handle × Option Draft) :=
  if !on then (s, .ok (Handle.none, none))
  else
    match namedEntry s t hIdx spaces need with
    | (s, .got h) => (s, .ok (h, none))
    | (s, .bad) => (s, .error { cause := 4, opnd, lanes := m, value := hIdx })
    | (s, .late d) => (s, .ok (Handle.none, some d))

/-- The entry of a command's phase object. -/
def takePhase (s : State) (t : Team) (i : Instr) (m : Mask) : State × Except Trap (Handle × Option Draft) :=
  takeEntry (credits i) s t (ePhh i.fields) 6 [2, 3, 4] (fun _ => true) m

/-- An entry as it is at hand, or else as it is read. -/
def orTake (old : Handle) (r : State × Except Trap (Handle × Option Draft)) (s : State) :
    State × Except Trap (Handle × Option Draft) := if old.bad then r else (s, .ok (old, none))

/-- Reads every entry that a command names and that is not at hand (R113, R232): the first fault is kept for later. -/
def takeEntries (s : State) (t : Team) (i : Instr) (m : Mask)
    (old : Entries := ⟨Handle.none, Handle.none, Handle.none⟩) : State × Except Trap (Entries × Option Draft) :=
  let f := i.fields
  let hadt := match i with | .hadt _ => true | _ => false
  match orTake old.h (takeEntry (handleSpaces i).isSome s t f.h.toNat 5 ((handleSpaces i).getD [])
      (fun h => !hadt || h.hdr != 0) m) s with
  | (s, .error x) => (s, .error x)
  | (s, .ok (h, dh)) =>
    match orTake old.aux (takeEntry (hasAux i) s t (eAux f) 6 [2, 3, 4, 5, 6] (fun _ => true) m) s with
    | (s, .error x) => (s, .error x)
    | (s, .ok (a, da)) =>
      match orTake old.p (takePhase s t i m) s with
      | (s, .error x) => (s, .error x)
      | (s, .ok (p, dp)) => (s, .ok (⟨h, a, p⟩, dh.orElse fun _ => da.orElse fun _ => dp))

/-- Capacity of a slot row (R262). -/
def slotCap (t : Tag) (code : Nat) : Nat :=
  let p := 128 / 2 ^ code
  if t == 15 then 10 * p / 8 else 8 * p / fmtWidth t

/-- A shape word of MMA and GMMA (R265) with pitch codes. -/
def shapeOk (f : Fields) (v : Word) (pa pb : Nat) : Bool :=
  let m := bitsOf v.toNat 7 0
  let n := bitsOf v.toNat 15 8
  let k := bitsOf v.toNat 31 16
  v.toNat < 2 ^ 32 && 1 ≤ m && m ≤ 64 && 1 ≤ n && n ≤ 64
    && 1 ≤ k && k ≤ slotCap f.f pa && k ≤ slotCap f.f pb

/-- A layout word of ACCWR and ACCST (R270). -/
def layoutOk (v : Word) : Bool :=
  let m := bitsOf v.toNat 7 0
  let n := bitsOf v.toNat 15 8
  bitsOf v.toNat 31 16 == 0 && bitsOf v.toNat 63 32 % 8 == 0 && 1 ≤ m && m ≤ 64 && 1 ≤ n && n ≤ 64

/-- The shape word of QTILE (R273). -/
def qshapeOk (f : Fields) (v : Word) : Bool :=
  let m := bitsOf v.toNat 7 0
  let n := bitsOf v.toNat 15 8
  v.toNat < 2 ^ 18 && 1 ≤ m && m ≤ 64 && 1 ≤ n && n ≤ 64
    && (if f.x.getLsbD 0 then m else n) ≤ slotCap f.f (bitsOf v.toNat 17 16)

/-- A tile or slot that the team does not have: OPND and name (R258), of a subfield of E the slot number alone (DESIGN
CHOICE, log entry 111). -/
def nameBad (t : Team) (i : Instr) : Option (Nat × Nat) :=
  let slot := fun (k opnd : Nat) => if t.hasSlot k then none else some (opnd, k)
  let tile := fun (k opnd : Nat) => if t.hasTile k then none else some (opnd, k)
  let firstBad := fun (l : List (Option (Nat × Nat))) => l.findSome? id
  match i with
  | .cpy f | .gath f => if f.x.getLsbD 0 then slot f.d.toNat 1 else none
  | .mma f => firstBad ([tile f.d.toNat 1, slot f.a.toNat 2, slot f.b.toNat 3]
      ++ (scaleSlots f).map fun k => slot k 6)
  | .gmma f => firstBad [tile f.d.toNat 1, slot (gOg f) 6, slot (gOb f) 6
      , if gOg f == gOb f then some (6, gOg f) else none]
  | .accwr f | .accst f | .hadt f => tile f.d.toNat 1
  | .qtile f => firstBad ([slot f.d.toNat 1, tile f.a.toNat 2]
      ++ (scaleSlots f).map fun k => if k == f.d.toNat then some (6, k) else slot k 6)
  | _ => none

/-- A scalar outside its limits: OPND and value (R234, R235, R265, R267, R270, R272, R273). -/
def scalarBad (i : Instr) (v : Vals) : Option (Nat × Nat) :=
  let b := v.b.toNat
  let rows := fun (slot : Bool) =>
    bitsOf b 31 22 != 0 || bitsOf b 15 0 < 8
      || (slot && 8192 < (bitsOf b 21 16 + 1) * bitsOf b 15 0)
  let say := fun (bad : Bool) (opnd : Nat) (w : Word) => if bad then some (opnd, w.toNat) else none
  match i with
  | .cpy f => say (2 ^ 32 < b || (f.x.getLsbD 0 && 8192 < b)) 3 v.b
  | .gath f => say (rows (f.x.getLsbD 0)) 3 v.b
  | .scat _ => say (rows false) 3 v.b
  | .mma f => say (!shapeOk f v.c (f.x.toNat / 4 % 4) (f.x.toNat / 16 % 4)) 4 v.c
  | .gmma f =>
    (say (bitsOf b 31 0 != 0) 3 v.b).orElse fun _ =>
      say (!shapeOk f v.c (bitsOf f.e.toNat 7 6) (bitsOf f.e.toNat 15 14)) 4 v.c
  | .accwr _ | .accst _ => say (!layoutOk v.b) 3 v.b
  | .hadt _ => say (b == 0 || 64 < b) 3 v.b
  | .qtile f => say (!qshapeOk f v.b) 3 v.b
  | _ => none

/-- The tag check of a tile (R264): OPND and the tag found, as R59 presents them. -/
def tileTagBad (t : Team) (i : Instr) : Option (Nat × Nat) :=
  let check := fun (k : BitVec 7) (opnd : Nat) =>
    let tag := t.tileTags.getD k.toNat 0
    if tag == 10 then none else some (opnd, tag.toNat)
  match i with
  | .mma f | .gmma f => if f.x.getLsbD 0 then none else check f.d 1
  | .accst f | .hadt f => check f.d 1
  | .qtile f => check f.a 2
  | _ => none

/-- An offset or length that is not a multiple of its alignment (R232, R234, R235, R267, R270); GMMA's PITCH counts as a
length, cause 0x07 (DESIGN CHOICE, log entry 112). -/
def alignBad (i : Instr) (v : Vals) : Bool :=
  let off := fun (w : Word) => w.toNat % 8 != 0
  let ph := credits i && v.c.toNat % 2 ^ 48 % 16 != 0
  match i with
  | .cpy f => off v.a || (!f.x.getLsbD 0 && off v.d) || ph
  | .gath f => off v.a || (!f.x.getLsbD 0 && off v.d) || off (v.b >>> 32) || v.b.toNat % 8 != 0 || ph
  | .scat _ => off v.a || off v.d || off (v.b >>> 32) || v.b.toNat % 8 != 0 || ph
  | .gmma _ => off v.a || off (v.b >>> 32)
  | .accwr _ | .accst _ => off v.a || ph
  | _ => false

/-- Elements of a command (R234, R235, R266, R267, R270, R272, R273). -/
def elemSize (n : Nat) : Nat := 4096 * ((n + 262143) / 262144)
def cmdCount (i : Instr) (v : Vals) : Nat :=
  match i with
  | .cpy _ => if v.b == 0 then 0 else (v.b.toNat + elemSize v.b.toNat - 1) / elemSize v.b.toNat
  | .gath _ | .scat _ => bitsOf v.b.toNat 21 16 + 1
  | .mma _ | .gmma _ => (bitsOf v.c.toNat 31 16 + 31) / 32
  | .accwr _ | .accst _ | .hadt _ => bitsOf v.b.toNat 7 0
  | .qtile f => if f.x.getLsbD 0 then bitsOf v.b.toNat 15 8 else bitsOf v.b.toNat 7 0
  | _ => 0

/-- The destination that makes a command a store of a deterministic launch: entry, index and offset
(R232, R259). -/
def storeDest (i : Instr) (v : Vals) (en : Entries) : Option (Handle × Nat × Int) :=
  let f := i.fields
  match i with
  | .cpy _ => if f.x.getLsbD 0 then none else some (en.aux, eAux f, signed 64 v.d.toNat)
  | .scat _ => some (en.h, f.h.toNat, signed 64 v.d.toNat)
  | .accst _ => some (en.h, f.h.toNat, signed 64 v.a.toNat)
  | _ => none

/-- What the checks of a command come to. -/
inductive Plan where
  | trap (x : Trap)
  /-- The command, and the fault that a named entry's own translation raised. -/
  | ok (c : Command) (late : Option Draft)

/-- Makes the checks of R232, R258, R264 and of the command's own statement, in the order of R146; evalue of a group slot
of E is the slot number alone (DESIGN CHOICE, log entry 111). -/
def planCommand (s : State) (t : Team) (i : Instr) (v : Vals) (m : Mask) (rank : Nat) (pc : Pc)
    (nmode : Word) : State × Plan :=
  let f := i.fields
  match takeEntries s t i m with
  | (s, .error x) => (s, .trap x)
  | (s, .ok (en, late)) =>
    let trap := fun (cause opnd value : Nat) => Plan.trap { cause, opnd, lanes := m, value }
    if hasScope i && xScope f == 2 && (s.groupAt t (eGs f)).isNone then (s, trap 4 6 (eGs f))
    else
      match (nameBad t i).orElse fun _ => scalarBad i v with
      | some (opnd, value) => (s, trap 4 opnd value)
      | none =>
        match tileTagBad t i with
        | some (opnd, tag) => (s, trap 5 opnd tag)
        | none =>
          if alignBad i v then (s, trap 7 0 0)
          else
            (s, .ok
              { inst := i, rank, pc, valD := v.d, valA := v.a, valB := v.b, valC := v.c
                entH := en.h, entAux := en.aux, entP := en.p, nmode, shard := en.h.shardVer
                count := cmdCount i v, bitmap := 0, added := 0, headerDone := false, seed := 0
                stale := false, node := none, fault := none, order := 0, party := 0, vc := [] } late)

/-- Names of tiles and slots with whether they are written (R276). -/
def granuleUses (i : Instr) : List (LocKind × Nat × Bool) :=
  ((slotsRead i).filter fun k => !(slotsWritten i).contains k).map (fun k => (LocKind.slot, k, false))
    ++ (slotsWritten i).map (fun k => (LocKind.slot, k, true))
    ++ (cmdTile i).toList.map fun k => (LocKind.tile, k, writesTile i)

/-- Tests and records accesses of tiles and slots (R276): another braid's access of the granule, one of
the two a write, that no synchronisation orders. -/
def testNames (s : State) (t : Team) (x : Accessor) : List (LocKind × Nat × Bool) → Except Shadow State
  | [] => .ok s
  | (k, n, w) :: rest =>
    let hit := s.shadow.find? fun e =>
      e.kind == k && e.id == t.uid && e.granule == n && e.rank != x.rank && (e.write || w)
        && !x.vc.seen e.party e.epoch
    match hit with
    | some e => .error e
    | none =>
      let e := shadowOf s x (if w then .store else .load) k t.uid n 1
      testNames { s with shadow := e :: s.shadow.filter fun o => !e.covers o } t x rest

/-- The memory-model exception of R276; ADDR and INFO are not stated. -/
def nameRace (s : State) (e : Shadow) (m : Mask) : State × Draft :=
  ({ s with choices := s.choices + 2 }
    , { cause := 3, detail := 1, addr := (Config.unstated s.choices).toNat
        info := (Config.unstated (s.choices + 1)).toNat, party := e.word, coord := e.coord, lanes := m })

/-- Goes on with an instruction that names tiles and slots, or raises R276's exception. -/
def withNames (e : Env) (s : State) (uses : List (LocKind × Nat × Bool)) (k : State → Act) : Act :=
  match testNames s e.t e.accessor uses with
  | .ok s => k s
  | .error x =>
    let (s, d) := nameRace s x e.act
    .fault s d

/-- The store of a deterministic launch outside a turn, tested at issue (R45, R232); no turn is consulted in replay
(R390). -/
def issueTurn (s : State) (t : Team) (c : Command) (m : Mask) : Option Draft :=
  match storeDest c.inst ⟨c.valD, c.valA, c.valB, c.valC⟩ ⟨c.entH, c.entAux, c.entP⟩ with
  | none => none
  | some (h, hIdx, off) =>
    if t.replay.isNone && needsTurn s t h .store && !holdsTurn s t c.rank then
      let a := wrapInt 64 (Int.ofNat h.base + off)
      some { cause := 3, detail := 3, addr := a, handle := hIdx, lanes := m
             info := ((granules a 8).headD (0, 0)).2.toNat }
    else none

/-- Puts a command into the lowest free tracker (R64, R232); none while all are busy. -/
def startCommand (s : State) (uid : Nat) (c : Command) (vc : Clocks) : Option (State × Nat) :=
  match s.team? uid with
  | none => none
  | some t =>
    let k := t.trackers.findIdx (·.isNone)
    if t.trackers.length ≤ k then none
    else
      let c := { c with order := t.issued, party := engineParty s.parties 0, vc }
      let s := { s with parties := s.parties + 1 }
      some (s.modTeam uid fun t =>
        { t with
          trackers := t.trackers.set k (some c), issued := t.issued + 1
          tileTags := match cmdTile c.inst with
            | some n => if writesTile c.inst then t.tileTags.set n 10 else t.tileTags
            | none => t.tileTags }, k)

/-- What precedes a command in program order: every access of the issuing braid so far (R232, R282). -/
def Env.clocks (e : Env) : Clocks := allLanes.foldl (fun (c : Clocks) l => c.join (e.b.lane l).vc) []

/-- Issues a command (R231-R235, R258-R276): the braid waits for a tracker. -/
def issueCommand (e : Env) : Act :=
  match planCommand e.s e.t e.i (e.b.vals e.i) e.act e.rank e.pc e.b.nmode with
  | (s, .trap x) => .trapAt s x
  | (s, .ok _ (some d)) => .fault s { d with lanes := e.act }
  | (s, .ok c none) =>
    match issueTurn s e.t c e.act with
    | some d => .fault s d
    | none =>
      if c.count == 0 then .go s
      else
        withNames e s (granuleUses e.i) fun s =>
          match startCommand s e.t.uid c e.clocks with
          | none => .wait e.s e.act .plain
          | some (s, _) => .go s

/-! Memory traffic of elements -/

/-- A run of bytes under a handle that an element reads or writes. -/
structure Seg where
  h : Handle
  hIdx : Nat
  off : Int
  n : Nat
deriving DecidableEq, Repr

/-- The team's own scratchpad as a handle's level (R118). -/
def scratchHandle (t : Team) : Handle :=
  { Handle.none with space := 2, bound := t.scrGran * 4096, base := 0, bad := false }

/-- Cuts a run where its level address crosses 4 KiB: pages, window parts and chip-scratchpad parts
begin there (R119, R121, R122). -/
def cutSeg : Nat → Seg → List Seg
  | 0, g => [g]
  | fuel + 1, g =>
    let a := Int.ofNat g.h.base + g.off
    let k := 4096 - (a % 4096).toNat
    if g.n ≤ k then [g]
    else { g with n := k } :: cutSeg fuel { g with off := g.off + Int.ofNat k, n := g.n - k }

/-- The accessor of an element of a command, or of its credit (R279, R289). -/
def cmdAccessor (s : State) (t : Team) (trk elem : Nat) (c : Command) : Accessor :=
  let p := c.party + 2 * (elem % 64)
  { party := p, self := p, vc := elementClocks c.vc c.party elem, uid := t.uid, rank := c.rank, launch := t.launch
    index := t.index, core := t.core, since := t.since, coord := s.coordOf t, engine := true, remote := false
    trk := if trk < 8 then trk else 0, keys := teamKeys s t.launch t.index, under := none, part := t.part }

/-- Checks one piece (R233, R238, R290). -/
def checkPiece (s : State) (t : Team) (x : Accessor) (u : Use) (g : Seg) : Got Spot :=
  if t.replay.isSome && 3 ≤ g.h.space then (s, replaySpot g.h g.hIdx g.off g.n)
  else
    match resolve s t g.h g.hIdx 0 g.off g.n u.kind with
    | (s, .error d) => (s, .error d)
    | (s, .ok sp) =>
      match checkModel s t x u sp false with
      | (s, .error d) => (s, .error d)
      | (s, .ok ()) =>
        match probe s t.part u sp with
        | (s, .error d) => (s, .error d)
        | (s, .ok ()) => (s, .ok sp)

def checkPieces (t : Team) (x : Accessor) (u : Use) : List Seg → State → Got (List Spot)
  | [], s => (s, .ok [])
  | g :: gs, s =>
    match checkPiece s t x u g with
    | (s, .error d) => (s, .error d)
    | (s, .ok sp) =>
      match checkPieces t x u gs s with
      | (s, .error d) => (s, .error d)
      | (s, .ok sps) => (s, .ok (sp :: sps))

/-- Pieces of runs. -/
def pieces (gs : List Seg) : List Seg := gs.flatMap fun g => cutSeg (g.n / 4096 + 2) g

/-- How an element's traffic stands. -/
inductive Flow (α : Type) where
  | done (v : α)
  /-- Replies are outstanding, or a replayed element does not come next. -/
  | pending
  | fault (d : Draft)

/-- The replies of an element's requests to other devices, in the order of their tags. -/
def elemPend (t : Team) (trk elem : Nat) : List PendE := t.pendE.filter fun p => p.trk == trk && p.elem == elem
def dropPend (s : State) (uid trk elem : Nat) : State :=
  s.modTeam uid fun t => { t with pendE := t.pendE.filter fun p => !(p.trk == trk && p.elem == elem) }

/-- Sends one request of an element (R119, R233). -/
def sendElem (t : Team) (c : Command) (trk elem : Nat) (s : State) (sp : Spot) (r : FabRecord) : State :=
  match sp.place with
  | .peer dst _ a =>
    let (s, tag) := newTag s t.uid 0
    let g := windowGroup s t sp.h
    let r := { r with tag, peerH := windowPeer, offset := Int.ofNat a
                      gang := (g.map (·.gang)).getD 0, peers := (g.map (·.peers)).getD 0 }
    let s := postRecord s t.part dst r
    let tx : Tx := { tag, uid := t.uid, rank := c.rank, lane := 0, need := 1, got := 0, record := r, dst }
    let pend : PendE := { trk, elem, tag, reply := none }
    State.modTeam { s with txs := s.txs ++ [tx] } t.uid fun u => { u with pendE := u.pendE ++ [pend] }
  | _ => s

/-- The pieces that lie on other devices. -/
def farSpots (sps : List Spot) : List Spot := sps.filter fun sp =>
  match sp.place with
  | .peer _ _ _ => true
  | _ => false

/-- The first refusal among replies, with its piece. -/
def farFault (sps : List Spot) (ps : List PendE) : Option Draft :=
  (sps.zip ps).findSome? fun (sp, p) =>
    match p.reply, sp.place with
    | some (_, code), .peer dst rank _ =>
      if code == 0 then none else some (peerDraft code dst rank sp.hIdx sp.group sp.addr 0)
    | _, _ => none

/-- The party is a work entry, which reads its buffer at the ordering point (R301, R303). -/
def Command.ofEntry (c : Command) : Bool :=
  match c.inst with
  | .nop _ => true
  | _ => false

/-- Reads the pieces in order: local ones now, the others from their replies. -/
def readPieces (t : Team) (c : Command) : List Spot → List PendE → State → List Byte → State × Flow (List Byte)
  | [], _, s, acc => (s, .done acc)
  | sp :: sps, ps, s, acc =>
    match sp.place with
    | .peer _ _ _ =>
      let bs := ((ps.head?.bind (·.reply)).map (·.1)).getD []
      readPieces t c sps (ps.drop 1) (logAbroad s t c.rank c.pc 0 sp bs) (acc ++ bs)
    | _ =>
      if t.replay.isSome && isShared s t sp then
        match replayRead t.uid c.rank c.pc.toNat 0 sp.hIdx (sp.n / 64 + 2) (sp.addr - sp.h.base) sp.n s [] with
        | (s, .ok bs) => readPieces t c sps ps s (acc ++ bs)
        | (s, .error true) => (diverge s t 1 c.rank c.pc 0, .pending)
        | (s, .error false) => (s, .pending)
      else
        let s := logLines s t c.rank c.pc 0 sp
        let (s, bs) := readSpot s t.core t.uid c.rank sp c.ofEntry (!c.ofEntry)
        readPieces t c sps ps s (acc ++ bs)

/-- Writes bytes to the local pieces in order (R233). -/
def writePieces (t : Team) (c : Command) : List Spot → List Byte → State → State
  | [], _, s => s
  | sp :: sps, bs, s =>
    let s := match sp.place with
      | .peer _ _ _ => s
      | _ =>
        if t.replay.isSome && isShared s t sp then s
        else settleRels (writeSpot s t.core t.uid c.rank sp (bs.take sp.n)) sp .store []
    writePieces t c sps (bs.drop sp.n) s

/-- The request that writes a piece on another device, with its bytes. -/
def sendWrites (t : Team) (c : Command) (trk elem : Nat) : List Spot → List Byte → State → State
  | [], _, s => s
  | sp :: sps, bs, s =>
    let s := match sp.place with
      | .peer _ _ a =>
        let data := bs.take sp.n
        sendElem t c trk elem s sp
          { baseRecord s t .store with
            ret := true, data, check := sourceCheck data (Int.ofNat a)
            origin := originOf s (cmdAccessor s t trk elem c) false [] }
      | _ => s
    sendWrites t c trk elem sps (bs.drop sp.n) s

/-- Moves the bytes of an element (R233): every piece is checked before any is performed; pieces on
other devices go out as requests, reads before writes, and the element lands when all are answered. -/
def moveElement (s : State) (t : Team) (trk elem : Nat) (c : Command) (from_ to_ : List Seg)
    (out : List Byte → List Byte) : State × Flow (List Byte) :=
  let x := cmdAccessor s t trk elem c
  let keep := s.shadow
  let fail := fun (s : State) (d : Draft) =>
    (dropPend { s with shadow := keep } t.uid trk elem, Flow.fault d)
  match checkPieces t x .load (pieces from_) s with
  | (s, .error d) => fail s d
  | (s, .ok rs) =>
    match checkPieces t x .store (pieces to_) s with
    | (s, .error d) => fail s d
    | (s, .ok ws) =>
      let got := elemPend t trk elem
      let nr := (farSpots rs).length
      let nw := (farSpots ws).length
      let waits := got.any fun p => p.reply.isNone
      if got.length < nr then
        ((farSpots rs).foldl (fun s sp =>
          sendElem t c trk elem s sp { baseRecord s t .load with count := sp.n, origin := originOf s x false [] }) s, .pending)
      else if waits then (s, .pending)
      else
        match farFault (farSpots rs ++ farSpots ws) got with
        | some d => fail s d
        | none =>
          match readPieces t c rs got s [] with
          | (s, .fault d) => (s, .fault d)
          | (s, .pending) => (s, .pending)
          | (s, .done bs) =>
            if nr + nw != got.length then (sendWrites t c trk elem ws (out bs) s, .pending)
            else (writePieces t c ws (out bs) (dropPend s t.uid trk elem), .done bs)

/-! Element faults, credits and the end of a command -/

def State.modCmd (s : State) (uid trk : Nat) (g : Command → Command) : State :=
  s.modTeam uid fun t => { t with trackers := t.trackers.modify trk fun o => o.map g }

/-- Other elements of the command wait for replies: what they have started is completed before a fault is reported
(R238). -/
def Team.othersOut (t : Team) (trk elem : Nat) : Bool :=
  t.pendE.any (fun p => p.trk == trk && p.elem != elem && p.reply.isNone)

/-- A GMMA has landed the group that is added next (R267). -/
def Command.owes (c : Command) : Bool :=
  match c.inst with
  | .gmma _ => c.added < c.count && c.bitmap.getLsbD c.added
  | _ => false

/-- A fault on an element (R238, R360): one record at a time, once the groups that have landed before it are added
(R274). -/
def elementFault (s : State) (uid trk elem : Nat) (d : Draft) : State :=
  match s.team? uid with
  | none => s
  | some t =>
    match t.trackers.getD trk none with
    | none => s
    | some c => if c.fault.isSome || c.owes then s else s.raiseFault t (.element c.rank trk elem) d

/-- An element that cannot be performed (R238): nothing changes while others of the command complete what they have
started; then its fault is reported. -/
def stopElement (before after : State) (t : Team) (trk elem : Nat) (d : Draft) : State :=
  if t.othersOut trk elem || ((t.trackers.getD trk none).any (·.owes)) then before
  else elementFault { after with shadow := before.shadow } t.uid trk elem d

/-- Bit field of a node record (R240). -/
def nodeBits (t : Team) (off hi lo : Nat) : Nat := bitsOf (t.scratch.nat off 64) hi lo
/-- A record's bits replaced. -/
def setNode (t : Team) (off hi lo v : Nat) : Team :=
  let n := t.scratch.nat off 64
  let w := n % 2 ^ lo + v % 2 ^ (hi + 1 - lo) * 2 ^ lo + n / 2 ^ (hi + 1) * 2 ^ (hi + 1)
  { t with scratch := t.scratch.putNat off 64 w }

/-- The record lies in the team's scratchpad. -/
def nodeIn (t : Team) (off : Nat) : Bool := off + 64 ≤ t.scrGran * 4096

/-- The engine adds a release to what a node's record carries (R241, R282). -/
def nodeRelease (s : State) (uid off : Nat) (rels : List Release) : State :=
  publish s (.scratch uid off) 64 (relsAt s (.scratch uid off) 64 ++ rels)

/-- The bytes of a node record as a place (R240). -/
def nodeSpot (t : Team) (off : Nat) : Spot :=
  { place := .scratch t.uid off, addr := off, h := scratchHandle t, hIdx := 0, group := 0, n := 64 }

/-- DGN and DGL come before the engine's next access of a record that they have accessed (R240). -/
def noteNode (s : State) (t : Team) (rank : Nat) (vc : Clocks) (off : Nat) : State :=
  { s with locRels := { kind := .node, id := t.uid, addr := off, len := 64, rels := [mkRelease t rank vc 1 0] } ::
      s.locRels }

/-- What comes before the engine's access of a record, beside its command's own order. -/
def nodeOrder (s : State) (uid off : Nat) : Clocks :=
  (s.locRels.filter fun r => r.overlaps .node uid off 64).foldl
    (fun c r => r.rels.foldl (fun c r => c.join r.vc) c) []

/-- A predecessor of a node is done (R243): COUNT loses one, unless it is zero, and a held node whose
count reaches zero becomes ready. -/
def decrementNode (s : State) (uid off : Nat) (rels : List Release) : State :=
  match s.team? uid with
  | none => s
  | some t =>
    let n := nodeBits t off 415 384
    if !nodeIn t off || n == 0 then s
    else
      let s := nodeRelease s uid off rels
      s.modTeam uid fun t =>
        let t := setNode t off 415 384 (n - 1)
        if n == 1 && nodeBits t off 418 416 == 1 then
          { t with nodes := t.nodes.map fun h => if h.off == off then { h with ready := true } else h }
        else t

/-- Offsets of the successors of a node, SUCC0 first (R240). -/
def successors (t : Team) (off : Nat) : List Nat :=
  (List.range 4).filterMap fun k =>
    let v := nodeBits t off (463 + 16 * k) (448 + 16 * k)
    if v == 0 then none else some ((v - 1) * 64)

/-- The node of a completed command (R243). -/
def finishNode (s : State) (uid off : Nat) (rels : List Release) : State :=
  let s := nodeRelease (s.modTeam uid fun t => setNode t off 418 416 3) uid off rels
  match s.team? uid with
  | none => s
  | some t => (successors t off).foldl (fun s o => decrementNode s uid o rels) s

/-- The end of a command of a team whose braids have exited (R35, R38). -/
def commandOver (s : State) (uid : Nat) : State :=
  settleExit s uid (fun i => (cmdTile i).isSome) fun i => !(slotsNamed i).isEmpty

/-- A command completes and frees its tracker (R236, R243). -/
def completeCommand (s : State) (uid trk : Nat) (c : Command) : State :=
  let s := s.modTeam uid fun t =>
    { t with trackers := t.trackers.set trk none, pendE := t.pendE.filter fun p => p.trk != trk }
  commandOver
    (match s.team? uid, c.node with
     | some t, some off => finishNode s uid off [mkRelease t c.rank (commandClocks c.vc c.party c.count) 1 0]
     | _, _ => s) uid

/-- Abandons a phase object (R38, R203, R238): BROKEN is set where it can be reached. -/
def abandonPhase (s : State) (t : Team) (c : Command) : State :=
  if !credits c.inst || c.entP.bad then s
  else
    match phaseSpot s t c.entP (ePhh c.inst.fields) (Int.ofNat (c.valC.toNat % 2 ^ 48)) with
    | .error _ => s
    | .ok sp =>
      match sp.place with
      | .peer dst _ a =>
        let (s, tag) := newTag s t.uid 0
        let g := windowGroup s t sp.h
        postRecord s t.part dst { baseRecord s t .atomic with
          tag, op := 10, ret := true, peerH := windowPeer, offset := Int.ofNat a
          gang := (g.map (·.gang)).getD 0, peers := (g.map (·.peers)).getD 0 }
      | _ => if t.replay.isSome && isShared s t sp then s else breakPhase s sp

/-- A command is cancelled (R238, R243): its phase object is abandoned, its node fails, its tracker is
free. -/
def cancelCommand (s : State) (uid trk : Nat) : State :=
  match s.team? uid with
  | none => s
  | some t =>
    match t.trackers.getD trk none with
    | none => s
    | some c =>
      let s := abandonPhase s t c
      commandOver
        (s.modTeam uid fun t =>
          let t := { t with trackers := t.trackers.set trk none, pendE := t.pendE.filter fun p => p.trk != trk }
          match c.node with
          | some off => setNode t off 418 416 4
          | none => t) uid

/-- Reads again the entries that a start could not read, or that a settled fault has let change (R113, R238, R361).
Where one is malformed, the phase object's entry is still read, so that the object can be abandoned. -/
def reread (s : State) (t : Team) (trk : Nat) (c : Command) : State × Except (Option Draft) Command :=
  let late := ((handleSpaces c.inst).isSome && c.entH.bad) || (hasAux c.inst && c.entAux.bad)
    || (credits c.inst && c.entP.bad)
  if !late then (s, .ok c)
  else
    match takeEntries s t c.inst 0 ⟨c.entH, c.entAux, c.entP⟩ with
    | (s, .ok (_, some d)) => (s, .error (some d))
    | (s, .ok (en, none)) =>
      (s, .ok { c with entH := en.h, entAux := en.aux, entP := en.p, shard := en.h.shardVer })
    | (s, .error _) =>
      match orTake c.entP (takePhase s t c.inst 0) s with
      | (s, .ok (p, _)) => (s.modCmd t.uid trk fun c => { c with entP := p }, .error none)
      | (s, .error _) => (s, .error none)

/-- Reads the headers of a command's handles and makes the shard check (R126, R129, R238, R272). The
version compared is that of the entry as read last; of the two handles of CPY H comes first and is the one whose
version the tracker records (log entry 84). -/
def readHeaders (t : Team) (c : Command) : List (Handle × Nat) → State → State × Except Draft Command
  | [], s => (s, .ok c)
  | (h, hIdx) :: rest, s =>
    if h.hdr == 0 then readHeaders t c rest s
    else
      match readHeader s t h hIdx with
      | (s, .error d) => (s, .error d)
      | (s, .ok hd) =>
        if hd.bad then (s, .error { cause := 8, detail := 0, handle := hIdx, addr := h.hdr.toNat })
        else
          let c := match c.inst with
            | .hadt _ => { c with seed := hd.seed }
            | _ => c
          if hd.shardVer == h.shardVer || c.bitmap != 0 then readHeaders t c rest s
          else if h.stale then readHeaders t { c with stale := true } rest s
          else
            (s, .error { cause := 6, detail := 0, info := hd.shardVer.toNat, handle := hIdx
                         addr := h.hdr.toNat })

/-- The scope and group of ACQ and REL (R231). -/
def cmdGroup (s : State) (t : Team) (c : Command) : Nat :=
  if xScope c.inst.fields == 2 then ((s.groupAt t (eGs c.inst.fields)).map (·.index)).getD 0 else 0

/-- ACQ of a command (R231, R258): the statements that have it. -/
def cmdAcq (c : Command) : Bool := hasScope c.inst && c.inst.fields.x.getLsbD 7
def cmdRel (c : Command) : Bool :=
  match c.inst with
  | .cpy f | .gath f | .scat f | .accst f => f.x.getLsbD 6
  | _ => false

/-- What happens before a command's first element, and again when it resumes (R233, R236, R238, R272):
none where the command was cancelled or has a fault on element 0. -/
def beginCommand (s : State) (uid trk : Nat) : State × Option (Team × Command) :=
  match s.team? uid with
  | none => (s, none)
  | some t =>
    match t.trackers.getD trk none with
    | none => (s, none)
    | some c =>
      if c.headerDone then (s, some (t, c))
      else
        match reread s t trk c with
        | (s, .error none) => (cancelCommand s uid trk, none)
        | (s, .error (some d)) => (elementFault s uid trk 0 d, none)
        | (s, .ok c) =>
          match readHeaders t c [(c.entH, c.inst.fields.h.toNat), (c.entAux, eAux c.inst.fields)] s with
          | (s, .error d) => (elementFault (s.modCmd uid trk fun _ => c) uid trk 0 d, none)
          | (s, .ok c) =>
            let c := { c with headerDone := true }
            let s := if cmdAcq c then s.acquire t c.rank 0 [] (xScope c.inst.fields) (cmdGroup s t c) (some c.pc) else s
            let s := s.modCmd uid trk fun _ => c
            (s, (s.team? uid).map fun t => (t, c))

/-- The releases that a credit performs (R236, R282): of its own element's writes at the level scope, or with REL of
every element's, at SCOPE too. -/
def creditRels (s : State) (t : Team) (c : Command) (elem : Nat) (h : Handle) : List Release :=
  if cmdRel c then
    let vc := commandClocks c.vc c.party c.count
    [mkRelease t c.rank vc h.scope h.wgroup, mkRelease t c.rank vc (xScope c.inst.fields) (cmdGroup s t c)]
  else [mkRelease t c.rank (elementClocks c.vc c.party elem) h.scope h.wgroup]

/-- The status word that follows a phase object (R237). -/
def statusSpot (sp : Spot) : Spot :=
  { sp with
    n := 8, addr := sp.addr + 16
    place := match sp.place with
      | .scratch u a => .scratch u (a + 16)
      | .chip a => .chip (a + 16)
      | p => p }

/-- The status word receives its bit (R237). -/
def markStale (s : State) (sp : Spot) : State :=
  let w := statusSpot sp
  writeSpot s 0 0 0 w (leBytes 8 (Nat.lor (leNat (readSpot s 0 0 0 w true false).2) 1))

/-- The model check and the ECC check of some synchronising accesses of an element. -/
def checkSyncs (t : Team) (x : Accessor) : List Spot → State → Got Unit
  | [], s => (s, .ok ())
  | sp :: sps, s =>
    match checkModel s t x .rmw sp false with
    | (s, .error d) => (s, .error d)
    | (s, .ok ()) =>
      match probe s t.part .rmw sp with
      | (s, .error d) => (s, .error d)
      | (s, .ok ()) => checkSyncs t x sps s

/-- The phase object of a command, and the synchronising accesses that a credit makes to it and, where it is the final
one of a stale command, to the status word (R233, R236, R237, R279); none where there is nothing to do. -/
def creditSpot (s : State) (t : Team) (trk elem : Nat) (c : Command) (final : Bool) : Got (Option Spot) :=
  if !credits c.inst then (s, .ok none)
  else
    match phaseSpot s t c.entP (ePhh c.inst.fields) (Int.ofNat (c.valC.toNat % 2 ^ 48)) with
    | .error d => (s, .error d)
    | .ok sp =>
      if t.replay.isSome && isShared s t sp then (s, .ok none)
      else
        match sp.place with
        | .peer _ _ _ => (s, .ok (some sp))
        | _ =>
          match checkSyncs t (cmdAccessor s t trk elem c) (sp :: if final && c.stale then [statusSpot sp] else []) s with
          | (s', .error d) => ({ s' with shadow := s.shadow }, .error d)
          | (s', .ok ()) => (s', .ok (some sp))

/-- Makes a checked credit (R236, R237); a refused one breaks the object. -/
def makeCredit (s : State) (t : Team) (trk elem : Nat) (c : Command) (sp : Spot) (bytes : Nat) (final : Bool) : State :=
  let b := c.valC.toNat / 2 ^ 48
  match sp.place with
  | .peer _ _ _ =>
    sendElem t c trk (64 + elem) s sp { baseRecord s t .atomic with
      op := 9, ret := true, origin := originOf s (cmdAccessor s t trk elem c) true (creditRels s t c elem sp.h)
      data := leBytes 8 b ++ leBytes 8 bytes ++ leBytes 8 (bit (final && c.stale)) }
  | _ =>
    let s := if final && c.stale then markStale s sp else s
    match arrivePhase s sp b 0 (Int.ofNat bytes) (creditRels s t c elem sp.h) with
    | .error _ => breakPhase s sp
    | .ok s => s

/-- Credits bytes to a command's phase object (R236, R237). -/
def creditPhase (s : State) (t : Team) (trk elem : Nat) (c : Command) (bytes : Nat) (final : Bool) : Got Unit :=
  match creditSpot s t trk elem c final with
  | (s, .error d) => (s, .error d)
  | (s, .ok none) => (s, .ok ())
  | (s, .ok (some sp)) => (makeCredit s t trk elem c sp bytes final, .ok ())

/-- Every element has been written. -/
def Command.full (c : Command) : Bool := (List.range c.count).all fun k => c.bitmap.getLsbD k

/-- The credits that REL withheld, in ascending element order (R236): the first is checked for all of them. -/
def creditAll (t : Team) (trk : Nat) (c : Command) (bytes : Nat → Nat) (s : State) : Got Unit :=
  match creditSpot s t trk 0 c true with
  | (s, .error d) => (s, .error d)
  | (s, .ok none) => (s, .ok ())
  | (s, .ok (some sp)) =>
    ((List.range c.count).foldl (fun s k => makeCredit s t trk k c sp (bytes k) (k + 1 == c.count)) s, .ok ())

/-- Every element has been written and, of a GMMA, every group added (R267). -/
def Command.finished (c : Command) : Bool :=
  c.full && match c.inst with
    | .gmma _ => c.count ≤ c.added
    | _ => true

/-- The checks of the engine's synchronising accesses to some node records (R240, R290, R363). -/
def checkNodes (t : Team) (trk elem : Nat) (c : Command) : List Nat → State → Got Unit
  | [], s => (s, .ok ())
  | off :: offs, s =>
    let x := cmdAccessor s t trk elem c
    match checkSyncs t { x with vc := x.vc.join (nodeOrder s t.uid off) } [nodeSpot t off] s with
    | (s', .error d) => ({ s' with shadow := s.shadow }, .error d)
    | (s', .ok ()) => checkNodes t trk elem c offs s'

/-- The records that the end of a command writes: its node's, and those of the node's successors (R243). -/
def endNodes (t : Team) (c : Command) : List Nat :=
  match c.node with
  | some off => off :: (successors t off).filter fun o => o != off && nodeIn t o
  | none => []

/-- A command whose elements are all written: its node records are checked, the credits that were withheld are made,
and it ends once no request of it is outstanding (R236, R243). -/
def endCommand (s : State) (uid trk : Nat) (bytes : Nat → Nat) : State :=
  match s.team? uid with
  | none => s
  | some t =>
    match t.trackers.getD trk none with
    | none => s
    | some c =>
      if !c.finished then s
      else
        match checkNodes t trk (c.count - 1) c (endNodes t c) s with
        | (s, .error d) => elementFault s uid trk (c.count - 1) d
        | (s, .ok ()) =>
          let mine := t.pendE.filter fun p => p.trk == trk
          match if cmdRel c && mine.isEmpty then creditAll t trk c bytes s else (s, .ok ()) with
          | (s, .error d) => elementFault s uid trk 0 d
          | (s, .ok ()) =>
            match s.team? uid with
            | none => s
            | some t =>
              if t.pendE.any fun p => p.trk == trk && p.reply.isNone then s else completeCommand s uid trk c

/-- An element has been written in full (R233): its bit, its credit, and the command's end. -/
def landElement (s : State) (uid trk elem : Nat) (bytes : Nat → Nat) : State :=
  match s.team? uid with
  | none => s
  | some t =>
    match t.trackers.getD trk none with
    | none => s
    | some c =>
      let c' := { c with bitmap := c.bitmap ||| word (2 ^ elem) }
      let (s, r) := if cmdRel c then (s, .ok ()) else creditPhase s t trk elem c (bytes elem) c'.full
      match r with
      | .error d => elementFault s uid trk elem d
      | .ok () => endCommand (s.modCmd uid trk fun _ => c') uid trk bytes

/-- The team's commands run (R37, R343, R390): it is bound, and no stop holds it. -/
def Team.engineRuns (t : Team) : Bool :=
  match t.status with
  | .running | .heldExit | .exiting => !t.dbgStopped && t.stop != .held
  | _ => false

/-- A debug stop has been requested or is in force: no further element, step or transfer starts (R384). -/
def Team.debugStopping (t : Team) : Bool :=
  t.dbgStopped || match t.stop with
    | .debug _ _ _ _ _ => true
    | _ => false

/-- A command may take a step on an element: it is in turn, the bit is clear, and no fault of the command is
outstanding unless the element has been started (R238). -/
def Team.canStep (t : Team) (trk elem : Nat) : Option Command :=
  match t.trackers.getD trk none with
  | none => none
  | some c =>
    if t.engineRuns && (!t.debugStopping || !(elemPend t trk elem).isEmpty) && t.inTurn c
        && (c.fault.isNone || !(elemPend t trk elem).isEmpty) && elem < c.count && !c.bitmap.getLsbD elem then some c
    else none

end Sys2Proof.Machine
end

