-- ==== Sys2Proof/Machine/Moves.lean ====
section
/-! DEFINITION. Moves and special registers (R63, R149, R185). -/

namespace Sys2Proof.Machine

/-- Grid indices of a linear index (R21). -/
def gridIndex (n : Launch) (index : Nat) : Nat × Nat × Nat :=
  (index % n.gridX, index / n.gridX % n.gridY, index / (n.gridX * n.gridY))

/-- Special register gslot (R63). -/
def gslotWord (s : State) (t : Team) : Nat :=
  let one := fun k => match s.groupAt t k with | some g => g.index + 256 | none => 0
  one 0 + 2 ^ 16 * one 1 + 2 ^ 32 * one 2 + 2 ^ 48 * one 3

/-- Special register carve (R63). -/
def carveWord (t : Team) : Nat :=
  t.vblk + 16 * t.scrGran + 2 ^ 14 * t.phTiles.length + 2 ^ 18 * bit t.carve.isSome

/-- Ranks in groups, all ones for an empty slot (R63). -/
def grankWord (s : State) (t : Team) (k : Nat) : Nat :=
  match s.groupAt t k with
  | some g => g.rank (s.coordOf t) t.index
  | none => 2 ^ 64 - 1

/-- A completion bitmap (R64). -/
def cbmWord (t : Team) (k : Nat) : Nat :=
  match t.trackers.getD k none with
  | some c => c.bitmap.toNat
  | none => 0

/-- The value of a special register in a lane (R63, R149); none for a number that is not listed. -/
def specialValue (e : Env) (num l : Nat) : Option Nat :=
  let n := e.s.launchOf e.t
  let grid := n.map fun n => gridIndex n e.t.index
  let p := e.b.pres
  if num < 0x10 || num == 0x10 || num == 0x11 then
    match num with
    | 0x00 => some (e.rank * 32 + l)
    | 0x01 => some l
    | 0x02 => some e.rank
    | 0x03 => some e.t.braids.length
    | 0x04 => some ((grid.map (·.1)).getD 0)
    | 0x05 => some ((grid.map (·.2.1)).getD 0)
    | 0x06 => some ((grid.map (·.2.2)).getD 0)
    | 0x07 => some e.t.index
    | 0x08 => some ((n.map (·.gridX)).getD 1)
    | 0x09 => some ((n.map (·.gridY)).getD 1)
    | 0x0A => some ((n.map (·.gridZ)).getD 1)
    | 0x0B => some e.t.core
    | 0x0C => some (e.s.teamReg e.t 0x0200 0 % 2 ^ 30)
    | 0x0D => some (gslotWord e.s e.t)
    | k => some (grankWord e.s e.t (k - 0x0E))
  else
    match num with
    | 0x12 => some (carveWord e.t)
    | 0x20 => some e.b.nmode.toNat
    | 0x21 => some e.b.path.toNat
    | 0x22 => some e.act.toNat
    | 0x30 => some p.ecause.toNat
    | 0x31 => some p.epc.toNat
    | 0x32 => some p.emask.toNat
    | 0x33 => some p.einst0.toNat
    | 0x34 => some p.einst1.toNat
    | 0x35 => some p.eop.toNat
    | 0x36 => some (p.eregs.getD l 0).toNat
    | 0x37 => some p.evalue.toNat
    | 0x38 => some p.enext.toNat
    | k =>
      if 0x39 ≤ k && k ≤ 0x3F then some 0
      else if 0x40 ≤ k && k ≤ 0x47 then some (cbmWord e.t (k - 0x40))
      else none

def execMov (f : Fields) (s : State) : Host.Outcome State Fault Refusal :=
  perform (.mov f) s fun e => .go (e.writeD e.srcA e.tagA)

def execMovi (f : Fields) (s : State) : Host.Outcome State Fault Refusal :=
  perform (.movi f) s fun e => .go (e.writeD (fun _ => immOperand f) fun _ => f.f)

/-- MFS (R185): a read of core or pmask is a logged value (R389). -/
def execMfs (f : Fields) (s : State) : Host.Outcome State Fault Refusal :=
  perform (.mfs f) s fun e =>
    if (specialValue e f.h.toNat 0).isNone then
      .trap { cause := 4, opnd := 5, lanes := e.act, value := f.h.toNat }
    else
      let value := fun (l : Nat) => word ((specialValue e f.h.toNat l).getD 0)
      if f.h.toNat == 0x0B || f.h.toNat == 0x22 then
        withReplay e [e.act] (fun s vs => .go (e.writeReg s f.kindD f.d (fun _ => word (vs.headD 0)) fun _ => 8)) <|
          .go (logValue e (e.writeD value fun _ => 8) f.h.toNat (value 0).toNat)
      else .go (e.writeD value fun _ => 8)

/-- MTS (R62, R185): nmode alone is writable, from the lowest active lane. -/
def execMts (f : Fields) (s : State) : Host.Outcome State Fault Refusal :=
  perform (.mts f) s fun e =>
    let v := e.srcA (Mask.lowest e.act)
    if f.h.toNat != 0x20 then .trap { cause := 4, opnd := 5, lanes := e.act, value := f.h.toNat }
    else if nmodeBad v then .trap { cause := 4, opnd := 2, lanes := e.act, value := v.toNat }
    else .go (s.modBraid e.t.uid e.rank fun b => { b with nmode := v })

end Sys2Proof.Machine
end

