-- ==== Sys2Proof/Machine/Image.lean ====
section
/-! DEFINITION. The bytes of a team: the braid area (R54), the context image (R67, R68, R239), reading an
image back and refusing one, fault records (R328), and core dumps (R364-R366). -/

namespace Sys2Proof.Machine

/-- A byte list filled with zeros, or cut, to a length. -/
def padTo (n : Nat) (bs : List Byte) : List Byte := bs.take n ++ List.replicate (n - bs.length) 0

/-! Writing -/

/-- Format tags of a lane, two to a byte (R54). -/
def tagBytes (x : Lane) : List Byte :=
  (List.range 64).map fun k => BitVec.ofNat 8 ((x.vtag (2 * k)).toNat + 16 * (x.vtag (2 * k + 1)).toNat)

/-- The braid area (R54). -/
def braidArea (b : Braid) : List Byte :=
  let lanes := fun (g : Lane → List Byte) => allLanes.flatMap fun l => g (b.lane l)
  padTo 0x400
      (padTo 512 (b.s.flatMap fun w => leBytes 8 w.toNat)
        ++ lanes (fun x => leBytes 4 x.pc.toNat)
        ++ lanes (fun x => [x.preds ||| 1])
        ++ leBytes 8 b.nmode.toNat ++ leBytes 4 b.path.toNat ++ leBytes 4 b.liveMask.toNat
        ++ padTo 16 (b.mt0.map fun k => BitVec.ofNat 8 k) ++ padTo 16 (b.mt1.map fun k => BitVec.ofNat 8 k)
        ++ lanes (fun x => [BitVec.ofNat 8 x.depth])
        ++ leBytes 4 (bit b.meld))
    ++ lanes tagBytes
    ++ lanes (fun x => padTo 64 (x.stack.flatMap fun p => leBytes 4 p.toNat))
    ++ lanes (fun x => padTo 96 x.priv)

/-- The vector area (R53). -/
def vectorArea (t : Team) (b : Braid) : List Byte :=
  (List.range t.nv).flatMap fun n => allLanes.flatMap fun l => leBytes 8 ((b.lane l).vreg n).toNat

/-- A tracker in the team area (R68, R239). -/
def trackerBytes (o : Option Command) : List Byte :=
  match o with
  | none => List.replicate 64 0
  | some c =>
    leBytes 8 c.bitmap.toNat ++ leBytes 16 (encode c.inst).toNat
      ++ [c.valD, c.valA, c.valB, c.valC, c.shard].flatMap fun w => leBytes 8 w.toNat

/-- Bits 0 and 1 of the Hitch word (R68): the team holds a turn; every turn of it is over. -/
def hitchWord (s : State) (t : Team) : Nat :=
  match s.launchOf t with
  | none => 0
  | some n =>
    let ids := (List.range t.braids.length).map (logicalId t.index)
    bit (n.hitchHeld && ids.contains n.hitchNow) + 2 * bit (n.det && ids.all n.turnSpent)

/-- The team area (R68). -/
def teamArea (s : State) (t : Team) : List Byte :=
  padTo 4096
    (padTo 512 (t.k.flatMap fun w => leBytes 8 w.toNat)
      ++ padTo 512 (t.trackers.flatMap trackerBytes)
      ++ leBytes 4 (carveWord t)
      ++ leBytes 4 ((t.carve.map fun c => c.1 + 16 * c.2 + 2 ^ 31).getD 0)
      ++ leBytes 8 (gslotWord s t)
      ++ leBytes 4 (2 ^ t.tiles.length - 1)
      ++ leBytes 4 (t.tileTags.zipIdx.foldl (fun n x => n + x.1.toNat * 16 ^ x.2) 0)
      ++ leBytes 8 (bitsWord (t.slots.map (·.1))).toNat
      ++ leBytes 8 t.index ++ leBytes 8 (s.doneRecOf t) ++ leBytes 8 (hitchWord s t))

/-- The context image (R67). -/
def imageBytes (s : State) (t : Team) : List Byte :=
  teamArea s t
    ++ (t.braids.flatMap fun b => braidArea b ++ vectorArea t b)
    ++ t.scratch.read 0 (4096 * t.scrGran)
    ++ (t.tiles.flatMap fun m => m.read 0 16384)
    ++ ((List.range 64).filterMap fun k => (t.slots.find? fun x => x.1 == k).map (·.2)).flatMap fun m => m.read 0 8192

/-- Its length, for a team of this shape with this many slots. -/
def imageLen (t : Team) (slots : Nat) : Nat :=
  4096 + t.braids.length * (8192 + 2048 * (t.vblk + 1)) + 4096 * t.scrGran + 16384 * t.tiles.length + 8192 * slots

/-! Reading -/

/-- A number of n bytes at an offset of an image. -/
def imgNat (m : Memory) (off n : Nat) : Nat := m.nat off n

/-- A byte range is zero. -/
def imgZero (m : Memory) (lo hi : Nat) : Bool := !(m.any fun c => lo ≤ c.1 && c.1 < hi)

/-- Where the braid block of a rank begins in an image. -/
def blockAt (t : Team) (rank : Nat) : Nat := 4096 + rank * (8192 + 2048 * (t.vblk + 1))

/-- A reserved byte of an image is set (R68), or, by the model's choice (log 83), a reserved bit inside a listed
field. -/
def imageReserved (m : Memory) (t : Team) : Bool :=
  !imgZero m 0x438 4096 || 2 ^ 19 ≤ imgNat m 0x400 4 || bitsOf (imgNat m 0x404 4) 30 14 != 0
    || 2 ^ 8 ≤ imgNat m 0x410 4 || 4 ≤ imgNat m 0x430 8
    || (List.range t.braids.length).any fun r =>
        let at_ := blockAt t r
        !imgZero m (at_ + 0x2F4) (at_ + 0x400) || 2 ≤ imgNat m (at_ + 0x2F0) 4

/-- A braid area breaks a limit of R54 (R68); by the model's choice (log 83) the reserved bits of NMODE are part of
its limit. -/
def imageLimits (m : Memory) (t : Team) : Bool :=
  (List.range t.braids.length).any fun r =>
    let at_ := blockAt t r
    allLanes.any (fun l => 16 < imgNat m (at_ + 0x2D0 + l) 1)
      || nmodeBad (word (imgNat m (at_ + 0x2A0) 8))
      || (List.range 32).any fun k => 128 ≤ imgNat m (at_ + 0x2B0 + k) 1

/-- A braid is melded while its lanes stand at different places (R86). -/
def imageMeld (m : Memory) (t : Team) : Bool :=
  (List.range t.braids.length).any fun r =>
    let at_ := blockAt t r
    let live := allLanes.filter fun l => bitAt (imgNat m (at_ + 0x2AC) 4) l
    let pcs := live.map fun l => imgNat m (at_ + 0x200 + 4 * l) 4
    bitAt (imgNat m (at_ + 0x2F0) 4) 0 && pcs.any fun p => p != pcs.headD 0

/-- The instruction of a tracker's record, where it is a command (R239). -/
def recordInstr (raw : Nat) : Option Instr :=
  match decodeBits (BitVec.ofNat 128 raw) with
  | .ok i =>
    match i with
    | .cpy _ | .gath _ | .scat _ | .mma _ | .gmma _ | .accwr _ | .accst _ | .hadt _ | .qtile _ => some i
    | _ => none
  | .error _ => none

/-- HADT reads its header again whenever it resumes (R272). -/
def isHadt : Instr → Bool
  | .hadt _ => true
  | _ => false

/-- GMMA adds its groups as they land: its next group is the count of leading set bits (R267, R274). -/
def isGmma : Instr → Bool
  | .gmma _ => true
  | _ => false

/-- A tracker of an image: free, a command with its saved bitmap, or one that would not pass R232. What
the record has no place for comes from the tracker as the saved team had it, where that is the same
command. -/
def readTracker (s : State) (t : Team) (m : Memory) (k : Nat) : Except Unit (Option Command) :=
  let at_ := 0x200 + 64 * k
  let num := fun (o : Nat) => imgNat m (at_ + o) 8
  if imgZero m (at_ + 8) (at_ + 64) then .ok none
  else
    match recordInstr (imgNat m (at_ + 8) 16) with
    | none => .error ()
    | some i =>
      let v : Vals := ⟨word (num 24), word (num 32), word (num 40), word (num 48)⟩
      match planCommand s t i v 0 0 0 0 with
      | (_, .trap _) => .error ()
      | (_, .ok c _) =>
        let kept := (t.trackers.getD k none).filter fun o =>
          o.inst == i && o.valD == v.d && o.valA == v.a && o.valB == v.b && o.valC == v.c
        let c := { kept.getD c with bitmap := word (num 0), shard := word (num 56), fault := none }
        .ok (some { c with
          added := if isGmma i then (List.range 64).findIdx fun k => !c.bitmap.getLsbD k else c.added
          headerDone := c.headerDone && c.bitmap != 0 && !isHadt i })

/-- A lane of an image. -/
def readLane (t : Team) (m : Memory) (at_ l : Nat) (x : Lane) : Lane :=
  { x with
    pc := BitVec.ofNat 32 (imgNat m (at_ + 0x200 + 4 * l) 4)
    live := bitAt (imgNat m (at_ + 0x2AC) 4) l
    preds := BitVec.ofNat 8 (imgNat m (at_ + 0x280 + l) 1) ||| 1
    depth := imgNat m (at_ + 0x2D0 + l) 1
    stack := (List.range 16).map fun e => BitVec.ofNat 32 (imgNat m (at_ + 0xC00 + 64 * l + 4 * e) 4)
    priv := m.read (at_ + 0x1400 + 96 * l) 96
    v := (List.range t.nv).map fun n => word (imgNat m (at_ + 8192 + 256 * n + 8 * l) 8)
    tags := (List.range t.nv).map fun n =>
      BitVec.ofNat 4 (imgNat m (at_ + 0x400 + 64 * l + n / 2) 1 / 16 ^ (n % 2))
    age := 0, wait := none, sleepUntil := none, yielded := false }

/-- A braid of an image, stopped. -/
def readBraid (t : Team) (m : Memory) (r : Nat) (b : Braid) : Braid :=
  let at_ := blockAt t r
  { b with
    s := (List.range 64).map fun k => word (imgNat m (at_ + 8 * k) 8)
    nmode := word (imgNat m (at_ + 0x2A0) 8)
    path := BitVec.ofNat 32 (imgNat m (at_ + 0x2A8) 4)
    meld := bitAt (imgNat m (at_ + 0x2F0) 4) 0
    mt0 := (List.range 16).map fun k => imgNat m (at_ + 0x2B0 + k) 1
    mt1 := (List.range 16).map fun k => imgNat m (at_ + 0x2C0 + k) 1
    handler := none
    lanes := b.lanes.mapIdx fun l x => readLane t m at_ l x
    stop := .safePoint, fresh := false, hist := [], pendX := [], follyC := 0, stepIssues := 0, passed := 0 }

/-- The team with an image's contents, or the DETAIL of its refusal (R68, R86, R239, R329). -/
def readImage (s : State) (t : Team) (m : Memory) : Except Nat Team :=
  if imageReserved m t then .error 1
  else if imageLimits m t then .error 2
  else if imageMeld m t then .error 3
  else
    let names := setBits 64 (imgNat m 0x418 8)
    let scr := 4096 + t.braids.length * (8192 + 2048 * (t.vblk + 1))
    let tile := scr + 4096 * t.scrGran
    let slot := tile + 16384 * t.tiles.length
    let part := fun (at_ n : Nat) => (Memory.write [] 0 (m.read at_ n) : Memory)
    let t := { t with
      k := (List.range 64).map fun k => word (imgNat m (8 * k) 8)
      carve := if bitAt (imgNat m 0x404 4) 31 then
          some (imgNat m 0x404 4 % 16, bitsOf (imgNat m 0x404 4) 13 4) else none
      braids := t.braids.mapIdx fun r b => readBraid t m r b
      scratch := part scr (4096 * t.scrGran)
      tiles := t.tiles.mapIdx fun k _ => part (tile + 16384 * k) 16384
      tileTags := t.tiles.mapIdx fun k _ => BitVec.ofNat 4 (imgNat m 0x414 4 / 16 ^ k)
      slots := names.zipIdx.map fun x => (x.1, part (slot + 8192 * x.2) 8192) }
    let trk := (List.range 8).map fun k => readTracker s t m k
    if trk.any fun r => match r with | .error _ => true | .ok _ => false then .error 4
    else
      .ok { t with trackers := trk.map fun r => match r with | .ok o => o | .error _ => none }

/-- The image is of the shape that a binding was prepared for (R332). -/
def imageFits (m : Memory) (t : Team) (doneRec : Nat) : Bool :=
  imgNat m 0x400 4 % 2 ^ 14 == t.vblk + 16 * t.scrGran
    && bitsOf (imgNat m 0x400 4) 17 14 == t.tiles.length && imgNat m 0x410 4 % 256 == 2 ^ t.tiles.length - 1
    && imgNat m 0x420 8 == t.index && imgNat m 0x428 8 == doneRec

/-! Fault records and dumps -/

/-- The 64 bytes of a fault record (R328). -/
def FaultRec.bytes (r : FaultRec) : List Byte :=
  leBytes 8 (r.seq.getD 0) ++ leBytes 8 r.launch.toNat ++ leBytes 8 r.addr.toNat ++ leBytes 8 r.info.toNat
    ++ leBytes 8 r.party.toNat ++ leBytes 4 r.lanes.toNat ++ leBytes 4 r.pc ++ leBytes 4 r.team
    ++ leBytes 4 (r.coord % 2 ^ 25)
    ++ leBytes 2 (r.cause % 256 + 256 * (r.detail % 256))
    ++ leBytes 2 (r.rank % 32 + 2 ^ 5 * (r.trk % 8) + 2 ^ 8 * (r.elem % 64) + 2 ^ 14 * bit r.eng + 2 ^ 15 * bit r.we)
    ++ leBytes 2 (r.handle % 256 + 256 * (r.group % 256)) ++ leBytes 2 r.wtag

/-- An entry of the issued-PC history (R365). -/
def Hist.bytes (h : Hist) : List Byte :=
  leBytes 4 h.pc.toNat ++ leBytes 4 h.lanes.toNat ++ leBytes 4 (if h.meld then h.path.toNat else 0)
    ++ leBytes 4 (bit h.second + 2 * bit h.meld)

/-- A core dump (R365). -/
def dumpBytes (t : Team) (b : Braid) (r : FaultRec) : List Byte :=
  let h := b.hist.take 64
  r.bytes ++ List.replicate (16 * (64 - h.length)) 0 ++ h.reverse.flatMap Hist.bytes
    ++ braidArea b ++ vectorArea t b

/-- Where the ring has room for a dump: behind the last one, or at the ring's start before the oldest. -/
def dumpRoom (p : Partition) (n : Nat) : Option Nat :=
  let len := p.reg 0x0122 0
  match p.dumps.head?, p.dumps.getLast? with
  | some o, some l =>
    let end_ := l.off + l.len
    if o.off < end_ then
      if end_ + n ≤ len then some end_ else if n ≤ o.off then some 0 else none
    else if end_ + n ≤ o.off then some end_ else none
  | _, _ => if n ≤ len then some 0 else none

/-- Takes the core dump of a kill that settles a record (R364). -/
def takeDump (s : State) (t : Team) (r : FaultRec) : State :=
  match s.part? t.part, t.braids[r.rank]? with
  | some p, some b =>
    if !bitAt (p.reg 0x0120 0) 0 || t.dumped then s
    else
      let bs := dumpBytes t b r
      match dumpRoom p bs.length with
      | none => s.modPart t.part fun p => p.bump 0x0123 0 1
      | some off =>
        let s := (writePhys s (p.reg 0x0121 0 + off) bs).1
        (s.modPart t.part fun p =>
          { p with dumps := p.dumps ++ [{ off, len := bs.length, vblk := t.vblk, time := s.time, sent := false }] }).modTeam
          t.uid fun t => { t with dumped := true }
  | _, _ => s

end Sys2Proof.Machine
end

