-- ==== Sys2Proof/Machine/Array.lean ====
section
/-! DEFINITION. Operand slots, accumulator tiles and the sums of the matrix array (R105-R108, R262-R266). -/

namespace Sys2Proof.Machine

/-- Element k of a row of bytes in a format (R127, R262). -/
def rowElem (t : Tag) (bs : List Byte) (k : Nat) : Nat :=
  if t == 15 then leNat ((bs.drop (8 * (k / 10))).take 8) / 2 ^ (6 * (k % 10)) % 64
  else
    let w := fmtWidth t / 8
    leNat ((bs.drop (w * k)).take w)

/-- The bytes of a row of elements; an L6 word is whole, its unused positions zero (R127, R271, R273). -/
def rowOf (t : Tag) (es : List Nat) : List Byte :=
  if t == 15 then
    (List.range ((es.length + 9) / 10)).flatMap fun w => leBytes 8 (packElems 6 ((es.drop (10 * w)).take 10))
  else es.flatMap fun e => leBytes (fmtWidth t / 8) e

/-- A claimed slot's bytes, and bytes written into it. -/
def Team.slotMem (t : Team) (k : Nat) : Memory := ((t.slots.find? fun x => x.1 == k).map (·.2)).getD []
def Team.writeSlot (t : Team) (k off : Nat) (bs : List Byte) : Team :=
  { t with slots := t.slots.map fun x => if x.1 == k then (x.1, x.2.write off bs) else x }

/-- Element (i, n) of a tile (R264). -/
def Team.tileElem (t : Team) (k i n : Nat) : Nat := Memory.nat (t.tiles.getD k []) (4 * (64 * i + n)) 4
def tilePut (m : Memory) (i n v : Nat) : Memory := m.putNat (4 * (64 * i + n)) 4 v
def Team.putTile (t : Team) (k i n v : Nat) : Team :=
  { t with tiles := t.tiles.modify k fun m => tilePut m i n v }

/-- A product of two elements (R106, R108). -/
def product (t : Tag) (a b : Nat) : Val :=
  if t == 15 then
    if a % 64 == 32 || b % 64 == 32 then .nan
    else if a % 32 == 0 || b % 32 == 0 then .num false 0 1
    else
      let g := l6grid (Int.ofNat (a % 32) + Int.ofNat (b % 32) - 32)
      .num (bitAt a 5 != bitAt b 5) g.1 g.2
  else (elemValue t a).mul (elemValue t b)

/-- The value of a group, in F32 bits, from its unmasked pairs and its scales (R105-R108). -/
def groupValue (t : Tag) (ab : List (Nat × Nat)) (sa sb : Nat) : Nat :=
  if ab.isEmpty then 0
  else if sa == 0xFF || sb == 0xFF
      || ab.any fun p => (elemValue t p.1).isNan || (elemValue t p.2).isNan then (floatFmt 10).nan
  else
    let sum : Val := ab.foldl (fun (v : Val) p => v.add (product t p.1 p.2) false) (.num false 0 1)
    if sum.isZero then 0 else roundF32 (sum.scale (Int.ofNat sa + Int.ofNat sb - 254))

/-- A multiplication (R266, R267): tile, slots with pitches, scale blocks as slot and block, shape. -/
structure Mult where
  fmt : Tag
  tile : Nat
  a : Nat
  b : Nat
  pa : Nat
  pb : Nat
  sa : Option (Nat × Nat)
  sb : Option (Nat × Nat)
  z : Bool
  m : Nat
  n : Nat
  k : Nat

/-- A half of the scale word (R266). -/
def scaleHalf (w : Nat) : Option (Nat × Nat) := if bitAt w 10 then some (w % 64, w / 64 % 16) else none

def multOf (c : Command) : Option Mult :=
  let v := c.valC.toNat
  let go := fun (f : Fields) (a b pa pb : Nat) (sa sb : Option (Nat × Nat)) =>
    some { fmt := f.f, tile := f.d.toNat, a, b, pa := 128 / 2 ^ pa, pb := 128 / 2 ^ pb, sa, sb
           z := f.x.getLsbD 0, m := bitsOf v 7 0, n := bitsOf v 15 8, k := bitsOf v 31 16 : Mult }
  match c.inst with
  | .mma f => go f f.a.toNat f.b.toNat (f.x.toNat / 4 % 4) (f.x.toNat / 16 % 4)
      (scaleHalf (f.e.toNat % 2 ^ 11)) (scaleHalf (f.e.toNat / 2 ^ 11))
  | .gmma f => go f (gOg f) (gOb f) (bitsOf f.e.toNat 7 6) (bitsOf f.e.toNat 15 14) none none
  | _ => none

/-- The scale of row r and group j in a block (R263). -/
def scaleAt (t : Team) (s : Option (Nat × Nat)) (r j : Nat) : Nat :=
  match s with
  | none => 0x7F
  | some (k, q) => ((t.slotMem k).get (512 * q + 8 * r + j)).toNat

/-- Group j of a row of a slot. -/
def groupRow (t : Team) (fmt : Tag) (slot pitch r k j : Nat) : List Nat :=
  let bs := (t.slotMem slot).read (r * pitch) pitch
  (List.range (min (32 * j + 32) k - 32 * j)).map fun q => rowElem fmt bs (32 * j + q)

/-- Adds group j into the tile (R105, R266). -/
def addGroup (x : Mult) (j : Nat) (t : Team) : Team :=
  let cols := (List.range x.n).map fun n => groupRow t x.fmt x.b x.pb n x.k j
  let old := t.tiles.getD x.tile []
  let new := (List.range x.m).foldl (fun tile i =>
    let row := groupRow t x.fmt x.a x.pa i x.k j
    (List.range x.n).foldl (fun tile n =>
      let g := groupValue x.fmt (row.zip (cols.getD n [])) (scaleAt t x.sa i j) (scaleAt t x.sb n j)
      let acc := if x.z && j == 0 then 0 else Memory.nat old (4 * (64 * i + n)) 4
      tilePut tile i n (roundF32 ((valueF32 acc).add (valueF32 g) false))) tile) old
  { t with tiles := t.tiles.set x.tile new }

/-- A tile element converted to a format: under a block scale for QTILE (R273), without one for ACCRD and ACCST (R269,
R271), which leave F32 unchanged and otherwise round under NMODE, with the stochastic draw of R273. Also under a scale of
0xFF QTILE rounds each element's own scaled value: R173's NaN case is QNT's. -/
def convTile (s : State) (t : Team) (rank : Nat) (pc : Pc) (nmode : Word) (f : Tag) (b : Option Nat) (i n bits : Nat) :
    Nat :=
  if f == 10 then bits
  else
    let r := nmodeRnd nmode f
    let key := ((s.launchOf t).map (·.streamKey)).getD 0
    let u := if r.code == 5 then
        srDraw key pc.toNat bits (((logicalId t.index rank * 64 + i) * 64 + n) % 2 ^ 64) else 0
    roundTo f (match b with
      | some b => (valueF32 bits).scale (127 - Int.ofNat b)
      | none => valueF32 bits) r u

end Sys2Proof.Machine
end

