-- ==== Sys2Proof/Machine/Engine.lean ====
section
/-! DEFINITION. The copy engine: CPY, GATH and SCAT, their elements and GMMA's (R231-R238, R267), and the
dependence graph: DGN, DGL and the start of a held node (R240-R243). -/

namespace Sys2Proof.Machine

/-- CPY (R231, R232, R234). -/
def execCpy (f : Fields) (s : State) : Host.Outcome State Fault Refusal := perform (.cpy f) s issueCommand

/-- GATH (R231, R232, R235). -/
def execGath (f : Fields) (s : State) : Host.Outcome State Fault Refusal := perform (.gath f) s issueCommand

/-- SCAT (R231, R232, R235). -/
def execScat (f : Fields) (s : State) : Host.Outcome State Fault Refusal := perform (.scat f) s issueCommand

/-! Elements -/

/-- Bytes of an element (R234-R236). -/
def elemBytes (c : Command) (e : Nat) : Nat :=
  match c.inst with
  | .cpy _ => min (elemSize c.valB.toNat) (c.valB.toNat - e * elemSize c.valB.toNat)
  | .gath _ | .scat _ => bitsOf c.valB.toNat 15 0
  | .accwr f | .accst f => rowBytes f.f (bitsOf c.valB.toNat 15 8)
  | _ => 0

/-- An entry of the index list (R235): any failure to reach it is DETAIL 8. -/
def readIndex (s : State) (t : Team) (trk elem : Nat) (c : Command) (list r : Nat) : State × Flow Nat :=
  let seg : Seg := { h := scratchHandle t, hIdx := 0, off := Int.ofNat (list + 4 * r), n := 4 }
  match checkPiece s t (cmdAccessor s t trk elem c) .load seg with
  | (s, .error d) =>
    (s, .fault (if d.cause == 1 then { cause := 1, detail := 8, addr := list + 4 * r } else d))
  | (s, .ok sp) =>
    match readPieces t c [sp] [] s [] with
    | (s, .done bs) => (s, .done (leNat bs))
    | (s, .pending) => (s, .pending)
    | (s, .fault d) => (s, .fault d)

/-- x(r) for rows r (R235, R267). -/
def readIndexes (t : Team) (trk elem : Nat) (c : Command) (idx : Bool) (list : Nat) : List Nat → State → State × Flow (List Nat)
  | [], s => (s, .done [])
  | r :: rs, s =>
    let one := if idx then readIndex s t trk elem c list r else (s, .done r)
    match one with
    | (s, .fault d) => (s, .fault d)
    | (s, .pending) => (s, .pending)
    | (s, .done x) =>
      match readIndexes t trk elem c idx list rs s with
      | (s, .done xs) => (s, .done (x :: xs))
      | r => r

/-- The rows whose indices an element reads (R235, R267). -/
def elemRows (c : Command) (e : Nat) : List Nat :=
  match c.inst with
  | .gath _ | .scat _ => [e]
  | .gmma _ => List.range (bitsOf c.valC.toNat 7 0)
  | _ => []
def isIndexed : Instr → Bool
  | .gath f | .scat f | .gmma f => f.x.getLsbD 1
  | _ => false

/-- What an element reads and where it goes (R234, R235, R267): runs under handles, and the runs of a slot
as byte offset and length. -/
structure Traffic where
  from_ : List Seg
  to_ : List Seg
  slot : Option Nat
  slotOff : List (Nat × Nat)

def elemTraffic (t : Team) (c : Command) (e : Nat) (xs : List Nat) : Traffic :=
  let f := c.inst.fields
  let sa := signed 64 c.valA.toNat
  let sd := signed 64 c.valD.toNat
  let n := elemBytes c e
  let pitch := bitsOf c.valB.toNat 63 32
  let row := Int.ofNat (xs.headD 0 * pitch)
  let hseg := fun (off : Int) (n : Nat) => { h := c.entH, hIdx := f.h.toNat, off, n : Seg }
  let scr := fun (off : Int) => { h := scratchHandle t, hIdx := 0, off, n : Seg }
  let toSlot := f.x.getLsbD 0
  match c.inst with
  | .cpy _ =>
    let o := e * elemSize c.valB.toNat
    { from_ := [hseg (sa + Int.ofNat o) n]
      to_ := if toSlot then [] else
        [{ h := c.entAux, hIdx := eAux f, off := sd + Int.ofNat o, n }]
      slot := if toSlot then some f.d.toNat else none, slotOff := [(o, n)] }
  | .gath _ =>
    { from_ := [hseg (sa + row) n], to_ := if toSlot then [] else [scr (sd + Int.ofNat (e * n))]
      slot := if toSlot then some f.d.toNat else none, slotOff := [(e * n, n)] }
  | .scat _ =>
    { from_ := [scr (sa + Int.ofNat (e * n))], to_ := [hseg (sd + row) n], slot := none, slotOff := [] }
  | .gmma _ =>
    let w := fmtWidth f.f / 8
    let p := 128 / 2 ^ bitsOf f.e.toNat 7 6
    let k := bitsOf c.valC.toNat 31 16
    let g := (min (32 * e + 32) k - 32 * e) * w
    { from_ := xs.map fun x => hseg (sa + Int.ofNat (x * pitch + 32 * e * w)) g
      to_ := [], slot := some (gOg f)
      slotOff := (List.range xs.length).map fun i => (i * p + 32 * e * w, g) }
  | _ => { from_ := [], to_ := [], slot := none, slotOff := [] }

/-- Bytes laid into runs of a slot. -/
def fillSlot (k : Nat) : List (Nat × Nat) → List Byte → Team → Team
  | [], _, t => t
  | (off, n) :: rest, bs, t => fillSlot k rest (bs.drop n) (t.writeSlot k off (bs.take n))

/-- One element of a copy, gather, scatter or GMMA is performed (R233); the array adds what GMMA has landed (R267). -/
def copyElement (s : State) (t : Team) (trk e : Nat) (c : Command) : State :=
  match readIndexes t trk e c (isIndexed c.inst) c.inst.fields.l.toNat (elemRows c e) s with
  | (s', .fault d) => stopElement s s' t trk e d
  | (s', .pending) => s'
  | (s', .done xs) =>
    let x := elemTraffic t c e xs
    match moveElement s' t trk e c x.from_ x.to_ id with
    | (s', .fault d) => stopElement s s' t trk e d
    | (s', .pending) => s'
    | (s', .done bs) =>
      let s' := match x.slot with
        | some k => s'.modTeam t.uid (fillSlot k x.slotOff bs)
        | none => s'
      match c.inst with
      | .gmma _ => s'.modCmd t.uid trk fun c => { c with bitmap := c.bitmap ||| word (2 ^ e) }
      | _ => landElement s' t.uid trk e (elemBytes c)

/-- The command's elements are moved by the copy engine. -/
def isCopy : Instr → Bool
  | .cpy _ | .gath _ | .scat _ | .gmma _ => true
  | _ => false

/-- ENGINE_ELEMENT_LANDS (R233): an element of a started command is read, written and credited. -/
def execEngineElementLands (uid trk elem : Nat) (s : State) : Host.Outcome State Fault Refusal :=
  .next (match s.team? uid with
    | none => s
    | some t =>
      match t.trackers.getD trk none with
      | none => s
      | some c =>
        if c.full && t.engineRuns && c.fault.isNone then endCommand s uid trk (elemBytes c)
        else if !isCopy c.inst || (t.canStep trk elem).isNone then s
        else
          match beginCommand s uid trk with
          | (s, none) => s
          | (s, some (t, c)) => copyElement s t trk elem c)

/-! The dependence graph -/

/-- The image of a node, as if issued with S = M = 0 and G = 0 (R240, R241, R278); none where the image
is illegal or its statement admits no node. -/
def nodeInstr (image : Nat) : Option Instr :=
  let raw := BitVec.ofNat 128 (image - bitsOf image 3 2 * 4 - bitsOf image 15 12 * 2 ^ 12)
  match decodeBits raw with
  | .error _ => none
  | .ok i =>
    match i with
    | .cpy _ | .gath _ | .scat _ | .mma _ | .gmma _ | .accwr _ | .accst _ | .hadt _ | .qtile _ => some i
    | _ => none

/-- OPD, OPA, OPB and OPC (R240). -/
def nodeVals (t : Team) (off : Nat) (i : Instr) : Vals :=
  let w := fun (hi lo : Nat) => word (nodeBits t off hi lo)
  scalarVals i { d := w 191 128, a := w 255 192, b := w 319 256, c := w 383 320 }

/-- A node's command fails (R238, R243): STATE 4, and its phase object is abandoned where its entry can be read. -/
def failNode (s : State) (t : Team) (h : HeldNode) (i : Instr) (v : Vals) (nmode : Word) : State :=
  let s := match takePhase s t i 0 with
    | (s, .ok (p, _)) => abandonPhase s t
        { inst := i, rank := h.rank, pc := h.pc, valD := v.d, valA := v.a, valB := v.b, valC := v.c
          entH := Handle.none, entAux := Handle.none, entP := p, nmode, shard := 0, count := 0
          bitmap := 0, added := 0, headerDone := false, seed := 0, stale := false, node := none
          fault := none, order := 0, party := 0, vc := [] }
    | (s, .error _) => s
  s.modTeam t.uid fun t => setNode { t with nodes := t.nodes.filter fun n => n.off != h.off } h.off 418 416 4

/-- A held node whose record the engine cannot access (R240, R290, R363): it fails, with a record that stops nothing
(log entry 114). -/
def faultNode (s : State) (t : Team) (h : HeldNode) (d : Draft) : State :=
  noteFault (s.modTeam t.uid fun t => setNode { t with nodes := t.nodes.filter fun n => n.off != h.off } h.off 418 416 4)
    t d (.braid h.rank h.pc)

/-- A held node starts (R241, R243): it takes a tracker, or fails where the checks of R232 no longer pass. -/
def startNode (s : State) (uid off : Nat) : State :=
  match s.team? uid with
  | none => s
  | some t =>
    match t.nodes.find? fun h => h.off == off with
    | none => s
    | some h =>
      match probe s t.part .rmw (nodeSpot t off) with
      | (s, .error d) => faultNode s t h d
      | (s, .ok ()) =>
        let drop := fun (t : Team) => { t with nodes := t.nodes.filter fun n => n.off != off }
        let nmode := match t.braids[h.rank]? with
          | some b => b.nmode
          | none => h.nmode
        match nodeInstr (nodeBits t off 127 0) with
        | none => s.modTeam uid fun t => setNode (drop t) off 418 416 4
        | some i =>
          let v := nodeVals t off i
          match planCommand s t i v 0 h.rank h.pc nmode with
          | (s, .trap _) => failNode s t h i v nmode
          | (s, .ok c _) =>
            let seen := (relsAt s (.scratch uid off) 64).foldl (fun k r => k.join r.vc) h.vc
            if c.count == 0 then
              let c := { c with node := some off, party := engineParty s.parties 0, vc := seen }
              match checkNodes t 0 0 c (endNodes t c) { s with parties := s.parties + 1 } with
              | (s, .error d) => faultNode s t h d
              | (s, .ok ()) => finishNode (s.modTeam uid drop) uid off [mkRelease t h.rank seen 1 0]
            else
              match startCommand s uid { c with node := some off } seen with
              | none => s.modTeam uid fun t =>
                  { t with nodes := t.nodes.map fun n => if n.off == off then { n with ready := true } else n }
              | some (s', trk) =>
                match ((s'.team? uid).bind fun t => t.trackers.getD trk none) with
                | none => s
                | some c =>
                  match checkNodes t trk 0 c [off] s' with
                  | (_, .error d) => faultNode s t h d
                  | (s', .ok ()) => s'.modTeam uid fun t => setNode (setNode (drop t) off 418 416 2) off 426 424 trk

/-- NODE_START (R241): a held node whose count has reached zero starts once a tracker is free. -/
def execNodeStart (uid off : Nat) (s : State) : Host.Outcome State Fault Refusal :=
  .next (match s.team? uid with
    | none => s
    | some t =>
      if t.engineRuns && !t.debugStopping && t.trackers.any (·.isNone) && t.nodes.any fun h => h.off == off && h.ready then
        startNode s uid off
      else s)

/-- The parity of some node records as they are read (R363). -/
def probeNodes (e : Env) (s : State) : List Nat → Got Unit
  | [] => (s, .ok ())
  | off :: offs =>
    match probe s e.t.part .rmw (nodeSpot e.t off) with
    | (s, .error d) => (s, .error d)
    | (s, .ok ()) => probeNodes e s offs

/-- Node offsets (R241, R242): alignment, then the core scratchpad's bound; then the records are read. -/
def nodeOff (e : Env) (offs : List Int) (k : State → List Nat → Act) : Act :=
  if offs.any fun o => o % 64 != 0 then .trap { cause := 7, lanes := e.act }
  else
    match offs.find? fun o => o < 0 || Int.ofNat (e.t.scrGran * 4096) < o + 64 with
    | some o => .fault e.s { cause := 1, detail := 3, addr := wrapInt 64 o, lanes := e.act }
    | none =>
      match probeNodes e e.s (offs.map Int.toNat) with
      | (s, .error d) => .fault s { d with lanes := e.act }
      | (s, .ok ()) => k s (offs.map Int.toNat)

/-- The synchronising access of DGN and DGL to a record (R240). -/
def touchNodes (e : Env) (s : State) : List Nat → (State → Act) → Act
  | [], k => k s
  | off :: rest, k =>
    match testGranules e.accessor .rmw (nodeSpot e.t off) .scratch e.t.uid off (granules off 64) s with
    | (s', .error d) => .fault { s' with shadow := s.shadow } { d with lanes := e.act }
    | (s', .ok ()) => touchNodes e (noteNode s' e.t e.rank e.clocks off) rest k

/-- Reserved bits of a record are zero and its STATE is 0 or 3 (R240, R241). -/
def nodeFree (t : Team) (off : Nat) : Bool :=
  let st := nodeBits t off 418 416
  nodeBits t off 447 427 == 0 && nodeBits t off 423 419 == 0 && (st == 0 || st == 3)

/-- DGN (R241); evalue of its operand trap is the node offset (DESIGN CHOICE, log entry 111). -/
def execDgn (f : Fields) (s : State) : Host.Outcome State Fault Refusal :=
  perform (.dgn f) s fun e =>
    let sa := signed 64 (e.b.sreg f.a.toNat).toNat + signed 32 f.e.toNat
    nodeOff e [sa] fun s offs =>
      let off := offs.headD 0
      let refuse := fun (value : Nat) => Act.trapAt s { cause := 4, opnd := 2, lanes := e.act, value }
      if !nodeFree e.t off then refuse off
      else
        match nodeInstr (nodeBits e.t off 127 0) with
        | none => refuse off
        | some i =>
          match planCommand s e.t i (nodeVals e.t off i) e.act e.rank e.pc e.b.nmode with
          | (s, .trap x) => .trapAt s x
          | (s, .ok _ (some d)) => .fault s { d with lanes := e.act }
          | (s, .ok c none) =>
            match issueTurn s e.t c e.act with
            | some d => .fault s d
            | none =>
              touchNodes e s [off] fun s =>
                withNames e s (granuleUses i) fun s =>
                  let count := if f.l.getLsbD 31 then f.l.toNat % 2 ^ 16 else nodeBits e.t off 415 384
                  let held : HeldNode :=
                    { off, rank := e.rank, pc := e.pc, ready := count == 0, vc := e.clocks, nmode := e.b.nmode }
                  let s := s.modTeam e.t.uid fun t =>
                    { setNode (setNode t off 415 384 count) off 418 416 1 with nodes := t.nodes ++ [held] }
                  .go (if count == 0 then startNode s e.t.uid off else s)

/-- DGL (R242); evalue of its operand trap is the node offset (DESIGN CHOICE, log entry 111). -/
def execDgl (f : Fields) (s : State) : Host.Outcome State Fault Refusal :=
  perform (.dgl f) s fun e =>
    let at_ := fun (r : BitVec 7) (k : Nat) => signed 64 (e.b.sreg r.toNat).toNat + 64 * signed 16 k
    nodeOff e [at_ f.a (f.e.toNat % 2 ^ 16), at_ f.b (f.e.toNat / 2 ^ 16)] fun s offs =>
      let src := offs.headD 0
      let dst := offs.getD 1 0
      let free := (List.range 4).find? fun k => nodeBits e.t src (463 + 16 * k) (448 + 16 * k) == 0
      let to_ := nodeBits e.t dst 418 416
      let from_ := nodeBits e.t src 418 416
      match free with
      | none => .trapAt s { cause := 4, opnd := 3, lanes := e.act, value := dst }
      | some k =>
        if 2 ≤ to_ && to_ ≤ 4 then .trapAt s { cause := 4, opnd := 3, lanes := e.act, value := dst }
        else
          touchNodes e s (if src == dst then [src] else [src, dst]) fun s =>
            if from_ ≤ 2 then
              .go (s.modTeam e.t.uid fun t => setNode t src (463 + 16 * k) (448 + 16 * k) (dst / 64 + 1))
            else if from_ == 3 then
              let s := decrementNode s e.t.uid dst (relsAt s (.scratch e.t.uid src) 64)
              .go s
            else .go s

end Sys2Proof.Machine
end

