-- ==== Sys2Proof/Machine/Collective.lean ====
section
/-! DEFINITION. Work entries and counters: QPW.POST, QPW.ARM, CNT.ADD and CNT.WAIT (R253-R257), the
rendezvous, reductions, parking and early ends (R298-R308). -/

namespace Sys2Proof.Machine

/-! Entries -/

def isRecv (kind : Nat) : Bool := kind % 2 == 1
def isReduce (kind : Nat) : Bool := 2 ≤ kind

/-- Key of the entries that can match one another, on one side (R254). -/
def matchKey (group wtag peer kind : Nat) : Nat := ((group * 65536 + wtag) * 65536 + peer) * 4 + kind

def State.modEntry (s : State) (uid num : Nat) (g : WorkEntry → WorkEntry) : State :=
  s.modTeam uid fun t => { t with entries := t.entries.map fun w => if w.num == num then g w else w }
def Team.entry? (t : Team) (num : Nat) : Option WorkEntry := t.entries.find? fun w => w.num == num
def State.entry? (s : State) (uid num : Nat) : Option (Team × WorkEntry) :=
  (s.team? uid).bind fun t => (t.entry? num).map fun w => (t, w)

/-- The group of an entry. -/
def entryGroup (s : State) (t : Team) (w : WorkEntry) : Option Group :=
  (s.launchOf t).bind fun n => n.groups.find? fun g => g.index == w.group

/-- Chunks of a length (R301), and the bytes of one. -/
def chunkCount (len : Nat) : Nat := (len + 4095) / 4096
def chunkLen (len c : Nat) : Nat := min 4096 (len - 4096 * c)

/-- The entry as the party of its accesses: elements and records of work entries (R299). -/
def entryCommand (w : WorkEntry) : Command :=
  { inst := .nop { len := 0, s := false, m := false, g := 0, d := 0, a := 0, b := 0, c := 0, f := 0
                   x := 0, h := 0, e := 0, l := 0 }
    rank := w.rank, pc := 0, valD := 0, valA := 0, valB := 0, valC := 0, entH := w.handle
    entAux := Handle.none, entP := Handle.none, nmode := 0, shard := 0, count := chunkCount w.len
    bitmap := 0, added := 0, headerDone := true, seed := 0, stale := false, node := none
    fault := w.fault, order := 0, party := w.party, vc := w.vc }

/-- The tracker number under which an entry's requests to other devices stand. -/
def entryTrk (w : WorkEntry) : Nat := 64 + w.num

/-- The run of a chunk in an entry's buffer. -/
def chunkSeg (w : WorkEntry) (c : Nat) : Seg :=
  { h := w.handle, hIdx := w.hIndex, off := signed 64 w.off + Int.ofNat (4096 * c), n := chunkLen w.len c }

/-- A fault on an entry's buffer (R299). -/
def entryFault (s : State) (t : Team) (w : WorkEntry) (c : Nat) (d : Draft) : State :=
  if w.fault.isSome then s
  else s.raiseFault t (.entry w.rank w.num w.wtag c) { d with group := w.group }

/-- Counters of a saved team wait for its restore (R253). -/
def Team.away (t : Team) : Bool := t.status == .saved || t.status == .prepared

/-- A buffer's level address. -/
def bufferBase (w : WorkEntry) : Nat := (Int.ofNat w.handle.base + signed 64 w.off).toNat

/-- So does an entry whose buffer lies in the core scratchpad of a saved team, its own or a window part's (R253). -/
def lacks (s : State) (t : Team) (w : WorkEntry) : Bool :=
  match w.handle.space with
  | 2 => t.away
  | 3 =>
    match windowGroup s t w.handle, s.launchOf t with
    | some g, some n =>
      let p := g.winGran * 4096
      t.away || (List.range g.total).any fun r =>
        r * p < bufferBase w + w.len && bufferBase w < (r + 1) * p &&
          match g.locate (s.coordOf t) r with
          | some (c, pos) => c == s.coordOf t && ((g.members[pos]?).bind fun i => s.member? n.num i).any (·.away)
          | none => false
    | _, _ => t.away
  | _ => false

/-- Increments a counter with a release at fabric scope of the entry's accesses (R256). -/
def bumpCounter (s : State) (t : Team) (w : WorkEntry) (err : Bool) : State :=
  s.modTeam t.uid fun t =>
    let v := t.k.getD w.ctr 0 + 1
    { t with k := t.k.set w.ctr (if err then v ||| word (2 ^ 63) else v)
             kRel := t.kRel ++ [(w.ctr, mkRelease t w.rank (commandClocks w.vc w.party (chunkCount w.len)) 4 0)] }

/-- An entry is over (R256): its counter moves and it is freed, once its team is not saved (R253). -/
def closeEntry (s : State) (uid num : Nat) (err : Bool) : State :=
  match s.entry? uid num with
  | none => s
  | some (t, w) =>
    if t.away then s.modEntry uid num fun w => { w with ending := some err }
    else
      let s := bumpCounter s t w err
      commandOver
        (s.modTeam uid fun t =>
          { t with entries := t.entries.filter fun w => w.num != num
                   pendE := t.pendE.filter fun p => p.trk != entryTrk w }) uid

/-! Messages -/

/-- The launch and group that a message names on this device (R298, R301). -/
def msgGroup (s : State) (part : Nat) (m : XferMsg) : Option (Launch × Group) :=
  if m.gang != 0 then
    (gangLaunch s part m.gang).bind fun n =>
      (n.groups.find? fun g => g.c && g.gang == m.gang).map fun g => (n, g)
  else
    (s.launch? m.launch).bind fun n => (n.groups.find? fun g => g.index == m.group).map fun g => (n, g)

/-- The team of a rank on this device. -/
def rankTeam (s : State) (n : Launch) (g : Group) (rank : Nat) : Option Team :=
  let coord := ((s.part? n.part).map (·.coord)).getD 0
  (g.locate coord rank).bind fun (c, pos) =>
    if c == coord then (g.members[pos]?).bind fun i => s.member? n.num i else none

/-- The device of a rank. -/
def rankCoord (s : State) (n : Launch) (g : Group) (rank : Nat) : Nat :=
  let coord := ((s.part? n.part).map (·.coord)).getD 0
  ((g.locate coord rank).map (·.1)).getD coord

/-- The send entry that a message to the sender concerns: same family, TAG, ranks and position. -/
def sendEntry (t : Team) (g : Group) (m : XferMsg) : Option WorkEntry :=
  t.entries.find? fun w =>
    !isRecv w.kind && isReduce w.kind == m.reduce && w.group == g.index && w.wtag == m.wtag
      && w.peer == m.dstRank && w.ord == m.ord && w.ending.isNone
/-- The receive entry that a message to the receiver concerns. -/
def recvEntry (t : Team) (g : Group) (m : XferMsg) : Option WorkEntry :=
  t.entries.find? fun w =>
    isRecv w.kind && isReduce w.kind == m.reduce && w.group == g.index && w.wtag == m.wtag
      && w.peer == m.srcRank && w.ord == m.ord && w.collect.isNone && w.ending.isNone

/-- A message of a match from one of its entries. -/
def entryMsg (s : State) (t : Team) (g : Group) (w : WorkEntry) : XferMsg :=
  let me := g.rank (s.coordOf t) t.index
  { group := g.index, gang := if g.span then g.gang else 0, launch := t.launch.getD 0, ord := w.ord
    done := false, again := false, wtag := w.wtag
    srcRank := if isRecv w.kind then w.peer else me, dstRank := if isRecv w.kind then me else w.peer
    reduce := isReduce w.kind, len := w.len, gen := w.gen, chunk := 0, data := [], op := w.op, f := w.f
    src := s.coordOf t, check := 0, error := false, addr := if isRecv w.kind then bufferBase w else 0
    job := s.teamReg t 0x0202 0 }

/-- The source check of a chunk (R252, R377): over its bytes and their offset in the transfer. -/
def chunkCheck (chunk : Nat) (data : List Byte) : BitVec 32 := sourceCheck data (Int.ofNat (4096 * chunk))

/-- Two messages of one match. -/
def sameMatch (x y : XferMsg) : Bool :=
  x.group == y.group && x.gang == y.gang && x.launch == y.launch && x.ord == y.ord && x.wtag == y.wtag
    && x.srcRank == y.srcRank && x.dstRank == y.dstRank && x.reduce == y.reduce

/-- A message to the sender takes effect there: the end of the match, a chunk asked for again, or ready-to-receive.
Ready-to-receive, or the early end that follows it, is held until its send entry is posted (R301, R308; DESIGN CHOICE,
log entry 113). -/
def toSender (s : State) (part : Nat) (m : XferMsg) : State :=
  match msgGroup s part m with
  | none => s
  | some (n, g) =>
    match (rankTeam s n g m.srcRank).bind fun t => (sendEntry t g m).map fun w => (t, w) with
    | some (t, w) =>
      if m.done || m.error then closeEntry s t.uid w.num m.error
      else if m.again then s.modEntry t.uid w.num fun w => { w with chunks := min w.chunks m.chunk }
      else s.modEntry t.uid w.num fun w => { w with ready := some m }
    | none =>
      if m.done || m.again then s
      else s.modPart part fun p => { p with rtr := p.rtr.filter (fun x => !sameMatch x m) ++ [m] }

/-- Sends a message to the device of a rank, or gives it to this one. -/
def sendMsg (s : State) (t : Team) (dst : Nat) (toReceiver : Bool) (m : XferMsg)
    (here : State → Nat → XferMsg → State) : State :=
  if dst == s.coordOf t then here s t.part m else postOut s t.part (.xfer dst toReceiver m)

/-- Tells the sender of a receive entry's match. -/
def tellSender (s : State) (t : Team) (w : WorkEntry) (done again error : Bool) (chunk : Nat) : State :=
  match s.launchOf t, entryGroup s t w with
  | some n, some g =>
    sendMsg s t (rankCoord s n g w.peer) false
      { entryMsg s t g w with done, again, error, chunk } toSender
  | _, _ => s

/-- An entry is over; a receive entry that has had every chunk acknowledges it after its counter has moved
(R301). -/
def endEntry (s : State) (uid num : Nat) (err : Bool) : State :=
  match s.entry? uid num with
  | none => s
  | some (t, w) =>
    let s := closeEntry s uid num err
    if t.away || !isRecv w.kind || w.collect.isSome || w.chunks < chunkCount w.len then s
    else tellSender s t w true false false 0

/-! The receiver -/

/-- Bytes that a buffer reaches, for R304: a kind with the team or device they lie in, their range there, and for a part
on another device the group, its position in it and the member that stands there. -/
structure BufRange where
  key : Nat
  lo : Nat
  hi : Nat
  far : Option (Nat × Nat × Nat)

def bufferRanges (s : State) (t : Team) (w : WorkEntry) : List BufRange :=
  let a := bufferBase w
  let flat := fun (key : Nat) => [({ key, lo := a, hi := a + w.len, far := none } : BufRange)]
  match w.handle.space with
  | 2 => flat (8 * t.index)
  | 3 =>
    match windowGroup s t w.handle with
    | none => []
    | some g =>
      let p := g.winGran * 4096
      (List.range g.total).filterMap fun r =>
        let lo := max a (r * p)
        let hi := min (a + w.len) ((r + 1) * p)
        if hi ≤ lo then none
        else
          match g.locate (s.coordOf t) r with
          | some (c, pos) =>
            let near := c == s.coordOf t
            some { key := if near then 8 * g.members.getD pos 0 else 8 * c + 1, lo := lo - r * p, hi := hi - r * p
                   far := if near then none else some (g.index, pos, Config.farMember c g.gang pos) }
          | none => none
  | 4 => flat 2
  | _ => flat 3

/-- Two ranges share a byte. Positions of two groups on another device share it where one team stands at both: which
team stands where there is a fixed function without a body (log entry 99). -/
def BufRange.meets (x y : BufRange) : Bool :=
  x.key == y.key && x.lo < y.hi && y.lo < x.hi &&
    match x.far, y.far with
    | some p, some q => if p.1 == q.1 then p.2.1 == q.2.1 else p.2.2 == q.2.2
    | _, _ => true

/-- Two buffers share a byte (R304). -/
def overlaps (x y : List BufRange) : Bool := x.any fun p => y.any p.meets

/-- A reduce-receive waits for an earlier receive entry of its team into the same bytes (R304). -/
def mustWait (s : State) (t : Team) (w : WorkEntry) : Bool :=
  isReduce w.kind && t.entries.any fun x =>
    isRecv x.kind && x.num < w.num && overlaps (bufferRanges s t x) (bufferRanges s t w)

/-- The bytes of a chunk reduced into those of the buffer, element by element (R303). -/
def reduceBytes (op : Nat) (f : Tag) : Nat → List Byte → List Byte → List Byte
  | 0, _, _ => []
  | fuel + 1, old, new =>
    let n := fmtWidth f / 8
    if old.isEmpty then []
    else leBytes n (reduceElem op f (leNat (old.take n)) (leNat (new.take n)))
      ++ reduceBytes op f fuel (old.drop n) (new.drop n)

/-- What a reduction does to bytes where they lie (R303). -/
def Use.reduce : Use := ⟨true, true, false, false⟩

/-- The number under which the request of a chunk's piece stands among the entry's requests. -/
def pieceElem (chunk k : Nat) : Nat := chunk + 2 ^ 32 * (k + 1)

/-- The pieces of a chunk, each with its number and its part of the incoming bytes. -/
def dataPieces : Nat → List Spot → List Byte → List (Nat × Spot × List Byte)
  | _, [], _ => []
  | k, sp :: sps, bs => (k, sp, bs.take sp.n) :: dataPieces (k + 1) sps (bs.drop sp.n)

/-- Incoming bytes reduced into the bytes of a place, in one step at its ordering point (R303). -/
def reduceSpot (s : State) (core uid rank op : Nat) (f : Tag) (sp : Spot) (data : List Byte) : State :=
  let (s, old) := readSpot s core uid rank sp true false
  settleRels (writeSpot s core uid rank sp (reduceBytes op f old.length old data)) sp .reduce []

/-- A chunk of a reduce-receive is reduced into its buffer (R303): pieces on other devices are reduced there, each
once, and those of this device when they all have been. -/
def reduceChunk (s : State) (t : Team) (w : WorkEntry) (chunk : Nat) (data : List Byte) : State × Flow (List Byte) :=
  let trk := entryTrk w
  let c := entryCommand w
  let x := cmdAccessor s t trk chunk c
  match checkPieces t x .reduce (pieces [chunkSeg w chunk]) s with
  | (s', .error d) => ({ s' with shadow := s.shadow }, .fault d)
  | (s, .ok sps) =>
    let all := dataPieces 0 sps data
    let far := all.filter fun y => !(farSpots [y.2.1]).isEmpty
    let out := fun (y : Nat × Spot × List Byte) => elemPend t trk (pieceElem chunk y.1)
    match far.filter fun y => (out y).isEmpty with
    | y :: ys =>
      ((y :: ys).foldl (fun s y => sendElem t c trk (pieceElem chunk y.1) s y.2.1
        { baseRecord s t .atomic with
          op := 11 + w.op, f := w.f, ret := true, data := y.2.2, origin := originOf s x false [] }) s, .pending)
    | [] =>
      if far.any fun y => (out y).any fun p => p.reply.isNone then (s, .pending)
      else
        match far.findSome? fun y => (farFault [y.2.1] (out y)).map fun d => (y.1, d) with
        | some (k, d) => (dropPend s t.uid trk (pieceElem chunk k), .fault d)
        | none =>
          let s := all.foldl (fun s y =>
            if (farSpots [y.2.1]).isEmpty then reduceSpot s t.core t.uid w.rank w.op w.f y.2.1 y.2.2
            else dropPend s t.uid trk (pieceElem chunk y.1)) s
          (s, .done data)

/-- A receive entry's next chunk is applied where it is held and may be applied (R302-R305). -/
def applyChunk (s : State) (t : Team) (w : WorkEntry) (data : List Byte) : State :=
  let seg := chunkSeg w w.chunks
  let r := if isReduce w.kind then reduceChunk s t w w.chunks data
    else moveElement s t (entryTrk w) w.chunks (entryCommand w) [] [seg] fun _ => data
  match r with
  | (s', .fault d) => entryFault { s' with shadow := s.shadow } t w w.chunks d
  | (s', .pending) => s'
  | (s', .done _) =>
    let k := w.chunks
    let s' := s'.modEntry t.uid w.num fun w =>
      { w with chunks := k + 1, mismatches := w.mismatches.filter (fun x => x.1 != k), held := w.held.filter fun h => h.1 != k }
    if k + 1 == chunkCount w.len then endEntry s' t.uid w.num false else s'

/-- A debug stop keeps the entry from starting another transfer (R384): one whose requests are out is finished. -/
def debugKeeps (t : Team) (w : WorkEntry) : Bool :=
  t.debugStopping && !(t.pendE.any fun p => p.trk == entryTrk w)

/-- A chunk of a receive entry can be applied now: the next in order, with nothing to wait for. -/
def canApply (s : State) (t : Team) (w : WorkEntry) : Option (List Byte) :=
  if lacks s t w || w.fault.isSome || w.ending.isSome || !w.fired || mustWait s t w || debugKeeps t w then none
  else (w.held.find? fun h => h.1 == w.chunks).map (·.2)

/-- Chunks are applied in ascending order as far as they go (R304). -/
def applyHeld (uid num : Nat) : Nat → State → State
  | 0, s => s
  | fuel + 1, s =>
    match s.entry? uid num with
    | none => s
    | some (t, w) =>
      match canApply s t w with
      | none => s
      | some data =>
        let s' := applyChunk s t w data
        match s'.entry? uid num with
        | some (_, w') => if w'.chunks == w.chunks then s' else applyHeld uid num fuel s'
        | none => s'

/-- Chunks that are held on a device, and those the pool has room for (R305, R306). -/
def heldChunks (s : State) (part : Nat) : Nat :=
  s.teams.foldl (fun n t => if t.part == part then t.entries.foldl (fun n w => n + w.held.length) n else n) 0
def spilledChunks (s : State) (p : Partition) : Nat :=
  p.parked.length + (heldChunks s p.num - (setBits 4 p.quarters).length * Config.transitSlots)
def poolRoom (s : State) (p : Partition) : Bool := spilledChunks s p < p.reg 0x0021 0 / 4096
def spillRoom (s : State) (p : Partition) : Bool :=
  heldChunks s p.num < (setBits 4 p.quarters).length * Config.transitSlots || poolRoom s p

/-- A chunk of a match whose generations differ is parked; the last ends the match (R306). -/
def parkChunk (s : State) (t : Team) (w : WorkEntry) (m : XferMsg) : State :=
  let s := s.modPart t.part fun p =>
    { p with parked := p.parked ++ [{ uid := t.uid, group := w.group, wtag := w.wtag, src := w.peer
                                      gen := m.gen, len := m.len, ord := w.ord, chunk := m.chunk, data := m.data }] }
  let s := s.modEntry t.uid w.num fun w => { w with chunks := w.chunks + 1 }
  if w.chunks + 1 == chunkCount m.len then endEntry s t.uid w.num true else s

/-- A chunk, or the sender's end of the match, reaches the receiver (R301-R308). One without room goes back to its
sender, which sends it again (R305). -/
def toReceiver (s : State) (part : Nat) (m : XferMsg) : State :=
  match msgGroup s part m, s.part? part with
  | some (n, g), some p =>
    match (rankTeam s n g m.dstRank).bind fun t => (recvEntry t g m).map fun w => (t, w) with
    | none => s
    | some (t, w) =>
      if m.error then endEntry s t.uid w.num true
      else if !w.fired then s
      else if m.check != chunkCheck m.chunk m.data then
        let s := bumpCheck s part
        let k := tabGet 0 w.mismatches m.chunk
        if 2 ≤ k then endEntry (tellSender s t w false false true 0) t.uid w.num true
        else tellSender (s.modEntry t.uid w.num fun w => { w with mismatches := tabPut w.mismatches m.chunk (k + 1) }) t w
          false true false m.chunk
      else if isReduce w.kind && w.gen != m.gen then
        if m.chunk != w.chunks then s
        else if poolRoom s p then parkChunk s t w m
        else tellSender s t w false true false m.chunk
      else if m.chunk < w.chunks || w.held.any (fun h => h.1 == m.chunk) then s
      else
        let now := m.chunk == w.chunks && !lacks s t w && w.fault.isNone && !mustWait s t w && !debugKeeps t w
        if !now && !spillRoom s p then tellSender s t w false true false m.chunk
        else
          applyHeld t.uid w.num (chunkCount w.len)
            (s.modEntry t.uid w.num fun w => { w with held := tabPut w.held m.chunk m.data })
  | _, _ => s

/-- READY_TO_RECEIVE (R301): a message reaches the sender's device. -/
def execReadyToReceive (part : Nat) (m : XferMsg) (s : State) : Host.Outcome State Fault Refusal :=
  .next (toSender s part m)

/-- CHUNK (R301-R308): a chunk reaches the receiver's device. -/
def execChunk (part : Nat) (m : XferMsg) (s : State) : Host.Outcome State Fault Refusal :=
  .next (toReceiver s part m)

/-- SPILL_REFETCH (R305): a held chunk has become applicable. -/
def execSpillRefetch (uid entry chunk : Nat) (s : State) : Host.Outcome State Fault Refusal :=
  .next (match s.entry? uid entry with
    | none => s
    | some (t, w) =>
      if w.chunks == chunk && (canApply s t w).isSome then applyHeld uid entry (chunkCount w.len) s else s)

/-! Firing -/

/-- The counter of an armed entry has reached its threshold (R255). -/
def counterReached (t : Team) (w : WorkEntry) : Bool :=
  match w.armed with
  | some (k, n) => n ≤ (t.k.getD k 0).toNat % 2 ^ 63
  | none => false

/-- The entry acquires through its counter as it becomes ready (R281), and a new interval begins (R389); it has no
program counter, and its record says 0. -/
def entryAcquire (s : State) (t : Team) (w : WorkEntry) : State :=
  let k := (w.armed.map (·.1)).getD 0
  let rels := (t.kRel.filter fun r => r.1 == k).map (·.2)
  (s.acquire t w.rank 0 rels 4 0 (some 0)).modEntry t.uid w.num fun w =>
    { w with fired := true, vc := w.vc.join (acquired s rels 4 0 t w.rank) }

/-- The parked match that an entry collects (R307). -/
def parkedMatch (p : Partition) (t : Team) (w : WorkEntry) (ord : Nat) : List Parked :=
  p.parked.filter fun x => x.uid == t.uid && x.group == w.group && x.wtag == w.wtag && x.src == w.peer
    && x.gen == w.gen && x.ord == ord

/-- A receive entry fires: it takes its parked chunks, or sends ready-to-receive (R301, R307). -/
def fireReceive (s : State) (t : Team) (w : WorkEntry) : State :=
  match w.collect, s.part? t.part with
  | some ord, some p =>
    let xs := parkedMatch p t w ord
    if (xs.head?.map (·.len)).getD w.len != w.len then endEntry s t.uid w.num true
    else
      let s := s.modPart t.part fun p =>
        { p with parked := p.parked.filter fun x => !xs.contains x }
      applyHeld t.uid w.num (chunkCount w.len)
        (s.modEntry t.uid w.num fun w => { w with held := xs.foldl (fun h x => tabPut h x.chunk x.data) [] })
  | _, _ => tellSender s t w false false false 0

/-- A fired send entry that holds its message reads its next chunk and sends it (R301, R256). -/
def sendChunk (s : State) (t : Team) (w : WorkEntry) (m : XferMsg) : State :=
  match s.launchOf t, entryGroup s t w with
  | some n, some g =>
    let dst := rankCoord s n g w.peer
    let base := entryMsg s t g w
    if m.len != w.len then
      endEntry (sendMsg s t dst true { base with error := true } toReceiver) t.uid w.num true
    else
      let c := entryCommand w
      match moveElement s t (entryTrk w) w.chunks c [chunkSeg w w.chunks] [] id with
      | (s', .fault d) => entryFault { s' with shadow := s.shadow } t w w.chunks d
      | (s', .pending) => s'
      | (s', .done bs) =>
        let s' := dropPend s' t.uid (entryTrk w) w.chunks
        let s' := s'.modEntry t.uid w.num fun w => { w with chunks := w.chunks + 1 }
        sendMsg s' t dst true { base with chunk := w.chunks, data := bs, check := chunkCheck w.chunks bs } toReceiver
  | _, _ => s

/-- Something is left for an entry to do: its counter update, its firing, or its next chunk. -/
def entryReady (s : State) (t : Team) (w : WorkEntry) : Bool :=
  w.fault.isNone &&
    if w.ending.isSome then !t.away
    else if !w.fired then counterReached t w && !t.debugStopping
    else
      !lacks s t w && !debugKeeps t w && !isRecv w.kind && w.chunks < chunkCount w.len
        && w.ready.isSome

/-- WORK_ENTRY_READY (R256): an armed entry fires, a fired send moves its next chunk, or an entry that is
over moves its counter after its team's restore (R253). -/
def execWorkEntryReady (uid entry : Nat) (s : State) : Host.Outcome State Fault Refusal :=
  .next (match s.entry? uid entry with
    | none => s
    | some (t, w) =>
      if !entryReady s t w then s
      else
        match w.ending with
        | some err => endEntry s uid entry err
        | none =>
          if !w.fired then
            let s := entryAcquire s t w
            match s.entry? uid entry with
            | some (t, w) => if isRecv w.kind then fireReceive s t w else s
            | none => s
          else
            match w.ready with
            | some m => sendChunk s t w m
            | none => s)

/-! Ends -/

/-- The other entry of a match, and what it is told when this one ends early (R256, R308). -/
def tellPeer (s : State) (t : Team) (w : WorkEntry) : State :=
  if w.collect.isSome then s
  else if isRecv w.kind then tellSender s t w false false true 0
  else
    match s.launchOf t, entryGroup s t w with
    | some n, some g =>
      sendMsg s t (rankCoord s n g w.peer) true { entryMsg s t g w with error := true } toReceiver
    | _, _ => s

/-- IRET.cancel of a work entry (R299, R330): it completes with the error of R256. -/
def cancelEntry (s : State) (uid num : Nat) : State :=
  match s.entry? uid num with
  | none => s
  | some (t, w) => endEntry (tellPeer s t w) uid num true

/-- Entries that a team leaves behind: at its exit those that have not fired, at a kill all (R256, R308).
Their own counters are not moved; messages held for them are dropped with them. -/
def dropEntries (s : State) (uid : Nat) (killed : Bool) : State :=
  match s.team? uid with
  | none => s
  | some t =>
    (t.entries.filter fun w => killed || !w.fired).foldl (fun s w =>
      match s.entry? uid w.num with
      | none => s
      | some (t, w) =>
        (tellPeer s t w).modTeam uid fun t => { t with entries := t.entries.filter fun x => x.num != w.num }) s

/-! Instructions -/

/-- The parked match that a new entry collects (R307): complete, and not claimed by another. -/
def collectable (s : State) (t : Team) (group wtag peer gen : Nat) : Option Nat :=
  (s.part? t.part).bind fun p =>
    let xs := p.parked.filter fun x =>
      x.uid == t.uid && x.group == group && x.wtag == wtag && x.src == peer && x.gen == gen
    (xs.find? fun x =>
      (xs.filter fun y => y.ord == x.ord).length == chunkCount x.len
        && !(t.entries.any fun w => w.collect == some x.ord && w.group == group && w.wtag == wtag
          && w.peer == peer && w.gen == gen)).map (·.ord)

/-- Posts an entry (R254, R298, R299): its position, and the message that waits for it. -/
def postEntry (e : Env) (s : State) (g : Group) (h : Handle) : State :=
  let f := e.f
  let kind := f.x.toNat % 8
  let wtag := f.e.toNat / 65536
  let peer := (e.b.sreg f.b.toNat).toNat
  let gen := if f.len == 2 then f.l.toNat else 0
  let key := matchKey g.index wtag peer kind
  let collect := if kind == 3 then collectable s e.t g.index wtag peer gen else none
  let ord := tabGet 0 e.t.ords key
  let party := engineParty s.parties 0
  let w : WorkEntry :=
    { num := e.t.posted, kind, op := f.x.toNat / 16 % 4, f := f.f, handle := h, hIndex := f.h.toNat
      off := (e.b.sreg f.d.toNat).toNat, len := (e.b.sreg f.a.toNat).toNat, peer
      ctr := (e.b.sreg f.c.toNat).toNat, wtag, group := g.index, slot := f.e.toNat % 4, gen, rank := e.rank
      armed := none, fired := false, ready := none, chunks := 0, held := [], mismatches := [], ord, collect
      ending := none, fault := none, party, vc := e.clocks }
  let s := { s with parties := s.parties + 1 }.modTeam e.t.uid fun t =>
    { t with posted := t.posted + 1, entries := t.entries ++ [w]
             ords := if collect.isSome then t.ords else tabPut t.ords key (ord + 1) }
  match s.part? e.t.part, s.team? e.t.uid with
  | some p, some t =>
    let mine := fun (m : XferMsg) =>
      match msgGroup s p.num m with
      | some (n, g) =>
        (rankTeam s n g m.srcRank).any fun u => u.uid == t.uid && (sendEntry u g m).any fun x => x.num == w.num
      | none => false
    match p.rtr.find? mine with
    | none => s
    | some m =>
      let s := s.modPart p.num fun p => { p with rtr := p.rtr.filter fun x => x != m }
      if m.error then closeEntry s t.uid w.num true else s.modEntry t.uid w.num fun w => { w with ready := some m }
  | _, _ => s

/-- QPW.POST (R253, R254, R298). The operands are tested in the order 6, 5, 2, 3, 4, and an offset or length that is not a
multiple of 8 raises cause 0x07 (DESIGN CHOICE, log entry 112). -/
def execQpwPost (f : Fields) (s : State) : Host.Outcome State Fault Refusal :=
  perform (.qpwPost f) s fun e =>
    let bad := fun (s : State) (opnd value : Nat) => Act.trapAt s { cause := 4, opnd, lanes := e.act, value }
    let len := (e.b.sreg f.a.toNat).toNat
    let peer := (e.b.sreg f.b.toNat).toNat
    let ctr := (e.b.sreg f.c.toNat).toNat
    let off := (e.b.sreg f.d.toNat).toNat
    match e.s.groupAt e.t (f.e.toNat % 4) with
    | none => bad e.s 6 (f.e.toNat % 4)
    | some g =>
      if !g.c then bad e.s 6 (f.e.toNat % 4)
      else
        match namedEntry e.s e.t f.h.toNat [2, 3, 4, 5, 6] fun _ => true with
        | (s, .bad) => bad s 5 f.h.toNat
        | (s, r) =>
          if len < 8 || 2 ^ 30 < len then bad s 2 len
          else if 2 ^ 16 ≤ peer || g.total ≤ peer then bad s 3 peer
          else if 64 ≤ ctr then bad s 4 ctr
          else if off % 8 != 0 || len % 8 != 0 then .trapAt s { cause := 7, lanes := e.act }
          else
            match r with
            | .late d => .fault s { d with lanes := e.act }
            | .got h =>
              if e.t.replay.isSome then .go s
              else if 64 ≤ e.t.entries.length then .wait e.s e.act .plain
              else .go (postEntry e s g h)
            | .bad => bad s 5 f.h.toNat

/-- The threshold or addend: sB, or E zero-extended (R255, R257). -/
def countOperand (e : Env) : Nat := if e.f.len == 0 then (e.b.sreg e.f.b.toNat).toNat else e.f.e.toNat

/-- QPW.ARM (R255). -/
def execQpwArm (f : Fields) (s : State) : Host.Outcome State Fault Refusal :=
  perform (.qpwArm f) s fun e =>
    let sa := (e.b.sreg f.a.toNat).toNat
    let n := countOperand e
    let bad := fun (opnd value : Nat) => Act.trap { cause := 4, opnd, lanes := e.act, value }
    if 2 ^ 18 ≤ sa then bad 2 sa
    else if 2 ^ 63 ≤ n then bad 3 n
    else unlessReplay e <|
      .go (e.s.modTeam e.t.uid fun t =>
        { t with entries := t.entries.map fun w =>
            if w.armed.isNone && w.slot == sa / 65536 && w.wtag == sa % 65536 then
              { w with armed := some (f.c.toNat, n) } else w })

/-- CNT.ADD (R257): the release precedes the add. -/
def execCntAdd (f : Fields) (s : State) : Host.Outcome State Fault Refusal :=
  perform (.cntAdd f) s fun e => unlessReplay e <|
    .go (e.s.modTeam e.t.uid fun t =>
      { t with k := t.k.set f.d.toNat (t.k.getD f.d.toNat 0 + word (countOperand e))
               kRel := t.kRel ++ [(f.d.toNat, mkRelease e.t e.rank (e.b.lane e.issuer).vc 3 0)] })

/-- CNT.WAIT (R257). -/
def execCntWait (f : Fields) (s : State) : Host.Outcome State Fault Refusal :=
  perform (.cntWait f) s fun e =>
    let n := countOperand e
    if 2 ^ 63 ≤ n then .trap { cause := 4, opnd := 3, lanes := e.act, value := n }
    else
      withReplay e [e.act]
        (fun s vs => .go (s.modBraid e.t.uid e.rank fun b => b.setS f.d.toNat (word (vs.headD 0)))) <|
      let v := e.t.k.getD f.a.toNat 0
      if v.toNat % 2 ^ 63 < n then .wait e.s e.act .plain
      else
        let s := e.s.modBraid e.t.uid e.rank fun b => b.setS f.d.toNat v
        let rels := (e.t.kRel.filter fun r => r.1 == f.a.toNat).map (·.2)
        .go (logValue e (s.acquire e.t e.rank e.act rels 4 0) 0 v.toNat)

end Sys2Proof.Machine
end

