-- ==== Sys2Proof/Machine/Sync.lean ====
section
/-! DEFINITION. Synchronisation (R196-R212): barriers, phase objects, tickets, the Hitch, fences, TRIG,
YIELD and SLEEP. -/

namespace Sys2Proof.Machine

/-- Ends an instruction whose lanes `left` still wait (R188). In a melded region nothing has changed while some of
them wait, and all go on together. -/
def endWait (e : Env) (s : State) (left : Mask) (w : WaitAt) : Act :=
  if left == 0 then .go s else if e.b.meld then .wait e.s e.act w else .wait s left w

/-- Scope and slot of H (R140). -/
def Env.hscope (e : Env) : Nat := e.f.h.toNat % 8
def Env.hslot (e : Env) : Nat := e.f.h.toNat / 8 % 4

/-- An illegal group operand (R27, R196, R204); evalue is the slot number alone (DESIGN CHOICE, log entry 111). -/
def slotTrap (e : Env) : Trap := { cause := 4, opnd := 5, lanes := e.act, value := e.hslot }

/-- The group that H names, where it satisfies the instruction's own condition. -/
def withGroup (e : Env) (ok : Group → Bool) (k : Launch → Group → Act) : Act :=
  match e.s.launchOf e.t, e.s.groupAt e.t e.hslot with
  | some n, some g => if ok g then k n g else .trap (slotTrap e)
  | _, _ => .trap (slotTrap e)

/-- The release of an issue at a scope (R212): of every active lane. -/
def issueRelease (e : Env) (scope group : Nat) : Release :=
  mkRelease e.t e.rank (e.b.lane e.issuer).vc scope group

/-- What a synchronising write of an issue publishes (R281): its release, and the active lanes' release fences. -/
def issueReleases (e : Env) (scope group : Nat) : List Release :=
  issueRelease e scope group :: (Mask.lanes e.act).flatMap fun l => (e.b.lane l).fences

/-! Barriers -/

/-- Arrives at the team barrier in some lanes. -/
def arriveTeam (e : Env) (m : Mask) : State :=
  let ph := e.t.barPhase
  let s := e.s.modLanes e.t.uid e.rank m fun _ x => { x with arrTeam := some ph }
  let s := s.modTeam e.t.uid fun t => { t with barRel := t.barRel ++ [(ph, issueRelease e 1 0)] }
  settleBarriers s e.t.uid

/-- Arrives at a group barrier in some lanes. -/
def arriveGroup (e : Env) (n : Launch) (g : Group) (m : Mask) : State :=
  let ph := g.bar.phase
  let s := e.s.modLanes e.t.uid e.rank m fun _ x =>
    { x with arrGroup := (g.index, ph) :: x.arrGroup.filter fun a => a.1 != g.index }
  let s := s.modGroup n.num g.index fun x =>
    { x with bar := { x.bar with
        rels := x.bar.rels ++ [(ph, issueRelease e 2 g.index)], took := insertNat e.t.index x.bar.took } }
  settleGroupBarrier s n.num g.index

/-- Active lanes of which a test holds. -/
def Env.actWhere (e : Env) (p : Lane → Bool) : Mask := maskWhere fun l => e.act.getLsbD l && p (e.b.lane l)

/-- Ends a BAR.ARV: the lanes that may have arrived, and those whose previous arrival is for the incomplete phase
wait; in a melded region the arrived lanes stay with them and do not arrive again. -/
def endArrive (e : Env) (last : Lane → Bool) (arrive : Mask → State) : Act :=
  let gone := e.actWhere fun x => x.wait == some .ended
  let left := e.actWhere last &&& ~~~ gone
  let m := e.act &&& ~~~ (left ||| gone)
  let s := if m == 0 then e.s else arrive m
  if left == 0 then .go s else .wait s left .plain

/-- Arrivals of a lane at a group barrier, as a replayed team counts them. -/
def Lane.arrivals (x : Lane) (g : Nat) : Nat :=
  match x.lastGroup g with
  | some p => p + 1
  | none => 0

/-- A replayed team counts its own arrivals at a group barrier (R65, R390): the lanes' number of arrivals stands where
the phase of their last one does, and where the team is the barrier's one member a carve-out falls due. -/
def replayArrive (e : Env) (g : Group) : State :=
  let s := e.s.modLanes e.t.uid e.rank e.act fun _ x =>
    { x with arrGroup := (g.index, x.arrivals g.index) :: x.arrGroup.filter fun a => a.1 != g.index }
  let mine := (e.b.lane (Mask.lowest e.act)).arrivals g.index + 1
  s.modTeam e.t.uid fun t =>
    if t.carve.isSome && g.members.length == 1 && t.allLane fun x => !x.live || mine ≤ x.arrivals g.index then
      { t with carveDue := true }
    else t

/-- BAR.ARV (R196): a lane whose previous arrival is for the phase still incomplete waits. A replayed team counts its
own arrivals, which bring about its carve-outs (R65), and waits for none (R390). -/
def execBarArv (f : Fields) (s : State) : Host.Outcome State Fault Refusal :=
  perform (.barArv f) s fun e =>
    if e.hscope == 1 then
      if e.t.replay.isSome then .go (arriveTeam e e.act)
      else endArrive e (fun x => x.arrTeam == some e.t.barPhase) (arriveTeam e)
    else withGroup e (·.b) fun n g =>
      if e.t.replay.isSome then .go (replayArrive e g)
      else if g.bar.broken then .go e.s
      else endArrive e (fun x => x.lastGroup g.index == some g.bar.phase) (arriveGroup e n g)

/-- Each lane whose BAR.WAIT ends acquires at the barrier's scope (R197, R212): from what was released for the phase
that it arrived in, where that phase has completed. -/
def barAcquire (e : Env) (s : State) (rels : List (Nat × Release)) (last : Lane → Option Nat) (now : Nat)
    (m : Mask) (scope group : Nat) : State :=
  (Mask.lanes m).foldl (fun s l =>
    let done := fun (r : Nat × Release) => r.1 < now && last (e.b.lane l) == some r.1
    s.acquire e.t e.rank (BitVec.ofNat 32 (2 ^ l)) ((rels.filter done).map (·.2)) scope group) s

/-- Ends a BAR.WAIT in some lanes: the predicate and the log (R197, R389). -/
def barDone (e : Env) (s : State) (m : Mask) (broken : Bool) : State :=
  let s := s.modLanes e.t.uid e.rank m fun _ x => x.setPred e.f.d.toNat broken
  logValues e s 0 (Mask.lanes m) fun _ => bit broken

/-- A lane still waits for the phase of its last arrival (R197). -/
def stillWaits (last : Option Nat) (now : Nat) : Bool :=
  match last with
  | some p => now ≤ p
  | none => false

/-- The log's next record says that this BAR.WAIT found its barrier broken (R198, R389). -/
def replayBroken (e : Env) : Bool :=
  match matchLog e.s e.t 2 e.rank e.pc.toNat (e.laneMasks.headD 0) with
  | .found x => x.value != 0
  | _ => false

/-- A replayed BAR.WAIT at which a carve-out took effect in the logged run waits for it (R65, R390): the one whose
barrier has been reached, at group scope where every lane of the team has arrived as often and the barrier was not
broken (log entry 103). -/
def replayCarve (e : Env) : Option State :=
  if e.t.replay.isNone || e.t.carve.isNone then none
  else if e.hscope != 1 then
    match e.s.groupAt e.t e.hslot with
    | none => none
    | some g =>
      if e.t.carveDue then some e.s
      else if g.members.length ≤ 1 || replayBroken e then none
      else
        let mine := (Mask.lanes e.act).foldl (fun k l => max k ((e.b.lane l).arrivals g.index)) 0
        some (if e.t.allLane fun x => !x.live || mine ≤ x.arrivals g.index then
            e.s.modTeam e.t.uid fun t => { t with carveDue := true }
          else e.s)
  else if e.t.carveDue || (e.actWhere fun x => stillWaits x.arrTeam e.t.barPhase) != 0 then some e.s
  else none

/-- BAR.WAIT (R197, R198). -/
def execBarWait (f : Fields) (s : State) : Host.Outcome State Fault Refusal :=
  perform (.barWait f) s fun e =>
    match replayCarve e with
    | some s => .wait s e.act .plain
    | none =>
    withReplay e e.laneMasks
      (fun s vs => .go (s.modLanes e.t.uid e.rank e.act fun l x =>
        x.setPred f.d.toNat (vs.getD ((Mask.lanes e.act).findIdx (· == l)) 0 != 0))) <|
    if e.hscope == 1 then
      let left := e.actWhere fun x => stillWaits x.arrTeam e.t.barPhase
      let m := e.act &&& ~~~ left
      endWait e (barDone e (barAcquire e e.s e.t.barRel (·.arrTeam) e.t.barPhase m 1 0) m false) left .plain
    else withGroup e (·.b) fun _ g =>
      let left := if g.bar.broken then 0
        else e.actWhere fun x => stillWaits (x.lastGroup g.index) g.bar.phase
      let m := e.act &&& ~~~ left
      endWait e
        (barDone e (barAcquire e e.s g.bar.rels (·.lastGroup g.index) g.bar.phase m 2 g.index) m g.bar.broken)
        left .plain

/-! Phase objects -/

/-- The offset of a phase object (R200). -/
def phaseOff (e : Env) : Int := signed 64 (e.b.sreg e.f.a.toNat).toNat + signed 32 e.f.e.toNat

/-- Reaches a phase object (R200): handle, operand C, alignment, the entry's translation, bound and departure, in the
order of R146. -/
def withPhase (e : Env) (early : Option Trap) (k : State → Spot → Act) : Act :=
  let off := phaseOff e
  let reqs : List LaneReq := (Mask.lanes e.act).map fun l => { lane := l, off }
  withHandleFirst e [2, 3, 4] early [] reqs 16 fun s h =>
    match phaseSpot s (e.teamOf (Mask.lowest e.act)) h e.f.h.toNat off with
    | .error d => .fault s { d with lanes := e.act }
    | .ok sp => k s sp

/-- What a PHARR adds and subtracts (R201). -/
def pharrCounts (e : Env) : Int × Int :=
  match e.f.variant with
  | 0 => (0, Int.ofNat (Mask.count e.act))
  | 1 => (0, 1)
  | _ => (Int.ofNat ((e.b.sreg e.f.c.toNat).toNat % 2 ^ 32), 1)

/-- The model check of the one access that an instruction makes for all its lanes. -/
def checkOne (e : Env) (s : State) (u : Use) (sp : Spot) (k : State → Act) : Act :=
  match checkModel s e.t e.accessor u sp true with
  | (s', .error d) => .fault { s' with shadow := s.shadow } { d with lanes := e.act }
  | (s', .ok ()) =>
    match probe s' e.t.part u sp with
    | (s', .error d) => .fault { s' with shadow := s.shadow } { d with lanes := e.act }
    | (s', .ok ()) => k s'

/-- The refusal of R201 and R202. -/
def overrunTrap (e : Env) (detail : Nat) : Trap := { cause := 0x0F, detail, lanes := e.act }

/-- PHARR (R201). -/
def execPharr (f : Fields) (s : State) : Host.Outcome State Fault Refusal :=
  perform (.pharr f) s fun e =>
    let b := (e.b.sreg f.b.toNat).toNat % 65536
    let (add, sub) := pharrCounts e
    let c := (e.b.sreg f.c.toNat).toNat
    let early := if f.variant == 2 && 2 ^ 32 ≤ c then
        some { cause := 4, opnd := 4, lanes := e.act, value := c : Trap } else none
    withPhase e early fun s sp =>
      let shared := e.t.replay.isSome && isShared s e.t sp
      if shared then .go s
      else
        match sp.place with
        | .peer _ _ _ => checkOne e s .rmw sp fun s =>
          withPeers e s [(Mask.lowest e.act, sp)] (fun _ _ =>
              { baseRecord e.s e.t .atomic with
                origin := originOf e.s e.accessor true (issueReleases e sp.h.scope sp.h.wgroup)
                op := 8, ret := true, data := leBytes 8 b ++ leBytes 8 add.toNat ++ leBytes 8 sub.toNat })
            fun s far =>
              let d := (far (Mask.lowest e.act)).1.toNat
              if d == 0 then .go s else .trapAt s (overrunTrap e d)
        | _ =>
          match phaseUpdate (phaseAt s sp) b add sub with
          | .error d => .trapAt s (overrunTrap e d)
          | .ok _ =>
            checkOne e s .rmw sp fun s =>
              match arrivePhase s sp b add sub (issueReleases e sp.h.scope sp.h.wgroup) with
              | .ok s => .go s
              | .error d => .trapAt s (overrunTrap e d)

/-- Where a lane waits at a phase object (R203). -/
def phaseWait (sp : Spot) : WaitAt :=
  match sp.place with
  | .scratch u a => .phase 2 u a
  | .chip a => .phase 4 0 a
  | .peer c _ a => .far c sp.h.wgroup a
  | _ => .plain

/-- Ends a PHWAIT: the predicate, each lane's acquire, and the log (R202). -/
def phwaitDone (e : Env) (s : State) (sp : Spot) (rels : List Release) (broken : Bool) : Act :=
  let s := s.modLanes e.t.uid e.rank e.act fun _ x => x.setPred e.f.d.toNat broken
  let s := s.meetAll e.t e.rank e.act rels
  let s := s.acquire e.t e.rank e.act rels sp.h.scope sp.h.wgroup
  .go (logValue e s e.f.h.toNat (bit broken))

/-- While an instruction waits, its lanes wait at this. -/
def Act.waitingAt (w : WaitAt) : Act → Act
  | .wait s left _ => .wait s left w
  | a => a

/-- PHWAIT (R202). -/
def execPhwait (f : Fields) (s : State) : Host.Outcome State Fault Refusal :=
  perform (.phwait f) s fun e =>
    let b := (e.b.sreg f.b.toNat).toNat % 65536
    withReplay e [e.act]
      (fun s vs => .go (s.modLanes e.t.uid e.rank e.act fun _ x => x.setPred f.d.toNat (vs.headD 0 != 0))) <|
    withPhase e none fun s sp =>
      let go := fun (s : State) (o : PhaseObj) (rels : List Release) =>
        let d := o.ahead b
        if 2 ≤ d && d < 0x8000 then .trapAt s (overrunTrap e 1)
        else checkOne e s .syncRead sp fun s =>
          if 0x8000 ≤ d || o.broken then
            phwaitDone e s sp (if 0x8000 ≤ d then rels.filter (phasePassed b) else []) o.broken
          else .wait s e.act (phaseWait sp)
      match sp.place with
      | .peer _ _ _ =>
        (withPeers e s [(Mask.lowest e.act, sp)] (fun _ _ => { baseRecord e.s e.t .load with
            count := 16, origin := originOf e.s e.accessor true [] })
          fun s far =>
            let v := far (Mask.lowest e.act)
            go s (parsePhase v.1.toNat) v.2).waitingAt (phaseWait sp)
      | _ => go s (phaseAt s sp) (relsAt s sp.place 16)

/-! Tickets -/

/-- The sequence that E names (R204). -/
def Env.seqNo (e : Env) : Nat := e.f.e.toNat % 4

/-- TKT.TAKE (R205). -/
def execTktTake (f : Fields) (s : State) : Host.Outcome State Fault Refusal :=
  perform (.tktTake f) s fun e => unlessReplay e <| withGroup e (fun g => !g.span) fun n g =>
    let r := g.rank 0 e.t.index
    match (g.tickets[e.seqNo]?).bind fun q => q.take r false with
    | none => .trap { cause := 0x0D, lanes := e.act }
    | some q =>
      let q := { q with rels := q.rels ++ [{ issueRelease e 2 g.index with phase := r }] }
      .go (e.s.modGroup n.num g.index fun x => { x with tickets := x.tickets.set e.seqNo q })

/-- TKT.WAIT (R205). -/
def execTktWait (f : Fields) (s : State) : Host.Outcome State Fault Refusal :=
  perform (.tktWait f) s fun e =>
    withReplay e [e.act]
      (fun s vs => .go (s.modLanes e.t.uid e.rank e.act fun _ x => x.setPred f.d.toNat (vs.headD 0 != 0))) <|
    withGroup e (fun g => !g.span) fun _ g =>
      let r := g.rank 0 e.t.index
      match g.tickets[e.seqNo]? with
      | none => .trap (slotTrap e)
      | some q =>
        if q.now < r then .wait e.s e.act .plain
        else
          let s := e.s.modLanes e.t.uid e.rank e.act fun _ x => x.setPred f.d.toNat q.poison
          let s := s.acquire e.t e.rank e.act (q.rels.filter fun k => k.phase < r) 2 g.index
          .go (logValue e s 0 (bit q.poison))

/-! The Hitch -/

/-- HITCH.WAIT (R207). -/
def execHitchWait (f : Fields) (s : State) : Host.Outcome State Fault Refusal :=
  perform (.hitchWait f) s fun e =>
    match e.s.launchOf e.t with
    | none => .go e.s
    | some n =>
      if !n.det then .go e.s
      else
        withReplay e [e.act]
          (fun s vs => .go (s.modLanes e.t.uid e.rank e.act fun _ x => x.setPred f.d.toNat (vs.headD 0 != 0))) <|
        let id := logicalId e.t.index e.rank
        if n.turnSpent id then .trap { cause := 0x0D, lanes := e.act }
        else if id != n.hitchNow then .wait e.s e.act .plain
        else
          let s := e.s.modLaunch n.num fun n => { n with hitchHeld := true }
          let s := s.modLanes e.t.uid e.rank e.act fun _ x => x.setPred f.d.toNat n.hitchPoison
          let s := s.acquire e.t e.rank e.act (n.hitchRel.filter fun r => r.phase < id) 3 0
          .go (logValue e s 0 (bit n.hitchPoison))

/-- HITCH.PASS (R207). -/
def execHitchPass (f : Fields) (s : State) : Host.Outcome State Fault Refusal :=
  perform (.hitchPass f) s fun e => unlessReplay e <|
    match e.s.launchOf e.t with
    | none => .go e.s
    | some n =>
      if !n.det then .go e.s
      else .go (e.s.modLaunch n.num fun n =>
        n.endTurn (logicalId e.t.index e.rank) false [issueRelease e 3 0])

/-! Fences, TRIG, YIELD and SLEEP -/

/-- A lane has remote stores or atomics that are not yet performed (R208). -/
def remoteOut (s : State) (uid rank : Nat) (m : Mask) : Bool :=
  s.txs.any fun x => x.uid == uid && x.rank == rank && m.getLsbD x.lane

/-- FENCE (R208): a release leaves what a later synchronising write publishes, an acquire takes the
releases that earlier synchronising reads met (R281). -/
def execFence (f : Fields) (s : State) : Host.Outcome State Fault Refusal :=
  perform (.fence f) s fun e =>
    let rel := f.x.getLsbD 1
    let acq := f.x.getLsbD 0
    let go := fun (group : Nat) =>
      if rel && e.hscope == 4 && e.t.replay.isNone && remoteOut e.s e.t.uid e.rank e.act then
        .wait e.s e.act .plain
      else
        let s := if rel then
            e.s.modLanes e.t.uid e.rank e.act fun l x =>
              let vc := if e.hscope == 4 then remoteClocks e.t.uid e.rank l x.vc else x.vc
              { x with vc, fences := x.fences ++ [mkRelease e.t e.rank vc e.hscope group] }
          else e.s
        .go (if acq then
            (Mask.lanes e.act).foldl (fun s l =>
              s.acquire e.t e.rank (BitVec.ofNat 32 (2 ^ l)) (e.b.lane l).seen e.hscope group) s
          else s)
    if e.hscope == 2 then withGroup e (·.b) fun _ g => go g.index else go 0

/-- Marks a group not ready for one consideration (R210). -/
def execYield (f : Fields) (s : State) : Host.Outcome State Fault Refusal :=
  perform (.yield f) s fun e =>
    .go (e.s.modLanes e.t.uid e.rank e.act fun _ x => { x with yielded := true })

/-- The clocks that a SLEEP asks for (R211). -/
def sleepClocks (e : Env) : Nat :=
  if e.f.len == 0 then (e.b.sreg e.f.b.toNat).toNat else e.f.e.toNat

/-- SLEEP (R211): the active lanes wait at the SLEEP until its clocks have passed. -/
def execSleep (f : Fields) (s : State) : Host.Outcome State Fault Refusal :=
  perform (.sleep f) s fun e =>
    let n := sleepClocks e
    if 2 ^ 24 ≤ n then .trap { cause := 4, opnd := 3, lanes := e.act, value := n }
    else
      let asleep := e.actWhere fun x => x.sleepUntil.isSome
      let fresh := e.act &&& ~~~ asleep
      if fresh == 0 then .wait e.s e.act .plain
      else if n == 0 && asleep == 0 then .go e.s
      else
        .wait (e.s.modLanes e.t.uid e.rank fresh fun _ x =>
            { x with sleepUntil := some (e.s.clock + n, nextPc x.pc (lenBytes f.len)) })
          e.act .plain

/-- The sleep of a braid's lanes is over (R211): those whose clocks have passed go on at the next
instruction; in a melded region all go on together when the last sleeping lane's clocks have passed. -/
def execSleepExpiry (r : BraidRef) (s : State) : Host.Outcome State Fault Refusal :=
  .next (s.modBraid r.uid r.rank fun b =>
    let asleep := maskWhere fun l => (b.lane l).live && (b.lane l).sleepUntil.isSome
    let due := maskWhere fun l =>
      (b.lane l).live && match (b.lane l).sleepUntil with
        | some c => c.1 ≤ s.clock
        | none => false
    if b.meld && due != asleep then b else b.wake due)

end Sys2Proof.Machine
end

