-- ==== Sys2Proof/Machine/Exit.lean ====
section
/-! DEFINITION. Admission units (R30), a team's exit, held or complete (R35, R38, R192), kills (R36, R38, R42,
R344), and the instructions of a team's own life: EXIT, TRIG, CARVE, DETACH, IDEM.BEGIN and IDEM.END. -/

namespace Sys2Proof.Machine

/-- The teams of a team's unit that are bound or saved here. -/
def unitTeams (s : State) (t : Team) : List Team :=
  match s.launchOf t with
  | none => [t]
  | some n => s.teams.filter fun u => u.launch == t.launch && (unitOf n t.index).contains u.index

/-- The gangs that a unit belongs to. -/
def unitGangs (n : Launch) (index : Nat) : List Word :=
  (n.groups.filter fun g => g.span && g.w && g.members.any (unitOf n index).contains).map (·.gang)

/-! Gangs -/

/-- The gangs that a launch holds a share of (R345, R346). -/
def Launch.gangs (n : Launch) : List Word :=
  ((n.groups.filter fun g => g.span).map (·.gang)).eraseDups

/-- The pattern of a gang of a launch, its coordinator (the device of rank 0), and its devices. -/
def Launch.gangPeers (n : Launch) (gang : Word) : Word :=
  ((n.groups.find? fun g => g.span && g.gang == gang).map (·.peers)).getD 0
def gangDevices (p : Partition) (peers : Word) : List Nat :=
  let me := p.coord
  (me :: targets peers p me).foldl (fun l c => insertNat c l) []
def gangHead (p : Partition) (peers : Word) : Nat := (gangDevices p peers).headD 0

/-- The gang's record of a partition. -/
def Partition.gang? (p : Partition) (gang : Word) : Option GangState := p.gangs.find? fun g => g.gang == gang
def GangState.new (gang : Word) : GangState :=
  { gang, pausing := false, validated := [], paused := [], idem := [], ready := [], stopping := false }
def Partition.modGang (p : Partition) (gang : Word) (k : GangState → GangState) : Partition :=
  if (p.gang? gang).isSome then { p with gangs := p.gangs.map fun g => if g.gang == gang then k g else g }
  else { p with gangs := p.gangs ++ [k (GangState.new gang)] }

/-- Sends a gang's control message to a device; to this one it is an input. The codes are those of
R372: 1 pause request, 2 PAUSE, 3 PAUSED, 4 SAVE, 5 READY, 6 GO, 7 FAIL, 8 VALIDATED. -/
def gangInstr (code : Nat) (m : GangMsg) : Instr :=
  match code with
  | 1 => .pauseRequest m
  | 2 => .pause m
  | 3 => .paused m
  | 4 => .save m
  | 5 => .ready m
  | 6 => .go m
  | 7 => .fail m
  | _ => .validated m
def sendGang (s : State) (p : Partition) (dst code : Nat) (m : GangMsg) : State :=
  if dst == p.coord then { s with inputs := s.inputs ++ [gangInstr code m] }
  else postOut s p.num (.control dst code { m with job := p.reg 0x0202 0 })

/-- Members that this device holds of a gang's group. -/
def gangCount (n : Launch) (gang : Word) : Nat :=
  ((n.groups.find? fun g => g.span && g.gang == gang).map (·.members.length)).getD 0

/-! Leaving -/

/-- A member of a launch counts as attached no longer (R34, R35). -/
def leaveWindow (s : State) (n : Launch) (index : Nat) (departed : Bool) : State :=
  s.modLaunch n.num fun n =>
    { n with groups := n.groups.map fun g =>
        if g.members.contains index then
          { g with left := insertNat index g.left
                   departed := if departed then insertNat index g.departed else g.departed }
        else g }

/-- A local peer in a window group of the team is still attached; a peer on another device may be (R35). -/
def peerAttached (s : State) (t : Team) : Bool :=
  match s.launchOf t with
  | none => false
  | some n =>
    (groupsOf n t.index).any fun g =>
      g.w && g.members.any fun m => m != t.index && !g.left.contains m && (s.member? n.num m).isSome
def peerAbroad (s : State) (t : Team) : Bool :=
  match s.launchOf t with
  | none => false
  | some n => (groupsOf n t.index).any fun g => g.w && !g.remote.isEmpty

/-- The releases of a team's own exit. -/
def exitReleases (s : State) (t : Team) : List Release :=
  ((s.launchOf t).map fun n => n.exitRel.filter fun r => r.uid == t.uid).getD []

/-- What a member of a launch still owes its groups and the launch's Hitch at its exit or kill, and which windows
it leaves (R34-R36, R38, R198, R206, R207). -/
def settleMember (s : State) (n : Launch) (index : Nat) (killed : Bool) (rels : List Release) : State :=
  let s := (groupsOf n index).foldl (fun s g =>
    passTickets (leaveBarrier s n.num g.index index killed) n.num g index killed rels) s
  let s := if n.det then
      s.modLaunch n.num fun n =>
        (List.range n.braids).foldl (fun n r => n.endTurn (logicalId index r) killed rels) n
    else s
  leaveWindow s n index true
def settleOwed (s : State) (t : Team) (killed : Bool) : State :=
  match s.launchOf t with
  | none => s
  | some n => settleMember s n t.index killed (if killed then [] else exitReleases s t)

/-- The exit of a team is complete (R38): what it owes is passed, its locked lines and unfired entries go, and
it is marked once its commands and fired entries have ended. -/
def completeExit (s : State) (uid : Nat) : State :=
  match s.team? uid with
  | none => s
  | some t =>
    let s := settleOwed s t false
    let s := dropEntries s uid false
    commandOver (s.modTeam uid fun t => { t with status := .exiting, exited := true, locks := [] }) uid

/-- The exit of a team is held (R35): braids, counters and braid slots are released at once, tiles and slots
once no command names them; the scratchpad stays. -/
def holdExit (s : State) (uid : Nat) : State :=
  commandOver
    (settleBarriers
      (s.modTeam uid fun t =>
        { t with status := .heldExit, exited := true, base := t.base + footprint t.braids.length t.vblk 0
                 braids := [], k := List.replicate 64 0, kRel := [] }) uid) uid

/-- Every braid of a team has exited (R192). A supervisor team keeps its binding, and its commands complete (R38,
R324). -/
def beginExit (s : State) (uid : Nat) : State :=
  match s.team? uid with
  | none => s
  | some t =>
    if t.isSup then
      let s := dropEntries s uid false
      commandOver (s.modTeam uid fun t => { t with status := .exiting, exited := true, nodes := [], locks := [] }) uid
    else
      let s := s.modTeam uid fun t =>
        { t with carve := none, carveDue := false, nodes := []
                 stop := match t.stop with | .save => .save | .held => .held | _ => .none }
      let s := match s.launchOf t with
        | some n => leaveWindow s n t.index false
        | none => s
      if peerAttached s t || peerAbroad s t then holdExit s uid else completeExit s uid

/-- A team all of whose lanes have exited begins its exit. -/
def exitIfDone (s : State) (uid : Nat) : State :=
  match s.team? uid with
  | none => s
  | some t => if t.status == .running && t.allLane (fun x => !x.live) then beginExit s uid else s

/-- HELD_EXIT_COMPLETE (R35): no peer in a window group is attached any more. -/
def execHeldExitComplete (uid : Nat) (s : State) : Host.Outcome State Fault Refusal :=
  .next (match s.team? uid with
    | none => s
    | some t => if t.status == .heldExit && !peerAttached s t then completeExit s uid else s)

/-! Kills -/

/-- A lane that is killed at a PHWAIT owed an arrival: BROKEN is set at the object's port (R203). -/
def breakWait (s : State) (t : Team) (w : WaitAt) : State :=
  let sp := fun (p : Place) => { place := p, addr := 0, h := Handle.none, hIdx := 0, group := 0, n := 16 : Spot }
  match w with
  | .plain | .ended => s
  | .phase k id a => breakPhase s (sp (if k == 4 then .chip a else .scratch id a))
  | .far dst g a =>
    let (s, tag) := newTag s t.uid 0
    let x := (s.launchOf t).bind fun n => n.groups.find? fun x => x.index == g
    postRecord s t.part dst { baseRecord s t .atomic with
      tag, op := 10, ret := true, peerH := windowPeer, offset := Int.ofNat a
      gang := (x.map (·.gang)).getD 0, peers := (x.map (·.peers)).getD 0 }

/-- The phase objects at which lanes of a team wait, each once. -/
def waitsOf (t : Team) : List WaitAt :=
  (t.braids.flatMap fun b => b.lanes.filterMap fun x => if x.live then x.wait else none).eraseDups

/-- Ends the save that is in progress on a team or asked for (R344); a move or debug stop goes on. -/
def endStop (t : Team) : Team :=
  match t.stop with
  | .save | .held =>
    { t with stop := t.wantStop, wantStop := .none, stopSince := t.wantSince
             braids := if t.dbgStopped then t.braids
               else t.braids.map fun b => if b.stop == .safePoint then { b with stop := .running } else b }
  | _ => { t with wantStop := match t.wantStop with | .save | .held => .none | r => r }

/-- A kill ends the pause of the team's gangs on this device (R344): their members run on, and neither PAUSED nor SAVE
means anything to it until the next pause. GO tells the other devices so (log entry 102). -/
def endPause (s : State) (t : Team) : State :=
  match s.launchOf t, s.part? t.part with
  | some n, some p =>
    (unitGangs n t.index).foldl (fun s g =>
      let up := (p.gangs.find? fun x => x.gang == g).any fun x => x.pausing
      if up then
        let s := s.modPart p.num fun p => p.modGang g fun x => { x with pausing := false, stopping := false, paused := [], idem := [] }
        ((gangDevices p (n.gangPeers g)).filter (· != p.coord)).foldl (fun s c =>
          sendGang s p c 6 { part := p.num, gang := g, src := p.coord, count := 0, idem := false }) s
      else s) s
  | _, _ => s

/-- Everything a killed team leaves behind but its mark (R36, R38, R203, R307, R330, R344). What a team owes has been
passed where its exit is complete. -/
def killBody (s : State) (t : Team) : State :=
  let s := (waitsOf t).foldl (fun s w => breakWait s t w) s
  let s := (List.range 8).foldl (fun s k => cancelCommand s t.uid k) s
  let s := dropEntries s t.uid true
  let s := if t.status == .exiting then s else settleOwed s t true
  let s := s.modPart t.part fun p => { p with
    faults := p.faults.filter fun r => r.uid != t.uid, parked := p.parked.filter fun x => x.uid != t.uid }
  let saves := fun (r : StopReq) => r == .save || r == .held
  let s := if saves t.stop || saves t.wantStop then
      endPause ((unitTeams s t).foldl (fun s u => s.modTeam u.uid endStop) s) t
    else s
  { s with txs := s.txs.filter fun x => x.uid != t.uid }

/-- Kills one team (R36, R38, R40). The record is the one that the kill settles, for its dump (R364). -/
def killTeam (s : State) (uid : Nat) (record : Option FaultRec) : State :=
  match s.team? uid with
  | none => s
  | some t =>
    let s := match record with
      | some r => takeDump s t r
      | none => s
    let s := killBody s t
    match s.launchOf t with
    | none => removeTeam s uid
    | some n =>
      settleLaunch
        (removeTeam (s.modLaunch n.num fun n => { n.mark t.index with poison := true }) uid) n

/-- The team can be killed (R32): not one that only waits for the reorder window. While commands of an exited team
run on, a kill still cancels them (R38, R323). -/
def Team.killable (t : Team) : Bool := t.status != .retiring

/-- Kills a launch as a whole (R42): every team that runs, is saved or held, and every pending one. -/
def killLaunch (s : State) (n : Launch) : State :=
  let uids := (s.teams.filter fun t => t.launch == some n.num && t.killable && t.status != .exiting).map (·.uid)
  let s := uids.foldl (fun s u => match s.team? u with
    | some t => removeTeam (killBody s t) u
    | none => s) s
  settleKilled s n

/-- A pending team is killed without being bound (R38, R42): it owes what a bound one would, and its mark is
recorded. -/
def killPending (s : State) (n : Launch) (index : Nat) : State :=
  (settleMember s n index true []).modLaunch n.num fun n =>
    { n.mark index with poison := true, started := insertNat index n.started }

/-- TEAM_KILL (R38, R344, R364): Gazebo kills one team. A pending team is marked without being bound. -/
def execTeamKill (launch index : Nat) (s : State) : Host.Outcome State Fault Refusal :=
  .next (match s.launch? launch with
    | none => s
    | some n =>
      match s.member? launch index with
      | some t =>
        if t.killable then
          killTeam s t.uid ((s.part? t.part).bind fun p => p.faults.find? fun r => r.uid == t.uid)
        else s
      | none =>
        if n.phase == .ended || n.grid ≤ index || n.started.contains index then s
        else settleLaunch (killPending s n index) n)

/-- The launch that a completion record names in a partition, where it can still be killed (R42, R337). -/
def killTarget (s : State) (part : Nat) (doneRec : Nat) : Option Launch :=
  s.launches.find? fun n => n.part == part && n.doneRec == doneRec && doneRec != 0 && n.phase != .ended && !n.killed

/-- LAUNCH_KILL (R42): a write to lkill. -/
def execLaunchKill (part : Nat) (doneRec : Word) (s : State) : Host.Outcome State Fault Refusal :=
  .next (match killTarget s part doneRec.toNat with
    | none => s
    | some n => killLaunch s n)

/-! Instructions -/

/-- EXIT (R85, R192, R212): the lanes that stay behind go on, melded where they were; the last ones end the region. -/
def execExit (f : Fields) (s : State) : Host.Outcome State Fault Refusal :=
  perform (.exit f) s fun e =>
    let s := e.s.modLanes e.t.uid e.rank e.act fun _ x =>
      { x with live := false, wait := none, sleepUntil := none }
    let s := if e.act == e.b.liveMask then s.modBraid e.t.uid e.rank fun b => { b with meld := false, path := 0 } else s
    let s := match e.s.launchOf e.t with
      | none => s
      | some n => s.modLaunch n.num fun n => { n with exitRel := n.exitRel ++ [issueRelease e 3 0] }
    .moved (exitIfDone (settleBarriers s e.t.uid) e.t.uid)

/-- TRIG (R41, R209): a second one has no further effect. -/
def execTrig (f : Fields) (s : State) : Host.Outcome State Fault Refusal :=
  perform (.trig f) s fun e => unlessReplay e <|
    match e.s.launchOf e.t with
    | none => .go e.s
    | some n =>
      if e.t.triggered then .go e.s
      else
        let s := e.s.modLaunch n.num fun n => { n with trigRel := n.trigRel ++ [issueRelease e 3 0] }
        let s := s.modTeam e.t.uid fun t => { t with triggered := true }
        .go (settleLaunch (s.modLaunch n.num (·.count e.t.index)) n)

/-- VBLK and SCR_GRAN of a carve word, and the value that evalue shows (R214). -/
def carveOperand (e : Env) : Nat := if e.f.len == 0 then (e.b.sreg e.f.a.toNat).toNat else e.f.e.toNat

/-- CARVE (R65, R214). -/
def execCarve (f : Fields) (s : State) : Host.Outcome State Fault Refusal :=
  perform (.carve f) s fun e =>
    let w := carveOperand e
    let vblk := w % 16
    let gran := bitsOf w 13 4
    if (f.len == 0 && 2 ^ 14 ≤ w) || 768 < gran
        || 736 < footprint e.t.braids.length vblk gran || gran < windowGran e.s e.t then
      .trap { cause := 4, opnd := 2, lanes := e.act, value := w }
    else .go (e.s.modTeam e.t.uid fun t => { t with carve := some (vblk, gran) })

/-- The granules that a team takes up: its footprint, and where it is on its way to a new one (R348). -/
def Team.runs (t : Team) : List (Nat × Nat) :=
  (t.base, t.gran) :: [t.stop, t.wantStop].filterMap fun
    | .move b => some (b, t.gran)
    | _ => none

/-- The granules of a core that a footprint would take are free of every other team (R336, R348). -/
def granulesFree (s : State) (core base n uid : Nat) : Bool :=
  base + n ≤ 768 && s.teams.all fun t =>
    !t.onCore core || t.uid == uid || t.runs.all fun r => base + n ≤ r.1 || r.1 + r.2 ≤ base

/-- Granules in use on a core, without one team's. -/
def granulesUsed (s : State) (core uid : Nat) : Nat :=
  (s.teams.filter fun t => t.onCore core && t.uid != uid).foldl (fun n t => n + t.gran) 0

/-- An engine command of the team touches the core scratchpad (R65). -/
def touchesScratch (c : Command) : Bool :=
  let h := fun (x : Handle) => !x.bad && (x.space == 2 || x.space == 3)
  let own := match c.inst with
    | .gath f => !f.x.getLsbD 0 || isIndexed c.inst
    | .scat _ => true
    | i => isIndexed i
  h c.entH || h c.entAux || h c.entP || c.node.isSome || own

/-- The team's state under its new carve-out (R66). -/
def Team.carved (t : Team) (vblk gran base : Nat) : Team :=
  let nv := 8 * (vblk + 1)
  Team.placed { t with
    vblk, scrGran := gran, carve := none, carveDue := false
    scratch := t.scratch.clear (4096 * gran) (4096 * max gran t.scrGran)
    braids := t.braids.map fun b => { b with
      lanes := b.lanes.map fun x => { x with
        v := (x.v.take nv) ++ List.replicate (nv - x.v.length) 0
        tags := (x.tags.take nv) ++ List.replicate (nv - x.tags.length) 0 } } } base

/-- CARVE_TAKES_EFFECT (R65, R66): the barrier has been reached, no command touches the scratchpad, and the
granules from `base` on are free. -/
def execCarveTakesEffect (uid base : Nat) (s : State) : Host.Outcome State Fault Refusal :=
  .next (match s.team? uid with
    | none => s
    | some t =>
      match t.carve with
      | none => s
      | some (vblk, gran) =>
        let n := footprint t.braids.length vblk gran
        if t.status == .running && t.carveDue && t.trackers.all (fun o => o.all fun c => !touchesScratch c)
            && granulesFree s t.core base n uid && granulesUsed s t.core uid + n ≤ Config.usableGranules then
          settleBarriers (s.modTeam uid (·.carved vblk gran base)) uid
        else s)

/-- DETACH (R34, R215): it waits for the braid's window accesses to the group that other devices have not answered;
those of this device are performed as they issue. Its release is met by no row of R281. -/
def execDetach (f : Fields) (s : State) : Host.Outcome State Fault Refusal :=
  perform (.detach f) s fun e =>
    withGroup e (fun g => g.w && !e.t.detached.contains g.index) fun n g => unlessReplay e <|
      if e.b.pendX.any fun x => x.reply.isNone && e.s.txs.any fun y =>
          y.tag == x.tag && y.record.peerH == windowPeer && y.record.gang == g.gang then .wait e.s e.act .plain
      else
      let s := e.s.modTeam e.t.uid fun t => { t with detached := insertNat g.index t.detached }
      .go (s.modGroup n.num g.index fun g => { g with left := insertNat e.t.index g.left })

/-- IDEM.BEGIN (R216). -/
def execIdemBegin (f : Fields) (s : State) : Host.Outcome State Fault Refusal :=
  perform (.idemBegin f) s fun e =>
    if !e.b.fresh || e.pc.toNat != e.t.entry then .trap { cause := 4, lanes := e.act }
    else .go e.s

/-- IDEM.END (R216). -/
def execIdemEnd (f : Fields) (s : State) : Host.Outcome State Fault Refusal :=
  perform (.idemEnd f) s fun e => .go (e.s.modTeam e.t.uid fun t => { t with idem := false })

end Sys2Proof.Machine
end

