-- ==== Sys2Proof/Machine/Launching.lean ====
section
/-! DEFINITION. Launches: LAUNCH and LAUNCH.UNI (R48, R213), the validation of a record (R22-R26, R30, R134,
R378), and the wait for a predecessor (R41). -/

namespace Sys2Proof.Machine

/-! LAUNCH -/

/-- Places a record in a launch queue (R339); children of a deterministic launch stand in the order of their
logical identifiers (R48). -/
def enqueue (q : List QueueEntry) (x : QueueEntry) : List QueueEntry :=
  match x.parent with
  | none => q ++ [x]
  | some (n, id) =>
    let before := q.takeWhile fun y => !(y.parent.any fun p => p.1 == n && id < p.2)
    before ++ x :: q.drop before.length

/-- Creates the children of some lanes, in lane order, and answers each lane's status (R213). -/
def createChildren (e : Env) : List (Nat × Nat) → State → State × List (Nat × Nat)
  | [], s => (s, [])
  | (l, addr) :: rest, s =>
    let det := match e.s.launchOf e.t with
      | some n => if n.det then some (n.num, logicalId e.t.index e.rank) else none
      | none => none
    let room : Bool := match s.part? e.t.part with
      | some p => p.queue.length < Config.queueLength
      | none => false
    let x : QueueEntry := { addr, ctx := e.t.ctx, vc := (e.b.lane l).vc, parent := det }
    let s := if room then s.modPart e.t.part fun p => { p with queue := enqueue p.queue x } else s
    let (s, more) := createChildren e rest s
    (s, (l, if room then 0 else 1) :: more)

/-- The body of both forms: the lanes whose records are used, and the status of a lane. -/
def launchFrom (e : Env) (lanes : List Nat) : Act :=
  let off := fun (l : Nat) => signed 64 (e.src e.f.kindA e.f.a l).toNat + signed 32 e.f.e.toNat
  withHandle e [5, 6] [] (lanes.map fun l => { lane := l, off := off l }) 64 fun s h =>
    let rs := lanes.map fun l => (l, replaySpot h e.f.h.toNat (off l) 128)
    match laneFault rs with
    | some d => .fault s d
    | none =>
      let status := fun (vs : List (Nat × Nat)) (l : Nat) =>
        ((vs.find? fun v => v.1 == l).map (·.2)).getD ((vs.headD (0, 0)).2)
      let done := fun (s : State) (vs : List (Nat × Nat)) =>
        e.writeReg s e.f.kindD e.f.d (fun l => word (status vs l)) fun _ => 8
      withReplay e (lanes.map fun l => BitVec.ofNat 32 (2 ^ l))
        (fun s vs => .go (done s (lanes.zip vs))) <|
        let (s, vs) := createChildren e ((laneSpots rs).map fun x => (x.1, x.2.addr)) s
        .go (logValues e (done s vs) e.f.h.toNat lanes fun l => status vs l)

/-- LAUNCH (R48, R213). -/
def execLaunch (f : Fields) (s : State) : Host.Outcome State Fault Refusal :=
  perform (.launch f) s fun e => launchFrom e (Mask.lanes e.act)

/-- LAUNCH.UNI (R48, R213): the lowest active lane's record. -/
def execLaunchUni (f : Fields) (s : State) : Host.Outcome State Fault Refusal :=
  perform (.launchUni f) s fun e => launchFrom e [Mask.lowest e.act]

/-! Validation -/

/-- A launch record's fields, from its 128 bytes (R22). -/
structure LaunchRec where
  raw : Nat
  predCond : Nat
  predRec : Nat
  doneRec : Nat
  trellis : Nat
  entry : Nat
  code : Nat
deriving DecidableEq, Repr

def parseLaunch (n : Nat) : LaunchRec :=
  { raw := n, predCond := bitsOf n 769 768, predRec := bitsOf n 767 704, doneRec := bitsOf n 703 640
    trellis := bitsOf n 319 256, entry := bitsOf n 95 64, code := bitsOf n 63 0 }

/-- What a read during validation gave: bytes, or the mark of cause 0x04. -/
abbrev Seen := Option (List Byte)

/-- A read under the launch's context (R23, R351). -/
def look (s : State) (part ctx va n : Nat) (kind : AccessKind) : State × Seen :=
  match readBytes s part ctx va n kind with
  | (s, .ok bs) => (s, some bs)
  | (s, .error _) => (s, none)

/-- A code-object header (R134). -/
structure CodeHeader where
  len : Nat
  emul : Nat
  sptOff : Nat
  sptCount : Nat
  bad : Bool
deriving DecidableEq, Repr

def parseCode (n entry : Nat) : CodeHeader :=
  let len := bitsOf n 31 0
  let emul := bitsOf n 63 32
  let off := bitsOf n 95 64
  let count := bitsOf n 127 96
  { len, emul, sptOff := off, sptCount := count
    bad := n / 2 ^ 136 != 0 || bitsOf n 135 128 != 1 || len % 32 != 0 || entry < 64 || len ≤ entry
      || (emul != 0 && (emul % 4 != 0 || emul < 64 || len ≤ emul))
      || 1048576 < count || (if count == 0 then off != 0 else off % 32 != 0 || off < len) }

/-- The entries of a safe-point table (R378), 32 bytes each. -/
def sptEntries : Nat → List Byte → List Nat
  | 0, _ => []
  | k + 1, bs => leNat (bs.take 32) :: sptEntries k (bs.drop 32)

/-- Numbers rise strictly. -/
def rising : List Nat → Bool
  | a :: b :: rest => a < b && rising (b :: rest)
  | _ => true

/-- A safe-point table breaks R378. -/
def sptBad (codeLen : Nat) (es : List Nat) : Bool :=
  es.any (fun e => bitsOf e 56 32 != 0 || e % 4 != 0 || e % 2 ^ 32 < 64 || codeLen ≤ e % 2 ^ 32)
    || !rising (es.map (· % 2 ^ 32))

/-- A Trellis entry that is used, with its member list as read (R25, R26). -/
structure TrellisEntry where
  index : Nat
  raw : Nat
  members : Option (List Nat)
deriving DecidableEq, Repr

/-- Little-endian 32-bit numbers. -/
def words32 : Nat → List Byte → List Nat
  | 0, _ => []
  | k + 1, bs => leNat (bs.take 4) :: words32 k (bs.drop 4)

/-- The used entries of a Trellis image with their member lists. -/
def readTrellis (part ctx : Nat) (img : List Byte) : List Nat → State → State × List TrellisEntry
  | [], s => (s, [])
  | g :: gs, s =>
    let e := leNat ((img.drop (32 * g)).take 32)
    let count := bitsOf e 47 32
    if e % 8 == 0 && count == 0 then readTrellis part ctx img gs s
    else
      let at_ := bitsOf e 127 64
      let (s, ms) :=
        if at_ % 4 != 0 || count == 0 then (s, some [])
        else
          match look s part ctx at_ (4 * count) .read with
          | (s, some bs) => (s, some (words32 count bs))
          | (s, none) => (s, none)
      let (s, rest) := readTrellis part ctx img gs s
      (s, { index := g, raw := e, members := ms } :: rest)

/-- The entry is malformed (R25, R26). -/
def TrellisEntry.bad (x : TrellisEntry) (grid scr : Nat) : Bool :=
  let e := x.raw
  let ms := x.members.getD []
  let b := bitAt e 0
  let w := bitAt e 1
  let c := bitAt e 2
  let span := bitAt e 3
  let count := bitsOf e 47 32
  let gran := bitsOf e 63 48
  let gang := bitsOf e 191 128
  (e % 8 == 0 && count != 0) || (e % 8 != 0 && count == 0) || ms.any (grid ≤ ·) || !rising ms
    || ((b || w) && 16384 < count) || (span && b) || (span && !w && !c)
    || (if w then gran == 0 || scr < gran else gran != 0)
    || (if span then gang == 0 else gang != 0) || bitsOf e 31 4 != 0

/-- The group of a good entry. -/
def TrellisEntry.group (x : TrellisEntry) : Group :=
  let e := x.raw
  { index := x.index, b := bitAt e 0, w := bitAt e 1, c := bitAt e 2, span := bitAt e 3
    members := x.members.getD [], winGran := bitsOf e 63 48, gang := word (bitsOf e 191 128)
    peers := word (bitsOf e 255 192), remote := [], departed := [], left := []
    bar := { phase := 0, broken := false, rels := [], gone := [], took := [] }
    tickets := List.replicate 4 { now := 0, poison := false, pass := [], poisonAt := [], rels := [] } }

/-- A team of some group stands in more than four. -/
def crowded (gs : List Group) : Bool :=
  gs.any fun g => g.members.any fun m => 4 < (gs.filter fun h => h.members.contains m).length

/-- Two declared ranges intersect, modulo 2^64 (R24). -/
def streamsMeet (b1 c1 b2 c2 : Nat) : Bool :=
  (b2 + 2 ^ 64 - b1) % 2 ^ 64 < c1 || (b1 + 2 ^ 64 - b2) % 2 ^ 64 < c2

/-- Teams of this shape that the cores of a partition can hold at once (R30, R52). -/
def capacity (p : Partition) (braids vblk scr tiles : Nat) : Nat :=
  (setBits 4 p.quarters).foldl (fun n q =>
    (List.range Config.coresPerQuarter).foldl (fun n k =>
      let sup := (setBits 64 (p.reg 0x0050 (q * Config.coresPerQuarter + k))).length
      n + min (Config.usableGranules / footprint braids vblk scr)
        (min ((Config.slotsPerCore - sup) / braids) (if tiles == 0 then 64 else 8 / tiles))) n) 0

/-- The launch that a record describes. -/
def launchOfRec (num part ctx : Nat) (vc : Clocks) (r : LaunchRec) (c : CodeHeader) (spt : List Nat)
    (groups : List Group) : Launch :=
  let n := r.raw
  { num, lead := num, part, ctx, doneRec := r.doneRec, predRec := r.predRec, predCond := r.predCond
    streamCount := bitsOf n 639 576, streamBase := bitsOf n 575 512, streamKey := word (bitsOf n 511 448)
    param := word (bitsOf n 447 384), handles := bitsOf n 383 320, det := bitAt n 227
    prio := bitsOf n 226 224, scrGran := bitsOf n 217 208, accTiles := bitsOf n 207 204
    vblk := bitsOf n 203 200, braids := bitsOf n 196 192 + 1, gridX := bitsOf n 127 96
    gridY := bitsOf n 159 128, gridZ := bitsOf n 191 160, entry := r.entry, code := r.code
    codeLen := c.len, emulVec := c.emul, spt, groups, phase := .waiting, st := 0, prefixN := 0
    triggered := 0, poison := false, marks := [], started := [], counted := [], killed := false
    barred := [], hitchNow := 0, hitchHeld := false, hitchPassed := [], hitchPoisonAt := []
    hitchPoison := false, hitchRel := [], startVc := vc, trigRel := [], exitRel := [], gangReady := [] }

/-- Every read that a record's validation makes, in the launch's context (R23). -/
structure Reads where
  code : Option CodeHeader
  spt : Option (List Nat)
  entryOk : Bool
  trellis : Option (List TrellisEntry)
  predOk : Bool

def readAll (s : State) (part ctx : Nat) (r : LaunchRec) : State × Reads :=
  let (s, hdr) := look s part ctx r.code 64 .read
  let code := hdr.map fun bs => parseCode (leNat bs) r.entry
  let (s, spt) :=
    match code with
    | some c =>
      if c.bad || c.sptCount == 0 then (s, some [])
      else
        match look s part ctx (r.code + c.sptOff) (32 * c.sptCount) .read with
        | (s, some bs) => (s, some (sptEntries c.sptCount bs))
        | (s, none) => (s, none)
    | none => (s, some [])
  let (s, first) := look s part ctx (r.code + r.entry) 4 .fetch
  let (s, ent) := match first with
    | some bs => look s part ctx (r.code + r.entry) (lenBytes (lenOf (BitVec.ofNat 128 (leNat bs)))) .fetch
    | none => (s, none)
  let (s, trellis) :=
    if r.trellis == 0 || r.trellis % 64 != 0 then (s, some [])
    else
      match look s part ctx r.trellis 8192 .read with
      | (s, some img) =>
        let (s, es) := readTrellis part ctx img (List.range 256) s
        (s, some es)
      | (s, none) => (s, none)
  let (s, pred) := if r.predCond == 0 || r.predRec % 32 != 0 then (s, some [])
    else look s part ctx (r.predRec + 16) 8 .read
  (s, { code, spt, entryOk := ent.isSome, trellis, predOk := pred.isSome })

/-- Cause 0x01 (R22, R23, R134, R378). -/
def badRecord (r : LaunchRec) (x : Reads) : Bool :=
  let n := r.raw
  n / 2 ^ 770 != 0 || bitsOf n 255 229 != 0 || bitsOf n 223 218 != 0 || bitsOf n 199 197 != 0
    || r.predCond == 3 || r.doneRec == 0 || r.doneRec % 32 != 0 || (r.predCond != 0 && r.predRec % 32 != 0)
    || r.trellis % 64 != 0 || bitsOf n 383 320 % 64 != 0 || r.entry % 8 != 0
    || (x.code.any fun c => c.bad || sptBad c.len (x.spt.getD []))
    || ((x.trellis.getD []).any fun e => bitsOf e.raw 127 64 % 4 != 0)

/-- The first cause of R23 that a record meets, or none. -/
def firstCause (p : Partition) (r : LaunchRec) (x : Reads) (n : Launch) : Option Nat :=
  let entries := x.trellis.getD []
  let share := bitAt r.raw 228
  let fits := capacity p n.braids n.vblk n.scrGran n.accTiles
  if badRecord r x then some 1
  else if n.gridX == 0 || n.gridY == 0 || n.gridZ == 0 || 2 ^ 32 < n.grid then some 2
  else if 8 < n.accTiles || 768 < n.scrGran || Config.usableGranules < footprint n.braids n.vblk n.scrGran then some 3
  else if x.code.isNone || x.spt.isNone || !x.entryOk || x.trellis.isNone || !x.predOk
      || entries.any (·.members.isNone) then some 4
  else if entries.any fun e => e.bad n.grid n.scrGran then some 5
  else if crowded n.groups then some 6
  else if fits == 0 || n.groups.any fun g =>
      (g.b || g.w) && fits < (unitOf n (g.members.headD 0)).length then some 7
  else if n.streamCount == 0 then none
  else if !share && p.streams.any fun y =>
      y.key == n.streamKey && streamsMeet y.base y.count n.streamBase n.streamCount then some 8
  else if 32 ≤ p.streams.length then some 9
  else none

/-- Tells the coordinators of a launch's gangs that its share passed validation, or failed with cause 0x07
(R346). -/
def reportGangs (s : State) (p : Partition) (n : Launch) (failed : Bool) : State :=
  n.gangs.foldl (fun s g =>
    sendGang s p (gangHead p (n.gangPeers g)) (if failed then 7 else 8)
      { part := p.num, gang := g, src := p.coord, count := gangCount n g, idem := false, peers := n.gangPeers g }) s

/-- The write of a record whose validation failed (R23, R39). -/
def failRecord (s : State) (n : Launch) (cause : Nat) : State :=
  if n.doneRec % 32 != 0 then s else writeRecord s { n with st := 4, phase := .ended } cause

/-- A record that cannot be read whole (R23): cause 0x04 is reported where the half with DONE_REC can be. -/
def failUnread (s : State) (part : Nat) (q : QueueEntry) : State :=
  match look s part q.ctx (q.addr + 64) 64 .read with
  | (s, none) => s
  | (s, some bs) =>
    let r := parseLaunch (leNat bs * 2 ^ 512)
    if r.doneRec == 0 then s
    else failRecord s (launchOfRec s.launchNums part q.ctx q.vc r (parseCode 0 0) [] []) 4

/-! Predecessors -/

/-- STATE of a predecessor meets a condition (R41). -/
def predReached (cond st : Nat) : Bool :=
  match cond with
  | 0 => true
  | 1 => st == 2 || st == 3 || st == 4 || st == 5
  | _ => st == 3 || st == 4 || st == 5

/-- What a read of the predecessor's STATE gives: a fault, or whether it is reached and what the read
acquires. -/
def readPred (s : State) (n : Launch) : State × Except Draft (Bool × Clocks) :=
  if n.predCond == 0 then (s, .ok (true, []))
  else
    match translate s n.part n.ctx (n.predRec + 16) .read with
    | (s, .error d) => (s, .error d)
    | (s, .ok pa) =>
      match readPhys s n.part pa 8 with
      | (s, .error d) => (s, .error d)
      | (s, .ok bs) =>
        (s, .ok (predReached n.predCond (leNat bs % 256)
          , (relsAt s (.phys pa) 8).foldl (fun c r => if 3 ≤ r.scope then c.join r.vc else c) []))

/-- The launch is admitted where its predecessor's condition is reached. -/
def pollPred (s : State) (n : Launch) : State :=
  match readPred s n with
  | (s, .error _) => { s with gazebo := s.gazebo ++ [.predFault n.num] }
  | (s, .ok (ok, vc)) =>
    if ok then s.modLaunch n.num fun n => { n with phase := .admitted, startVc := n.startVc.join vc } else s

/-- A record waits in the queue (R342): its DET bit is set while a deterministic launch is resident. -/
def detWaits (s : State) (part : Nat) (q : QueueEntry) : Bool :=
  (s.launches.any fun n => n.part == part && n.det && n.resident) &&
    match look s part q.ctx q.addr 128 .read with
    | (_, some bs) => bitAt (leNat bs) 227
    | (_, none) => false

/-- The oldest record of a queue that does not wait, and the others. -/
def nextRecord (s : State) (p : Partition) : Option (QueueEntry × List QueueEntry) :=
  let held := p.queue.takeWhile (detWaits s p.num)
  match p.queue.drop held.length with
  | [] => none
  | q :: rest => some (q, held ++ rest)

/-- A gang whose share failed elsewhere before this launch was validated (R346). -/
def failedGangs (s : State) (n : Launch) : List Word :=
  match s.part? n.part with
  | none => []
  | some p => n.gangs.filter fun g => (p.gang? g).any (·.failed)

/-- The share of a gang that failed elsewhere is given up (R346): bindings are freed, its teams never start and
count as killed. -/
def barShare (s : State) (n : Launch) (gang : Word) : State :=
  let mine := (List.range n.grid).filter fun i => (unitGangs n i).contains gang
  let bound := (s.teams.filter fun t => t.launch == some n.num && mine.contains t.index).map (·.uid)
  let s := bound.foldl removeTeam s
  let s := s.modPart n.part fun p => p.modGang gang fun g => { g with failed := false }
  settleLaunch (mine.foldl (fun s i =>
    (killPending s n i).modLaunch n.num fun n => { n with barred := insertNat i n.barred }) s) n

/-- The place of a child of a deterministic launch (R48): with the siblings that have been validated and not started, so
that those of a lower logical identifier come first. -/
def withSiblings (s : State) (q : QueueEntry) (n : Launch) : Launch :=
  match q.parent with
  | none => n
  | some x =>
    let kin := s.launches.filter fun m => m.part == n.part && m.started.isEmpty && m.phase != .ended
      && m.parent.any fun y => y.1 == x.1
    { n with parent := some x, lead := kin.foldl (fun k m => min k m.lead) n.num }

/-- LAUNCH_VALIDATION (R23, R39): the oldest record that need not wait leaves the queue and is validated. -/
def execLaunchValidation (part : Nat) (s : State) : Host.Outcome State Fault Refusal :=
  .next (match s.part? part with
    | none => s
    | some p =>
      match nextRecord s p with
      | none => s
      | some (q, rest) =>
        if p.wiping || s.lcstate == 3 then s
        else
          let s := s.modPart part fun p => { p with queue := rest }
          match look s part q.ctx q.addr 128 .read with
          | (s, none) => failUnread s part q
          | (s, some bs) =>
            let r := parseLaunch (leNat bs)
            let (s, x) := readAll s part q.ctx r
            let code := x.code.getD (parseCode 0 0)
            let n := withSiblings s q (launchOfRec s.launchNums part q.ctx q.vc r code ((x.spt.getD []).map (· % 2 ^ 32))
              ((x.trellis.getD []).map (·.group)))
            match firstCause p r x n with
            | some c =>
              let s := failRecord s n c
              if c == 7 then reportGangs s p n true else s
            | none =>
              let s := { s with launchNums := s.launchNums + 1, launches := s.launches ++ [n] }
              let s := s.modPart part fun p =>
                { p with streams := if n.streamCount == 0 then p.streams
                    else p.streams ++ [{ key := n.streamKey, base := n.streamBase, count := n.streamCount, launch := n.num }] }
              let s := pollPred (reportGangs (writeRecord s n 0) p n false) n
              (failedGangs s n).foldl (fun s g =>
                match s.launch? n.num with
                | some n => barShare s n g
                | none => s) s)

/-- PREDECESSOR_POLL (R41). -/
def execPredecessorPoll (launch : Nat) (s : State) : Host.Outcome State Fault Refusal :=
  .next (match s.launch? launch with
    | none => s
    | some n => if n.phase == .waiting then pollPred s n else s)

end Sys2Proof.Machine
end

