-- ==== Sys2Proof/Machine/Sched.lean ====
section
/-! DEFINITION. Bind records and what they do (R334-R337), stopping, saving and restoring teams (R67-R69, R331,
R332, R343, R344), relocation (R348), the admission policy's head (R340, R341), and gangs (R345, R346). -/

namespace Sys2Proof.Machine

/-! The zero state (R57) -/

/-- A lane right after binding. -/
def Lane.start (entry nv : Nat) (vc : Clocks) : Lane :=
  { pc := BitVec.ofNat 32 entry, live := true, preds := 1, depth := 0, stack := List.replicate 16 0
    priv := List.replicate 96 0, v := List.replicate nv 0, tags := List.replicate nv 0, age := 0
    wait := none, sleepUntil := none, yielded := false, arrTeam := none, arrGroup := [], vc, fences := [], seen := [] }

/-- The presentation registers before any trap. -/
def Present.zero : Present :=
  { ecause := 0, epc := 0, emask := 0, einst0 := 0, einst1 := 0, eop := 0, eregs := List.replicate 32 0
    evalue := 0, enext := 0 }

/-- A braid right after binding; `paid` is what a running trial gives it (R387). -/
def Braid.start (slot entry nv paid : Nat) (vc : Clocks) : Braid :=
  { slot, base := 0, s := List.replicate 64 0, nmode := 0, path := 0, meld := false
    mt0 := (List.range 16).map (112 + ·), mt1 := (List.range 16).map (112 + ·), pres := Present.zero
    handler := none, lanes := List.replicate 32 (Lane.start entry nv vc), stop := .running, fresh := true
    hist := [], pendX := [], follyC := 0, follyPaid := paid, stepIssues := 0, passed := 0 }

/-- What a braid that is bound or restored during a trial of its launch has paid (R387). -/
def State.trialPaid (s : State) (part : Nat) (launch : Option Nat) : Nat :=
  match (s.part? part).bind (·.trial) with
  | some x => if some x.launch == launch then x.g else 0
  | none => 0

/-- The instruction at a code object's entry is IDEM.BEGIN (R216). -/
def opensIdem (s : State) (part ctx code entry : Nat) : Bool :=
  match look s part ctx (code + entry) 8 .fetch with
  | (_, none) => false
  | (_, some bs) =>
    match decodeBits (BitVec.ofNat 128 (leNat bs)) with
    | .ok i => isIdemBegin i
    | .error _ => false

/-- A team right after binding (R57, R216, R335): it waits for its unit. -/
def bindTeam (s : State) (n : Launch) (r : BindRec) : Team :=
  Team.placed { Team.blank with
    uid := s.uids, launch := some n.num, index := r.team, part := n.part, core := r.core
    status := .bound, phTiles := setBits 8 r.tiles.toNat, vblk := n.vblk, scrGran := n.scrGran
    ctx := n.ctx, code := n.code, handles := n.handles, entry := n.entry, codeLen := n.codeLen
    emulVec := n.emulVec
    braids := (setBits 64 r.slots.toNat).map fun k =>
      Braid.start k n.entry (8 * (n.vblk + 1)) (s.trialPaid n.part (some n.num)) n.startVc
    k := List.replicate 64 0
    tiles := List.replicate n.accTiles [], tileTags := List.replicate n.accTiles 0
    idem := opensIdem s n.part n.ctx n.code n.entry, since := s.clock
    logQueue := [{ type := 4, rank := 0, pc := BitVec.ofNat 32 n.entry, lanes := 0, value := 0, handle := 0, line := [] }] } r.base

/-- A supervisor team right after binding (R324, R351). -/
def bindSup (s : State) (r : BindRec) (x : SupParams) : State × Team :=
  let (s, hdr) := look s r.part 0 x.code 64 .read
  let code := (hdr.map fun bs => parseCode (leNat bs) x.entry).getD (parseCode 0 x.entry)
  (s, Team.placed { Team.blank with
    uid := s.uids, part := r.part, core := r.core, phTiles := setBits 8 r.tiles.toNat
    vblk := x.vblk, scrGran := x.scrGran, code := x.code, handles := x.handles, entry := x.entry
    codeLen := code.len, emulVec := code.emul
    braids := (setBits 64 r.slots.toNat).map fun k => Braid.start k x.entry (8 * (x.vblk + 1)) 0 []
    k := List.replicate 64 0
    tiles := (setBits 8 r.tiles.toNat).map fun _ => [], tileTags := (setBits 8 r.tiles.toNat).map fun _ => 0
    idem := opensIdem s r.part 0 x.code x.entry, since := s.clock } r.base)

/-! The checks of R336 -/

/-- Teams bound on a core or elsewhere that hold a braid slot. -/
def slotsTaken (s : State) (core : Nat) : List Nat :=
  (s.teams.filter fun t => t.onCore core).flatMap fun t => t.braids.map (·.slot)

/-- The resources that a bind or prepare record names (R336, codes 2 to 5). -/
def placeCode (s : State) (p : Partition) (r : BindRec) (uid gran : Nat) : Nat :=
  let slots := setBits 64 r.slots.toNat
  let sup := p.reg 0x0050 r.core
  if !bitAt p.quarters (r.core / Config.coresPerQuarter) then 2
  else if slots.any (fun k => (slotsTaken s r.core).contains k || bitAt sup k != r.sup) then 3
  else if !granulesFree s r.core r.base gran uid
      || Config.usableGranules < granulesUsed s r.core uid + gran then 4
  else if s.teams.any fun t => t.onCore r.core && t.uid != uid &&
      (setBits 8 r.tiles.toNat).any t.phTiles.contains then 5
  else 0

/-- The launch that a record's LAUNCH names: of the record's own partition, or of another. -/
def recLaunch (s : State) (r : BindRec) : Option Launch :=
  let named := s.launches.filter fun n => n.doneRec == r.launch.toNat && n.phase != .ended
  (named.find? fun n => n.part == r.part).orElse fun _ => named.head?

/-- A team waits in its binding for the start of its unit. -/
def Team.waits (t : Team) : Bool := t.status == .bound || t.status == .starting

/-- A team's unit has a member that runs and that this one would start apart from (R30). Members that have retired
or been killed are none. -/
def unitPartly (s : State) (n : Launch) (index : Nat) : Bool :=
  (unitOf n index).any fun m => m != index && (s.member? n.num m).any fun t =>
    t.status == .running || t.status == .heldExit

/-- The gangs of a unit's members, with a window or not: their shares must be validated before it is placed, so
that the ranks of R28 are known (R346, log entry 104). -/
def unitSpans (n : Launch) (index : Nat) : List Word :=
  (n.groups.filter fun g => g.span && g.members.any (unitOf n index).contains).map (·.gang)
def mayPlace (n : Launch) (index : Nat) : Bool := (unitSpans n index).all n.gangReady.contains

/-- The lowest number that an ascending list leaves out. -/
def firstGap (xs : List Nat) : Nat := xs.foldl (fun k x => if x == k then k + 1 else k) 0

/-- In a deterministic launch every unit of lower index has been bound (R43); R336 gives no code of its own (log entry
98). -/
def boundBelow (n : Launch) (index : Nat) : Bool :=
  let unit := unitOf n index
  let low := unit.headD index
  !n.det || (low ≤ firstGap n.started && n.groups.all fun g =>
    !(g.b || g.w) || g.members.any unit.contains || low < (unitOf n (g.members.headD low)).headD low
      || g.members.all n.started.contains)

/-- The code of a bind of a user team (R336). -/
def bindCode (s : State) (p : Partition) (r : BindRec) : Nat :=
  match recLaunch s r with
  | none => if r.rsv || 6 ≤ r.opc then 1 else 6
  | some n =>
    let place := placeCode s p r 0 (footprint n.braids n.vblk n.scrGran)
    if r.rsv || 6 ≤ r.opc || (setBits 64 r.slots.toNat).length != n.braids
        || (setBits 8 r.tiles.toNat).length != n.accTiles then 1
    else if n.part != p.num then 2
    else if place != 0 then place
    else if n.phase != .admitted || n.killed || n.grid ≤ r.team || n.started.contains r.team
        || !mayPlace n r.team || !boundBelow n r.team then 6
    else if unitPartly s n r.team
        || (n.det && s.launches.any fun m => m.part == p.num && m.num != n.num && m.det && m.resident) then 7
    else 0

/-- The code of a bind of a supervisor team. -/
def supCode (s : State) (p : Partition) (r : BindRec) (x : SupParams) : Nat :=
  let k := (setBits 64 r.slots.toNat).length
  if r.rsv || r.launch != 0 || r.team != 0 || k == 0 || 32 < k then 1
  else placeCode s p r 0 (footprint k x.vblk x.scrGran)

/-- The team that a record of another kind names, and the record's shape against it (R336). -/
def recTeam (s : State) (r : BindRec) : Option Team :=
  if r.sup then
    s.teams.find? fun t => t.isSup && t.part == r.part && t.core == r.core &&
      t.braids.map (·.slot) == setBits 64 r.slots.toNat
  else (recLaunch s r).bind fun n => s.member? n.num r.team
def shapeCode (p : Partition) (r : BindRec) (t : Team) : Nat :=
  if r.rsv || (setBits 64 r.slots.toNat).length != t.braids.length
      || (setBits 8 r.tiles.toNat).length != t.tiles.length then 1
  else if t.part != p.num || !bitAt p.quarters (r.core / Config.coresPerQuarter) then 2
  else 0

/-- bindstat (R337): the code, and one more record. -/
def answerBind (s : State) (part code : Nat) : State :=
  s.modPart part fun p =>
    p.setReg 0x0501 0 (code + 2 ^ 32 * ((p.reg 0x0501 0 / 2 ^ 32 + 1) % 2 ^ 32))

/-- The words of bindrec as a record leaves them (R334, R337). -/
def bindNum (r : BindRec) : Nat :=
  r.opc % 16 + 2 ^ 4 * bit r.sup + 2 ^ 8 * (r.part % 4) + 2 ^ 64 * (r.core % 256) + 2 ^ 72 * r.tiles.toNat
    + 2 ^ 80 * (r.base % 1024) + 2 ^ 96 * r.slots.toNat + 2 ^ 160 * (r.team % 2 ^ 32) + 2 ^ 192 * r.launch.toNat
def submitted (s : State) (r : BindRec) : State :=
  s.modPart r.part fun p =>
    (List.range 4).foldl (fun p w => p.setReg 0x0500 w (bindNum r / 2 ^ (64 * w) % 2 ^ 64)) p

/-- Performs a record: its code, and its effect where the code is 0. -/
def submit (s : State) (r : BindRec) (code : Partition → Nat) (go : State → Partition → State) : State :=
  match s.part? r.part with
  | none => s
  | some p =>
    let c := code p
    let s := submitted s r
    answerBind (if c == 0 then go s p else s) r.part c

/-! Starting -/

/-- Teams go on from where they stand; a debug stop stays in force (R385), and one that was asked for before the save
is asked for again (R218). -/
def Team.resume (t : Team) (clock : Nat) : Team :=
  { t with
    status := if t.exited then .heldExit else .running
    since := clock, stop := t.wantStop, wantStop := .none, stopSince := t.wantSince
    braids := if t.dbgStopped then t.braids
      else t.braids.map fun b => if b.stop == .safePoint then { b with stop := .running } else b }

/-- The unit that a launch restores or starts next (R31, R33, R340): the one of its lowest team that is saved, not yet
resumed, or not started. A team that has not started stands below one that has only where a stop has discarded it
(R343), and then its restart comes first. -/
def nextUnit (s : State) (n : Launch) : Option (List Nat) :=
  let mine := s.teams.filter fun t => t.launch == some n.num
  let back := mine.filter fun t =>
    t.status == .saved || t.status == .prepared || t.status == .restored || t.status == .starting
  let bound := (mine.filter fun t => t.status == .bound).map (·.index)
  let low := firstGap (n.started.filter fun m => !bound.contains m)
  match back.map (·.index) ++ (if low < n.grid then [low] else []) with
  | m :: ms => some (unitOf n (ms.foldl min m))
  | [] => none

/-- The team's exit is complete: nothing of it is restored or started any more. -/
def Team.isOver (t : Team) : Bool := t.status == .exiting || t.status == .retiring

/-- The team holds its binding beside one that a CTXSV has saved alone (R331). -/
def Team.stands (t : Team) : Bool := t.status == .running || t.status == .heldExit

/-- Every member of a unit whose exit is not complete waits in its binding for the start, and each of the unit's gangs
has its GO (R30, R37, R345); members that were never saved need neither. -/
def unitReady (s : State) (n : Launch) (unit : List Nat) : Bool :=
  unit.any (fun m => (s.member? n.num m).any (·.waits))
    && unit.all (fun m =>
      match s.member? n.num m with
      | some t => t.waits || t.isOver || t.stands
      | none => n.started.contains m)
    && (unit.any (fun m => (s.member? n.num m).any (·.stands)) || (unitGangs n (unit.headD 0)).all n.gangGo.contains)

/-- Members of a unit that have no binding. -/
def unplaced (s : State) (n : Launch) (unit : List Nat) : List Nat :=
  unit.filter fun m =>
    match s.member? n.num m with
    | some t => t.status == .saved
    | none => !n.started.contains m

/-- Free runs of granules between the ascending uses of a core, and how many footprints fit in them. -/
def runsFit (gran : Nat) : Nat → List (Nat × Nat) → Nat
  | at_, [] => (768 - at_) / gran
  | at_, r :: rs => (r.1 - at_) / gran + runsFit gran (max at_ (r.1 + r.2)) rs

/-- Puts a run among others by its first granule. -/
def insertRun (r : Nat × Nat) : List (Nat × Nat) → List (Nat × Nat)
  | [] => [r]
  | x :: xs => if r.1 < x.1 then r :: x :: xs else x :: insertRun r xs

/-- The greatest footprint among some members of a launch that have no binding: a saved team's is that of its own
carve-out (R65, R335). -/
def needGran (s : State) (n : Launch) (members : List Nat) : Nat :=
  members.foldl (fun k m => max k (match s.member? n.num m with
    | some t => footprint n.braids t.vblk t.scrGran
    | none => footprint n.braids n.vblk n.scrGran)) 1

/-- How many teams of a launch with footprints of some granules the partition's cores could take at this moment (R336,
R340). -/
def fitCount (s : State) (p : Partition) (n : Launch) (gran : Nat) : Nat :=
  (setBits 4 p.quarters).foldl (fun k q =>
    (List.range Config.coresPerQuarter).foldl (fun k c =>
      let core := q * Config.coresPerQuarter + c
      let here := s.teams.filter fun t => t.onCore core
      let taken := slotsTaken s core
      let sup := setBits 64 (p.reg 0x0050 core)
      let slots := ((List.range Config.slotsPerCore).filter fun b => !taken.contains b && !sup.contains b).length
      let tiles := 8 - (here.flatMap (·.phTiles)).length
      let runs := (here.flatMap (·.runs)).foldl (fun rs r => insertRun r rs) []
      k + min (min (runsFit gran 0 runs) ((Config.usableGranules - granulesUsed s core 0) / gran))
        (min (slots / n.braids) (if n.accTiles == 0 then 64 else tiles / n.accTiles))) k) 0

/-- The coordinates of a partition's grid: each used axis counts from 0 below its extent (R367). -/
def gridNodes (p : Partition) : List Nat :=
  (usedAxes p.axes).foldl (fun cs a => cs.flatMap fun c => (List.range (p.extent a)).map (setAxis c a)) [0]

/-- Gazebo lets a launch start that uses the fabric (R367, R369): every used axis has an extent and the coordinate lies
below it, the route table covers the grid, and a node with relay entries has a relay store. -/
def fabricOk (s : State) (p : Partition) (n : Launch) : Bool :=
  let mine := s.routes.filter fun r => r.1 == p.num
  (p.axes == 0 && n.gangs.isEmpty)
    || ((usedAxes p.axes).all (fun a => coordAxis p.coord a < p.extent a)
      && (gridNodes p).all (fun c => c == p.coord || mine.any fun r => r.2.1 == c)
      && (p.reg 0x0207 0 != 0 || mine.all fun r => match r.2.2 with
        | .direct _ => true
        | .relay _ => false))

/-- The launch's teams may start: it is admitted, not killed, and Gazebo does not refuse it for the fabric. -/
def mayStart (s : State) (n : Launch) : Bool :=
  n.phase == .admitted && !n.killed && (s.part? n.part).any fun p => fabricOk s p n

/-- A unit whose turn may come (R340, R346): its members without a binding, none where it is not yet placeable. -/
def wanted (s : State) (n : Launch) : List Nat :=
  if !mayStart s n then []
  else
    match nextUnit s n with
    | some unit => if mayPlace n (unit.headD 0) then unplaced s n unit else []
    | none => []

/-- A launch came to the queue before another; children of one deterministic launch stand together, in the order of their
creators' logical identifiers (R48). -/
def Launch.ahead (m n : Launch) : Bool :=
  let key := fun (x : Launch) => (x.parent.map (·.2 + 1)).getD 0
  m.lead < n.lead || (m.lead == n.lead && (key m < key n || (key m == key n && m.num < n.num)))

/-- A launch stands before another in the admission order (R340). -/
def Launch.before (m n : Launch) : Bool := n.prio < m.prio || (m.prio == n.prio && m.ahead n)

/-- Another launch's unit is to be placed first (R340): one before it in the order has a unit that would find its
place now, or the head, which has waited 1 ms, is of an earlier launch and of no lower priority. -/
def outranked (s : State) (p : Partition) (n : Launch) : Bool :=
  (s.launches.any fun m => m.part == p.num && m.num != n.num && m.before n
      && !(m.det && s.launches.any fun x => x.part == p.num && x.num != m.num && x.det && x.resident)
      && let w := wanted s m; !w.isEmpty && w.length ≤ fitCount s p m (needGran s m w))
    || p.head.any fun h => h.1 != n.num && (s.launch? h.1).any fun m => m.ahead n && n.prio ≤ m.prio
      && (unitOf m h.2).any (unplaced s m (unitOf m h.2)).contains

/-- The unit of a launch that starts or resumes now. -/
def dueUnit (s : State) (n : Launch) : Option (List Nat) :=
  match nextUnit s n, s.part? n.part with
  | some unit, some p =>
    if mayStart s n && unitReady s n unit && !outranked s p n then some unit else none
  | _, _ => none

/-- The head is placed once its unit starts. -/
def clearHead (p : Partition) (num : Nat) (unit : List Nat) : Partition :=
  match p.head with
  | some (h, first) => if h == num && unit.contains first then { p with head := none } else p
  | none => p

/-- A unit starts or resumes together (R30): what its cores' caches hold of earlier teams they need not see is gone
(R287). -/
def startUnit (s : State) (n : Launch) (unit : List Nat) : State :=
  let mine := s.teams.filter fun t => t.launch == some n.num && unit.contains t.index && t.waits
  let s := mine.foldl (fun s t => (s.dropCopies t.core 3).modTeam t.uid (·.resume s.clock)) s
  let s := s.modLaunch n.num fun n =>
    { n with gangGo := n.gangGo.filter fun g => !(unitGangs n (unit.headD 0)).contains g }
  s.modPart n.part fun p => clearHead p n.num unit

/-- Starts every unit that is due (R31, R33, R340). -/
def startDue : Nat → State → State
  | 0, s => s
  | fuel + 1, s =>
    match s.launches.find? fun n => (dueUnit s n).isSome with
    | none => s
    | some n =>
      match dueUnit s n with
      | some unit => startDue fuel (startUnit s n unit)
      | none => s
def settleStarts (s : State) : State :=
  if s.teams.any (·.waits) then startDue (s.teams.length + 1) s else s

/-- A team whose start is asked for outright (R332, R335) runs as soon as its unit can: a supervisor team at once. -/
def startNow (s : State) (uid : Nat) : State :=
  match s.team? uid with
  | none => s
  | some t =>
    match s.launchOf t with
    | none => (s.dropCopies t.core 3).modTeam uid (·.resume s.clock)
    | some n => if unitReady s n (unitOf n t.index) then startUnit s n (unitOf n t.index) else s

/-- Reports READY once every member of a gang on this device is bound or restored, stopped (R345). -/
def reportReady (s : State) (n : Launch) (index : Nat) : State :=
  match s.part? n.part with
  | none => s
  | some p =>
    (unitGangs n index).foldl (fun s g =>
      let mine := (n.groups.filter fun x => x.gang == g).flatMap (·.members)
      let ready := mine.all fun m =>
        match s.member? n.num m with
        | some t => t.waits || t.status == .restored || t.isOver
        | none => n.started.contains m
      if ready then
        sendGang s p (gangHead p (n.gangPeers g)) 5 { part := p.num, gang := g, src := p.coord, count := 0, idem := false }
      else s) s

/-- BIND (R335): the port performs every record; the launch's first bind makes its STATE running (R39), and the unit
starts once it is complete and its turn has come (R30, R31, R340). -/
def execBind (r : BindRec) (x : SupParams) (s : State) : Host.Outcome State Fault Refusal :=
  .next (if r.opc != 0 && r.opc < 6 then s
    else if r.sup then
      submit s r (fun p => if 6 ≤ r.opc then 1 else supCode s p r x) fun s _ =>
        let (s, t) := bindSup s r x
        { s.dropCopies r.core 3 with uids := s.uids + 1, teams := s.teams ++ [t] }
    else
      submit s r (fun p => bindCode s p r) fun s _ =>
        match recLaunch s r with
        | none => s
        | some n =>
          let t := bindTeam s n r
          let s := { s with uids := s.uids + 1, teams := s.teams ++ [t] }
          let s := s.modLaunch n.num fun n => { n with started := insertNat r.team n.started, st := max 1 n.st }
          settleStarts (reportReady (recordIf s n) n r.team))

/-- PREPARE_FOR_RESTORE (R335): a binding for a saved team. -/
def execPrepareForRestore (r : BindRec) (s : State) : Host.Outcome State Fault Refusal :=
  .next (if r.opc != 1 then s
    else submit s r
      (fun p =>
        match recTeam s r with
        | none => if r.rsv then 1 else 6
        | some t =>
          let gran := if t.braids.isEmpty then t.scrGran else footprint t.braids.length t.vblk t.scrGran
          let shape := shapeCode p r t
          let place := placeCode s p r t.uid gran
          if shape != 0 then shape else if place != 0 then place else if t.status != .saved then 6 else 0)
      fun s _ =>
        match recTeam s r with
        | none => s
        | some t => s.modTeam t.uid fun t =>
          Team.placed { t with
            status := .prepared, core := r.core, phTiles := setBits 8 r.tiles.toNat
            braids := (t.braids.zip (setBits 64 r.slots.toNat)).map fun b => { b.1 with slot := b.2 } } r.base)

/-! Stopping -/

/-- Every braid of a team stands at a stop, none in an emulation handler (R148), nothing of it is outstanding (R247,
R331), and every landed group of a GMMA is added (R274). -/
def Team.stopped (t : Team) : Bool :=
  t.braids.all (fun b => ((b.stop != .running && b.handler.isNone) || b.liveMask == 0) && b.pendX.isEmpty)
    && t.pendE.isEmpty && t.trackers.all fun o => o.all fun c => !c.owes

/-- Its commands let a save take them (R274): none faulted, no two ordered. -/
def Team.savable (t : Team) : Bool :=
  t.stopped && t.trackers.all fun o => o.all fun c => c.fault.isNone && t.inTurn c

/-- A unit is discarded (R343): its teams return to pending, and nothing is poisoned, passed or abandoned. Records that
wait for the fault queue are still posted (R327). -/
def discardUnit (s : State) (ts : List Team) : State :=
  ts.foldl (fun s t =>
    let s := removeTeam s t.uid
    let s := s.modPart t.part fun p => { p with faults := p.faults.filter fun r => r.uid != t.uid }
    match t.launch with
    | none => s
    | some n => s.modLaunch n fun n => { n with started := n.started.filter (· != t.index) }) s

/-- Every team of some indices runs in an idempotent region (R343): a retired or killed member is in none, and a
debug-stopped one is saved as it stands (R385). -/
def allIdem (s : State) (n : Launch) (members : List Nat) : Bool :=
  members.all fun m => (s.member? n.num m).any fun t => t.idem && t.status == .running && !t.dbgStopped

/-- A save of the team is asked for or under way, and since when (R343). -/
def StopReq.saves (r : StopReq) : Bool := r == .save || r == .held
def Team.asked (t : Team) : Bool := t.stop.saves || t.wantStop.saves
def Team.askedSince (t : Team) : Nat := if t.stop.saves then t.stopSince else t.wantSince

/-- A team is asked to stop; a move or a debug stop in progress comes to its end first. The clock of the request and what
Gazebo has reported of it stay while it is the same stop. -/
def Team.ask (t : Team) (how : StopReq) (clock : Nat) : Team :=
  let t := { t with lateTold := t.lateTold && t.asked, shortTold := t.shortTold && t.asked }
  let since := if t.asked then t.askedSince else clock
  match t.stop with
  | .move _ | .debug _ _ _ _ _ => { t with wantStop := how, wantSince := since }
  | _ => { t with stop := how, stopSince := since }

/-- Asks every member of a unit to stop (R343); a debug stop in force counts as stopped. -/
def askStop (s : State) (ts : List Team) (how : StopReq) : State :=
  ts.foldl (fun s t => s.modTeam t.uid fun t =>
    if t.status == .running || t.status == .heldExit then t.ask how s.clock else t) s

/-- The devices of a gang, as the partition's own launch names them. -/
def gangPeersOf (s : State) (p : Partition) (gang : Word) : List Nat :=
  match gangLaunch s p.num gang with
  | some n => gangDevices p (n.gangPeers gang)
  | none => [p.coord]
def gangHeadOf (s : State) (p : Partition) (gang : Word) : Nat := (gangPeersOf s p gang).headD p.coord

/-- A unit of this device is stopped: discarded, saved, or paused with its gang (R343, R345). -/
def stopUnit (s : State) (t : Team) : State :=
  let ts := unitTeams s t
  let gangs := ((s.launchOf t).map fun n => unitGangs n t.index).getD []
  match s.part? t.part with
  | none => s
  | some p =>
    if gangs.isEmpty then
      match s.launchOf t with
      | some n => if allIdem s n (unitOf n t.index) then discardUnit s ts else askStop s ts .save
      | none => s
    else
      gangs.foldl (fun s g =>
        sendGang s p (gangHeadOf s p g) 1 { part := p.num, gang := g, src := p.coord, count := 0, idem := false }) s

/-- A previous stop has reached the team (R344). -/
def Team.stopping (t : Team) : Bool :=
  let saves := fun (r : StopReq) => match r with
    | .save | .held | .move _ => true
    | _ => false
  saves t.stop || saves t.wantStop

/-- STOP (R335, R343, R344). -/
def execStop (r : BindRec) (s : State) : Host.Outcome State Fault Refusal :=
  .next (if r.opc != 2 then s
    else submit s r
      (fun p =>
        match recTeam s r with
        | none => if r.rsv then 1 else 6
        | some t =>
          let shape := shapeCode p r t
          if shape != 0 then shape
          else if t.isSup || t.status != .running || t.stopping then 6 else 0)
      fun s _ =>
        match recTeam s r with
        | none => s
        | some t => stopUnit s t)

/-! Saving -/

/-- The unified-store parity errors of a team that a save meets (R69, R363): none left, or one that
persists. -/
def saveParity (s : State) (t : Team) : Option State :=
  let mine := fun (x : SoftError) => match x with
    | .parityScratch u _ _ => u == t.uid
    | .parityReg u _ _ _ _ => u == t.uid
    | _ => false
  let bad := fun (x : SoftError) => match x with
    | .parityScratch u _ k => u == t.uid && 3 < k
    | .parityReg u _ _ _ k => u == t.uid && 3 < k
    | _ => false
  if s.soft.any bad then none
  else
    let n := (s.soft.filter mine).length
    if n == 0 then some s
    else some ({ s with soft := s.soft.filter fun x => !mine x }.countParity t.part n)

/-- The team is saved (R32, R331): its slots, granules, tiles and operand slots are free, and the records that
stopped its braids are settled (R330), not those of its work entries (R299) nor those that stopped nothing. -/
def saveTeam (s : State) (t : Team) : State :=
  let s := s.modPart t.part fun p => { p with
    faults := p.faults.filter fun r => !(t.braids.any fun b => b.stop == .fault r.id) }
  s.modTeam t.uid fun t =>
    { t with
      status := .saved, stop := .none, phTiles := [], locks := []
      braids := t.braids.map fun b => { b with stop := .safePoint } }

/-- The part of the save area that an image would take is free (R337). -/
def saveRoom (s : State) (p : Partition) (off len : Nat) : Bool :=
  off % 64 == 0 && off + len ≤ p.reg 0x0521 0 && p.images.all fun (u, o) =>
    match s.team? u with
    | some x => off + len ≤ o || o + imageLen x x.slots.length ≤ off
    | none => true

/-- The save area has no place for an image of this length (R337). -/
def saveFull (s : State) (p : Partition) (len : Nat) : Bool :=
  (0 :: p.images.map fun (u, o) => ((s.team? u).map fun x => o + imageLen x x.slots.length).getD o).all fun off =>
    !saveRoom s p ((off + 63) / 64 * 64) len

/-- The gang of a team is being paused, and SAVE has not come (R345). -/
def gangPausing (s : State) (t : Team) : Bool :=
  match s.launchOf t, s.part? t.part with
  | some n, some p => (unitGangs n t.index).any fun g => ((p.gang? g).map (·.pausing)).getD false
  | _, _ => false

/-- The hardware reports something to Gazebo. -/
def tell (s : State) (m : GazeboMsg) : State := { s with gazebo := s.gazebo ++ [m] }

/-- TEAM_SAVED (R343, R344): the unit has stopped, and the save engine writes a team's image. -/
def execTeamSaved (uid off : Nat) (s : State) : Host.Outcome State Fault Refusal :=
  .next (match s.team? uid with
    | none => s
    | some t =>
      match s.part? t.part with
      | none => s
      | some p =>
        let unit := (unitTeams s t).filter fun u => u.status == .running || u.status == .heldExit
        let due := (t.stop == .save || t.stop == .held) && (t.status == .running || t.status == .heldExit)
        if !due || gangPausing s t || !(unit.all fun u => u.savable) then s
        else
          let s := askStop s unit .held
          let bytes := imageBytes s t
          if !saveRoom s p off bytes.length then
            if t.shortTold || !saveFull s p bytes.length then s
            else (tell s (.saveShort p.num uid)).modTeam uid fun t => { t with shortTold := true }
          else
            match saveParity s t with
            | none => noteFault s t { cause := 0x0A, detail := 1 }
            | some s =>
              match writeBytes s p.num 0 (p.reg 0x0520 0 + off) bytes with
              | (s, .error _) => s
              | (s, .ok ()) =>
                saveTeam (s.modPart p.num fun p => { p with images := p.images ++ [(uid, off)] }) t)

/-! Restoring -/

/-- Operand slots that a core has free for an image that claims `n`. -/
def slotsFree (s : State) (core n : Nat) : Bool :=
  (s.teams.filter fun t => t.onCore core && t.status != .prepared).foldl (fun k t => k + t.slots.length) 0 + n
    ≤ Config.operandSlots

/-- How a restore ends. -/
inductive Restored where
  | done (t : Team)
  /-- Operand slots are not free yet. -/
  | later
  /-- The image is not of the binding's shape. -/
  | misfit
  | refused (detail : Nat)

/-- The team of a prepared binding from an image's bytes (R332). -/
def restoreTeam (s : State) (t : Team) (bytes : List Byte) : Restored :=
  let m := Memory.write [] 0 bytes
  if !imageFits m t (s.doneRecOf t) then .misfit
  else
    match readImage s t m with
    | .error d => .refused d
    | .ok u =>
      if !slotsFree s t.core u.slots.length then .later
      else
        .done { u with
          status := .restored, since := s.clock
          braids := u.braids.map fun b => { b with follyPaid := s.trialPaid t.part t.launch }
          logged := []
          logQueue := u.logQueue ++ [{ type := 4, rank := 0, pc := 0, lanes := 0, value := 0, handle := 0, line := [] }] }

/-- A restored team stands in its binding; counter updates that waited for it are made (R253). -/
def settleRestored (s : State) (t : Team) : State :=
  let s := (t.entries.filter fun w => w.ending.isSome).foldl (fun s w => endEntry s t.uid w.num (w.ending.getD false))
    (s.setTeam t)
  let s := s.modPart t.part fun p => { p with images := p.images.filter fun x => x.1 != t.uid }
  match s.launchOf t with
  | some n => reportReady s n t.index
  | none => s

/-- SAVE_ENGINE_RESTORE (R335): an image comes back from the save area. -/
def execSaveEngineRestore (uid off : Nat) (s : State) : Host.Outcome State Fault Refusal :=
  .next (match s.team? uid with
    | none => s
    | some t =>
      match s.part? t.part with
      | none => s
      | some p =>
        if t.status != .prepared || !p.images.contains (uid, off) then s
        else
          match readBytes s p.num 0 (p.reg 0x0520 0 + off) (imageLen t t.slots.length) .read with
          | (s, .error _) => s
          | (s, .ok bytes) =>
            match restoreTeam s t bytes with
            | .done u => settleRestored s u
            | .later | .misfit => s
            | .refused d => noteFault s t { cause := 9, detail := d, addr := p.reg 0x0520 0 + off })

/-- The code of a start record (R335, R336): of a restored team, or at step 6 of R345 of a bound one of a gang. -/
def startCode (s : State) (r : BindRec) (p : Partition) : Nat :=
  match recTeam s r with
  | none => if r.rsv then 1 else 6
  | some t =>
    let shape := shapeCode p r t
    let gang := (s.launchOf t).any fun n => !(unitGangs n t.index).isEmpty
    if shape != 0 then shape else if t.status == .restored || (t.status == .bound && gang) then 0 else 6

/-- The team of a start record waits for its start: it runs once its whole unit is started and its turn has come (R30,
R33). -/
def markStart (s : State) (r : BindRec) : State :=
  match recTeam s r with
  | none => s
  | some t => s.modTeam t.uid fun t => { t with status := .starting }

/-- START (R335). -/
def execStart (r : BindRec) (s : State) : Host.Outcome State Fault Refusal :=
  .next (if r.opc != 4 then s else submit s r (startCode s r) fun s _ =>
    let s := markStart s r
    match recTeam s r with
    | some t => if t.isSup then startNow s t.uid else settleStarts s
    | none => s)

/-- RELEASE_BINDING (R335): a supervisor team is unbound, or a prepared binding is given up. -/
def execReleaseBinding (r : BindRec) (s : State) : Host.Outcome State Fault Refusal :=
  .next (if r.opc != 5 then s
    else submit s r
      (fun p =>
        match recTeam s r with
        | none => if r.rsv then 1 else 6
        | some t =>
          let shape := shapeCode p r t
          if shape != 0 then shape else if t.isSup || t.status == .prepared then 0 else 6)
      fun s _ =>
        match recTeam s r with
        | none => s
        | some t =>
          if t.isSup then removeTeam s t.uid
          else s.modTeam t.uid fun t => { t with status := .saved, phTiles := [] })

/-! Relocation (R348) -/

/-- MOVE (R348): the team stops as for a save, and its items move once it has stopped. -/
def execMove (r : BindRec) (s : State) : Host.Outcome State Fault Refusal :=
  .next (if r.opc != 3 then s
    else submit s r
      (fun p =>
        match recTeam s r with
        | none => if r.rsv then 1 else 6
        | some t =>
          let shape := shapeCode p r t
          if shape != 0 then shape
          else if r.core != t.core then 2
          else if !granulesFree s t.core r.base t.gran t.uid then 4
          else if t.isSup || t.status != .running || t.stopping then 6 else 0)
      fun s _ =>
        match recTeam s r with
        | none => s
        | some t => s.modTeam t.uid fun t => t.ask (.move r.base) s.clock)

/-- A team that has stopped for a move takes its new base and goes on; not while a record of it is outstanding, nor while
granules that a carve-out has added to its footprint are not free there. -/
def settleMove (s : State) (uid : Nat) : State :=
  match s.team? uid with
  | none => s
  | some t =>
    match t.stop with
    | .move base =>
      let faulted := t.braids.any (fun b => match b.stop with | .fault _ => true | _ => false)
        || t.trackers.any (fun o => o.any fun c => c.fault.isSome) || t.entries.any fun w => w.fault.isSome
      if t.stopped && !faulted && granulesFree s t.core base t.gran t.uid then
        s.modTeam uid fun t =>
          Team.placed { t with
            stop := t.wantStop, wantStop := .none, stopSince := t.wantSince
            braids := t.braids.map fun b =>
              { b.modLanes b.liveMask fun _ x => { x with age := 0 } with
                stop := if t.dbgStopped then b.stop else .running } } base
      else s
    | _ => s

/-! The head and late stops -/

/-- Clocks of a millisecond (R221). -/
def msClocks : Nat := 1750000

/-- The teams of a unit, whole, that may be pre-empted for a head of this priority (R341). -/
def mayPreempt (s : State) (prio : Nat) (t : Team) : Bool :=
  (s.launchOf t).any fun m => m.prio < prio &&
    (unitTeams s t).all fun u => u.status != .running || (!u.stopping && u.since + 2 * msClocks ≤ s.clock)

/-- Puts a team among others: lowest priority first, filler before all, and the youngest launch first (R341, R349). -/
def insertVictim (s : State) (t : Team) : List Team → List Team
  | [] => [t]
  | u :: us =>
    let key := fun (x : Team) => (s.launchOf x).map fun n => (n.prio, n.num)
    match key t, key u with
    | some (p, n), some (q, m) => if p < q || (p == q && m < n) then t :: u :: us else u :: insertVictim s t us
    | _, _ => u :: insertVictim s t us

/-- Stops units in that order until the head would fit, as long as Gazebo names them (R341). -/
def preempt (p : Partition) (n : Launch) (need gran : Nat) (victims : List Nat) : List Team → State → State → State
  | [], _, s => s
  | t :: ts, room, s =>
    if (room.team? t.uid).isNone then preempt p n need gran victims ts room s
    else if need ≤ fitCount room p n gran || !victims.contains t.uid then s
    else
      let unit := (unitTeams s t).map (·.uid)
      let room := { room with teams := room.teams.filter fun u => !unit.contains u.uid }
      preempt p n need gran victims ts room (stopUnit s t)

/-- HEAD_WAIT_EXPIRY (R340, R341): the unit whose turn it is has waited 1 ms unplaced; it is the head, and units below
its priority that have been resident for 2 ms may be stopped for it, no more than it needs. -/
def execHeadWaitExpiry (part launch index : Nat) (victims : List Nat) (s : State) :
    Host.Outcome State Fault Refusal :=
  .next (match s.part? part, s.launch? launch with
    | some p, some n =>
      let need := wanted s n
      let first := s.launches.all fun m => !(m.part == part && m.before n) || (wanted s m).isEmpty
      if n.part != part || need.isEmpty || ((nextUnit s n).getD []).head? != some index || !first
          || need.length ≤ fitCount s p n (needGran s n need) then s
      else
        let s := s.modPart part fun p => { p with head := some (launch, index) }
        let s := tell s (.headBlocked part launch index)
        let ts := (s.teams.filter fun t => t.part == part && t.status == .running && mayPreempt s n.prio t).foldl
          (fun ts t => insertVictim s t ts) []
        preempt p n need.length (needGran s n need) victims ts s s
    | _, _ => s)

/-- STOP_REPORT_EXPIRY (R343): a stop has not completed after 10 ms, which is reported once. -/
def execStopReportExpiry (uid : Nat) (s : State) : Host.Outcome State Fault Refusal :=
  .next (match s.team? uid with
    | none => s
    | some t =>
      if t.asked && t.askedSince + 10 * msClocks ≤ s.clock && !t.lateTold then
        (tell s (.stopLate uid)).modTeam uid fun t => { t with lateTold := true }
      else s)

/-! Gangs (R345, R346) -/

/-- Sends a message about a gang to each of a list of devices. -/
def tellGang (s : State) (p : Partition) (gang : Word) (to_ : List Nat) (code : Nat) (idem : Bool) : State :=
  to_.foldl (fun s c => sendGang s p c code { part := p.num, gang, src := p.coord, count := 0, idem }) s

/-- Teams of a gang's units on this device. -/
def gangTeams (s : State) (part : Nat) (gang : Word) : List Team :=
  match gangLaunch s part gang with
  | none => []
  | some n => s.teams.filter fun t => t.launch == some n.num && (unitGangs n t.index).contains gang

/-- The indices of a gang's members on this device. -/
def gangIndices (n : Launch) (gang : Word) : List Nat := (n.groups.filter fun g => g.w && g.gang == gang).flatMap (·.members)

/-- PAUSE_REQUEST (R345): the coordinator tells every device to stop its members; a request during a pause is
absorbed. -/
def execPauseRequest (m : GangMsg) (s : State) : Host.Outcome State Fault Refusal :=
  .next (match s.part? m.part with
    | none => s
    | some p =>
      let devs := gangPeersOf s p m.gang
      let busy := (p.gang? m.gang).any (·.pausing)
      if devs.headD p.coord != p.coord || busy || (gangLaunch s p.num m.gang).isNone then s
      else
        let s := s.modPart p.num fun p => p.modGang m.gang fun g => { g with pausing := true, paused := [], idem := [] }
        tellGang s p m.gang devs 2 false)

/-- PAUSE (R345): this device's members stop. -/
def execPause (m : GangMsg) (s : State) : Host.Outcome State Fault Refusal :=
  .next (match s.part? m.part with
    | none => s
    | some p =>
      let s := s.modPart p.num fun p => p.modGang m.gang fun g => { g with pausing := true, stopping := true }
      askStop s (gangTeams s p.num m.gang) .save)

/-- Window accesses of a team to other devices have all been answered (R345). -/
def windowQuiet (s : State) (t : Team) : Bool :=
  t.pendE.isEmpty && t.braids.all (fun b => b.pendX.isEmpty)
    && !(s.txs.any fun x => x.uid == t.uid && x.record.peerH == windowPeer)

/-- Reports PAUSED once the members of a stopping gang have stopped (R345). -/
def settlePause (s : State) (p : Partition) (g : GangState) : State :=
  let ts := (gangTeams s p.num g.gang).filter fun t => t.status == .running || t.status == .heldExit
  if g.stopping && ts.all fun t => t.savable && windowQuiet s t then
    let s := s.modPart p.num fun p => p.modGang g.gang fun g => { g with stopping := false }
    let s := askStop s ts .held
    let idem := (gangLaunch s p.num g.gang).any fun n =>
      allIdem s n ((gangIndices n g.gang).flatMap (unitOf n)).eraseDups
    tellGang s p g.gang [gangHeadOf s p g.gang] 3 idem
  else s

/-- PAUSED (R345): once every device has reported, the coordinator sends SAVE, or lets the gang be discarded
(R343). One that comes after a kill has ended the pause means nothing (R344). -/
def execPaused (m : GangMsg) (s : State) : Host.Outcome State Fault Refusal :=
  .next (match s.part? m.part with
    | none => s
    | some p =>
      let devs := gangPeersOf s p m.gang
      if devs.headD p.coord != p.coord || !((p.gang? m.gang).any (·.pausing)) then s
      else
        let put := fun (g : GangState) =>
          { g with paused := insertNat m.src g.paused, idem := if m.idem then insertNat m.src g.idem else g.idem }
        let s := s.modPart p.num fun p => p.modGang m.gang put
        match (s.part? p.num).bind (·.gang? m.gang) with
        | none => s
        | some g =>
          if devs.all g.paused.contains then
            let s := s.modPart p.num fun p => p.modGang m.gang fun g => { g with paused := [], idem := [] }
            tellGang s p m.gang devs 4 (devs.all g.idem.contains)
          else s)

/-- Sends GO once every device of a gang has reported READY, not during a pause (R345). -/
def sendGo (s : State) (part : Nat) (gang : Word) (devs : List Nat) : State :=
  match s.part? part with
  | none => s
  | some p =>
    match p.gang? gang with
    | none => s
    | some g =>
      if devs.all g.ready.contains && !g.pausing then
        tellGang (s.modPart part fun p => p.modGang gang fun g => { g with ready := [] }) p gang devs 6 false
      else s

/-- SAVE (R343, R345): the members of this device are saved, or discarded where every member everywhere is in
an idempotent region. It means nothing once the pause has ended by a kill (R344). A coordinator sends the GO that
waited for the pause. -/
def execSave (m : GangMsg) (s : State) : Host.Outcome State Fault Refusal :=
  .next (match s.part? m.part with
    | none => s
    | some p =>
      if !((p.gang? m.gang).any (·.pausing)) then s
      else
        let s := s.modPart p.num fun p => p.modGang m.gang fun g => { g with pausing := false, stopping := false }
        let s := if m.idem then discardUnit s (gangTeams s p.num m.gang) else s
        let devs := gangPeersOf s p m.gang
        if devs.headD p.coord == p.coord then sendGo s p.num m.gang devs else s)

/-- READY (R345): once every device has reported, the coordinator sends GO. -/
def execReady (m : GangMsg) (s : State) : Host.Outcome State Fault Refusal :=
  .next (match s.part? m.part with
    | none => s
    | some p =>
      let devs := gangPeersOf s p m.gang
      if devs.headD p.coord != p.coord then s
      else
        sendGo (s.modPart p.num fun p => p.modGang m.gang fun g => { g with ready := insertNat m.src g.ready }) p.num m.gang devs)

/-- The start record that Gazebo writes for a team (R345). -/
def startRecord (s : State) (t : Team) : BindRec :=
  { launch := word (s.doneRecOf t), team := t.index, slots := BitVec.ofNat 64 (t.braids.foldl (fun m b => m + 2 ^ b.slot) 0)
    base := t.base, tiles := BitVec.ofNat 8 (t.phTiles.foldl (fun m k => m + 2 ^ k) 0), core := t.core, part := t.part
    sup := false, opc := 4, rsv := false }

/-- GO (R345): the members of this device start, with start records. During a pause it says that a kill has ended the
pause (R344, log entry 102): the members go on. -/
def execGo (m : GangMsg) (s : State) : Host.Outcome State Fault Refusal :=
  .next (match s.part? m.part with
    | none => s
    | some p =>
      let mine := gangTeams s m.part m.gang
      if (p.gang? m.gang).any (·.pausing) then
        let s := s.modPart p.num fun p => p.modGang m.gang fun g =>
          { g with pausing := false, stopping := false, paused := [], idem := [] }
        mine.foldl (fun s t => s.modTeam t.uid endStop) s
      else
        let s := match gangLaunch s p.num m.gang with
          | some n => s.modLaunch n.num fun n =>
              { n with gangGo := if n.gangGo.contains m.gang then n.gangGo else m.gang :: n.gangGo }
          | none => s
        settleStarts ((mine.filter fun t => t.status == .restored || t.status == .bound).foldl
          (fun s t =>
            let r := startRecord s t
            submit s r (startCode s r) fun s _ => markStart s r) s))

/-- FAIL (R346): the coordinator passes it on, and every device but the one that failed gives its share up, at once or
when its launch is validated. -/
def execFail (m : GangMsg) (s : State) : Host.Outcome State Fault Refusal :=
  .next (match s.part? m.part with
    | none => s
    | some p =>
      let devs := gangDevices p m.peers
      let s := if devs.headD p.coord == p.coord then
          (devs.filter fun c => c != p.coord && c != m.src).foldl (fun s c => sendGang s p c 7 m) s
        else s
      if m.src == p.coord then s
      else
        match gangLaunch s m.part m.gang with
        | some n => barShare s n m.gang
        | none => s.modPart p.num fun p => p.modGang m.gang fun g => { g with failed := true })

/-- A launch of this device learns what the devices of its gang have reported: the ranks of the other members
(R28), and whether its units may be placed (R346). -/
def settleGang (s : State) (p : Partition) (gang : Word) : State :=
  match gangLaunch s p.num gang, p.gang? gang with
  | some n, some g =>
    let devs := gangDevices p (n.gangPeers gang)
    let all := devs.all fun c => g.validated.any fun v => v.1 == c
    s.modLaunch n.num fun n => { n with
      groups := n.groups.map fun x =>
        if x.gang == gang then { x with remote := g.validated.filter fun v => v.1 != p.coord } else x
      gangReady := if all && !n.gangReady.contains gang then gang :: n.gangReady else n.gangReady }
  | _, _ => s

/-- VALIDATED (R346): the coordinator passes it on, and every device keeps it; a second one from a device is of the share
that follows the present one. -/
def execValidated (m : GangMsg) (s : State) : Host.Outcome State Fault Refusal :=
  .next (match s.part? m.part with
    | none => s
    | some p =>
      let known := fun (g : GangState) => g.validated.any fun v => v.1 == m.src
      if (p.gang? m.gang).any known then
        s.modPart p.num fun p => p.modGang m.gang fun g => { g with early := tabPut g.early m.src m.count }
      else
        let s := s.modPart p.num fun p => p.modGang m.gang fun g => { g with validated := tabPut g.validated m.src m.count }
        match s.part? p.num with
        | none => s
        | some p =>
          let devs := gangPeersOf s p m.gang
          let kept := ((p.gang? m.gang).map (·.validated)).getD []
          let news := if m.src == p.coord then kept else [(m.src, m.count)]
          let s := if devs.headD p.coord == p.coord then
              (devs.filter (· != p.coord)).foldl (fun s c =>
                news.foldl (fun s v => sendGang s p c 8 { m with src := v.1, count := v.2 }) s) s
            else s
          settleGang s p m.gang)

end Sys2Proof.Machine
end

