-- ==== Sys2Proof/Machine/Traps.lean ====
section
/-! DEFINITION. Traps, debug and counters: TRAP, BKPT, EMRET, RNG, CLK, PROG, and a fetched encoding that is no
instruction (R143, R218-R222). -/

namespace Sys2Proof.Machine

/-- Asks for a debug stop of a team (R218, R384). While a debug stop is asked for or in force a further request is
ignored, except that of several braids in one clock the one of lowest rank requests; while a save or a move is, it is
kept until that is over. -/
def requestStop (s : State) (uid cause data1 rank : Nat) (pc : Pc) (lanes : Mask) : State :=
  s.modTeam uid fun t =>
    if t.dbgStopped then t
    else
      match t.stop, t.wantStop with
      | .none, _ => { t with stop := .debug cause data1 rank pc lanes, stopSince := s.clock }
      | .debug _ _ r _ _, _ =>
        if t.stopSince == s.clock && rank < r then { t with stop := .debug cause data1 rank pc lanes } else t
      | _, .none => { t with wantStop := .debug cause data1 rank pc lanes, wantSince := s.clock }
      | _, _ => t

/-- TRAP (R218). -/
def execTrap (f : Fields) (s : State) : Host.Outcome State Fault Refusal :=
  perform (.trap f) s fun e => .trap { cause := 0x10, detail := f.h.toNat, lanes := e.act }

/-- BKPT (R218): with S = 1 and outside a handler its lanes stand there until the stop is over. -/
def execBkpt (f : Fields) (s : State) : Host.Outcome State Fault Refusal :=
  perform (.bkpt f) s fun e =>
    if e.s.dbgFlag e.t 0 then
      if e.act &&& ~~~ e.b.passed == 0 then .go e.s
      else
        let s := requestStop e.s e.t.uid 2 f.h.toNat e.rank e.pc e.act
        if f.s && e.b.handler.isNone then .wait s e.act .plain else .go s
    else if f.x.getLsbD 0 then .trap { cause := 0x11, detail := f.h.toNat, lanes := e.act }
    else .go e.s

/-- EMRET (R148, R219). -/
def execEmret (f : Fields) (s : State) : Host.Outcome State Fault Refusal :=
  perform (.emret f) s fun e =>
    match e.b.handler with
    | none => .trap { cause := 4, lanes := e.act }
    | some entered =>
      .jumped (e.s.trapReturn e.t.uid e.rank entered
        (BitVec.ofNat 32 (if f.x.getLsbD 0 then e.b.pres.enext else e.b.pres.epc).toNat))

/-- RNG (R111, R220). -/
def execRng (f : Fields) (s : State) : Host.Outcome State Fault Refusal :=
  perform (.rng f) s fun e =>
    let n := e.s.launchOf e.t
    let count := (n.map (·.streamCount)).getD 0
    let base := (n.map (·.streamBase)).getD 0
    let key := (n.map (·.streamKey)).getD 0
    let val := fun (l : Nat) => (e.src f.kindB f.b l).toNat
    let bad := (Mask.lanes e.act).filter fun l => count ≤ val l
    if bad.isEmpty then
      .go (e.writeD (fun l => word (keyedGen key.toNat ((base + val l) % 2 ^ 64))) fun _ => 8)
    else .trap { cause := 4, opnd := 3, lanes := if f.kindB then e.act else maskOf bad
                 value := val (bad.headD 0) }

/-- CLK (R221): a logged value (R389). -/
def execClk (f : Fields) (s : State) : Host.Outcome State Fault Refusal :=
  perform (.clk f) s fun e =>
    withReplay e [e.act]
      (fun s vs => .go (e.writeReg s f.kindD f.d (fun _ => word (vs.headD 0)) fun _ => 8)) <|
    let v := if f.x.getLsbD 0 then e.s.time else e.s.clock
    .go (logValue e (e.writeD (fun _ => word v) fun _ => 8) 0 (word v).toNat)

/-- PROG (R222, R386): the counters move while a trial of the launch runs. -/
def execProg (f : Fields) (s : State) : Host.Outcome State Fault Refusal :=
  perform (.prog f) s fun e =>
    let n := if f.x.getLsbD 0 then Mask.count e.act else 1
    .go (e.s.modPart e.t.part fun p =>
      if p.trial.any fun x => some x.launch == e.t.launch then p.bump 0x0322 (f.h.toNat % 16) n else p)

/-- The value of a field that OPND numbers, as encoded (R134, R149). -/
def fieldAt (raw : BitVec 128) (opnd : Nat) : Nat :=
  let f := fieldsOf raw
  match opnd with
  | 1 => f.d.toNat | 2 => f.a.toNat | 3 => f.b.toNat | 4 => f.c.toNat | 5 => f.h.toNat
  | 6 => f.e.toNat | 7 => f.g.toNat | 8 => f.f.toNat | 9 => f.x.toNat | 10 => f.l.toNat
  | _ => 0

/-- A fetched encoding that is no instruction (R143, R145): cause 0x01, also where no lane is active. -/
def execIllegalEncoding (x : Illegal) (s : State) : Host.Outcome State Fault Refusal :=
  match s.team? s.cur.uid with
  | none => .fault .noBraid
  | some t =>
    match t.braids[s.cur.rank]? with
    | none => .fault .noBraid
    | some b =>
      let e := mkEnv s t b (.illegalEncoding x) (fieldsOf x.raw)
      .next (finish e (.trap { cause := 1, detail := x.detail, opnd := x.opnd, value := fieldAt x.raw x.opnd
                               lanes := if e.act == 0 then e.part else e.act }))

end Sys2Proof.Machine
end

