-- ==== Sys2Proof/Machine/Debug.lean ====
section
/-! DEFINITION. Belvedere: breakpoints and debug stops (R384, R385), trace records (R382, R383), causal trials
(R386, R387), the replay ring (R388, R389) and the arming of a replay (R390). -/

namespace Sys2Proof.Machine

/-! The supervisor team that fqsup names (R327, R382) -/

/-- Core and lowest slot of a team's binding, as registers name it. -/
def Team.binding (t : Team) : Nat :=
  t.core * 64 + ((t.braids.map (·.slot)).foldl (fun (m : Option Nat) k => some (min k (m.getD k))) none).getD 0

/-- The team bound at a place of a partition, where one is. -/
def teamAt (s : State) (part binding : Nat) : Option Team :=
  s.teams.find? fun t => t.part == part && t.status != .saved && !t.braids.isEmpty && t.binding == binding

/-- Adds 1 to a counter of the supervisor team that fqsup names, with a release at device scope. -/
def raiseSup (s : State) (p : Partition) (k : Nat) : State :=
  match teamAt s p.num (p.reg 0x0014 0) with
  | none => s
  | some t =>
    if !t.isSup then s
    else s.modTeam t.uid fun t =>
      { t with k := t.k.set k (t.k.getD k 0 + 1), kRel := t.kRel ++ [(k, mkRelease t 0 [] 3 0)] }

/-! Trace records -/

/-- The 64 bytes of a trace record (R382). -/
def TraceRec.bytes (r : TraceRec) (seq : Nat) : List Byte :=
  leBytes 8 (r.type % 16 + 256 * (r.rank % 32)) ++ leBytes 8 seq ++ leBytes 8 r.data1.toNat
    ++ leBytes 8 r.data0.toNat ++ leBytes 4 r.lanes.toNat ++ leBytes 4 r.off ++ leBytes 4 r.ord ++ leBytes 4 r.team
    ++ leBytes 8 r.launch.toNat ++ leBytes 8 r.stamp

/-- The ring has room for one more record. -/
def traceRoom (p : Partition) : Bool := p.reg 0x0312 0 - p.reg 0x0313 0 < p.reg 0x0311 0

/-- Writes a record into the ring (R382), or none where the ring cannot be reached. -/
def postTrace (s : State) (p : Partition) (r : TraceRec) : Option State :=
  let head := p.reg 0x0312 0
  match writeBytes s p.num 0 (p.reg 0x0310 0 + 64 * (head % p.reg 0x0311 0)) (r.bytes head) with
  | (_, .error _) => none
  | (s, .ok ()) =>
    let s := s.modPart p.num fun p => p.bump 0x0312 0 1
    some (if r.type == 1 then s else raiseSup s p 1)

/-- TRACE_RECORD_POST (R382): the oldest waiting record is posted once the ring has room. -/
def execTraceRecordPost (part : Nat) (s : State) : Host.Outcome State Fault Refusal :=
  .next (match s.part? part with
    | none => s
    | some p =>
      match p.traceWait with
      | [] => s
      | r :: rest =>
        if !traceRoom p then s
        else ((postTrace s p r).map fun s => s.modPart part fun p => { p with traceWait := rest }).getD s)

/-- A trace record about lanes of a braid at a program counter. -/
def traceOf (s : State) (t : Team) (type rank pc : Nat) (lanes : Mask) (d0 d1 : Nat) : TraceRec :=
  let at_ := s.location t pc
  { type, launch := word (s.doneRecOf t), team := t.index, ord := at_.1, off := at_.2, lanes
    data0 := word d0, data1 := word d1, rank, stamp := s.time }

/-- The side of a braid slot on a core, and its position on it (R12). -/
def sideOf (core slot : Nat) : Nat := core * 4 + slot % 4

/-- TRACE_SAMPLE (R383): the group that the sampled side issues first in this clock, as its issue begins. -/
def execTraceSample (core : Nat) (r : BraidRef) (s : State) : Host.Outcome State Fault Refusal :=
  .next (match s.team? r.uid with
    | none => s
    | some t =>
      match s.part? t.part, t.braids[r.rank]? with
      | some p, some b =>
        let every := p.reg 0x0315 0
        let due := every != 0 && s.clock % every == 0 && t.core == core && b.slot % 4 == s.clock / every % 4
          && s.cur.uid == r.uid && s.cur.rank == r.rank && !s.cur.second
          && !s.issued.any (·.1 == sideOf core b.slot) && s.dbgFlag t 1
        if !due then s
        else if !traceRoom p then s.modPart p.num fun p => p.bump 0x0314 0 1
        else
          (postTrace s p (traceOf s t 1 r.rank s.cur.pc.toNat s.cur.lanes (2 * bit b.meld) 0)).getD
            (s.modPart p.num fun p => p.bump 0x0314 0 1)
      | _, _ => s)

/-! Debug stops -/

/-- The instruction at a program counter carries S = 1 (R131). -/
def safePointAt (s : State) (t : Team) (pc : Nat) : Bool :=
  match readBytes s t.part t.ctx (t.code + pc) 8 .fetch with
  | (_, .ok bs) => bitAt (leNat bs) 2
  | (_, .error _) => false

/-- Breakpoint k of a partition matches a team at a program counter (R381, R384). -/
def breakpointHits (s : State) (p : Partition) (t : Team) (pc k : Nat) : Bool :=
  let c := p.reg 0x0309 k
  bitAt c 0 && s.location t pc == (p.reg 0x0308 k, 0)
    && s.doneRecOf t != 0 && p.reg 0x0300 (bitsOf c 5 2) == s.doneRecOf t && bitAt (p.reg 0x0301 (bitsOf c 5 2)) 0
    && (!bitAt c 1 || bitsOf c 63 32 == t.index)

/-- The lowest breakpoint that a team meets at a program counter. -/
def breakpointAt (s : State) (t : Team) (pc : Nat) : Option Nat :=
  (s.part? t.part).bind fun p => (List.range 32).find? fun k => breakpointHits s p t pc k

/-- Lanes of a braid at a program counter that may issue there. -/
def Braid.groupAt (b : Braid) (pc : Nat) : Mask :=
  maskWhere fun l => (b.lane l).live && (b.lane l).pc.toNat == pc

/-- BREAKPOINT_MATCH (R384): the group does not issue, and its team is to stop. -/
def execBreakpointMatch (r : BraidRef) (pc bp : Nat) (s : State) : Host.Outcome State Fault Refusal :=
  .next (match s.team? r.uid with
    | none => s
    | some t =>
      match s.part? t.part, t.braids[r.rank]? with
      | some p, some b =>
        let lanes := b.groupAt pc
        if lanes == 0 || lanes &&& ~~~ b.passed == 0 || b.handler.isSome || t.status != .running
            || !breakpointHits s p t pc bp || !safePointAt s t pc then s
        else requestStop s t.uid 1 bp r.rank (BitVec.ofNat 32 pc) lanes
      | _, _ => s)

/-- DEBUG_STOP_COMPLETE (R384, R390): every braid has stopped; one record is posted. -/
def execDebugStopComplete (uid : Nat) (s : State) : Host.Outcome State Fault Refusal :=
  .next (match s.team? uid with
    | none => s
    | some t =>
      match t.stop with
      | .debug cause data1 rank pc lanes =>
        if !t.stopped then s
        else
          let d0 := if cause == 4 then t.replay.getD 0 else cause
          let r := traceOf s t (if cause == 4 then 4 else 2) rank pc.toNat lanes d0 data1
          (s.modPart t.part fun p => { p with traceWait := p.traceWait ++ [r] }).modTeam uid fun t =>
            { t with stop := t.wantStop, wantStop := .none, stopSince := t.wantSince, dbgStopped := true, dbgStep := false }
      | _ => s)

/-- A debug-stopped team runs again (R385): its lanes get past the instructions they stand at. -/
def leaveStop (t : Team) (step : Bool) : Team :=
  { t with
    dbgStopped := false, dbgStep := step
    braids := t.braids.map fun b =>
      { b with stop := if b.stop == .safePoint && t.status == .running then .running else b.stop
               passed := b.liveMask, stepIssues := 0 } }

/-- DEBUG_RESUME (R385). -/
def execDebugResume (part binding : Nat) (s : State) : Host.Outcome State Fault Refusal :=
  .next (match teamAt s part binding with
    | none => s
    | some t => if t.dbgStopped then s.modTeam t.uid fun t => leaveStop t false else s)

/-- DEBUG_STEP (R385). -/
def execDebugStep (part binding : Nat) (s : State) : Host.Outcome State Fault Refusal :=
  .next (match teamAt s part binding with
    | none => s
    | some t => if t.dbgStopped then s.modTeam t.uid fun t => leaveStop t true else s)

/-! Causal trials -/

/-- A trial starts (R387): its counters are zero. -/
def startTrial (s : State) (part : Nat) (ctl : Nat) : State :=
  match s.part? part with
  | none => s
  | some p =>
    let rec_ := p.reg 0x0300 (bitsOf ctl 11 8)
    let launch := ((s.launches.find? fun n => n.part == part && n.doneRec == rec_ && n.phase != .ended).map (·.num)).getD 0
    let s := s.modPart part fun p =>
      { (List.range 16).foldl (fun p k => p.setReg 0x0322 k 0) (p.setReg 0x0320 0 ctl) with
        trial := some { launch, del := bitsOf ctl 23 16, g := 0, start := s.clock, till := s.clock + bitsOf ctl 63 32 * 1750 } }
    { s with teams := s.teams.map fun t =>
        if t.launch == some launch then
          { t with braids := t.braids.map fun b => { b with follyC := 0, follyPaid := 0 } }
        else t }

/-- A trial ends (R387): a type 3 record with its elapsed clocks and total delay. -/
def endTrial (s : State) (part : Nat) : State :=
  match s.part? part with
  | none => s
  | some p =>
    match p.trial with
    | none => s
    | some x =>
      let r : TraceRec :=
        { type := 3, launch := word (p.reg 0x0300 (bitsOf (p.reg 0x0320 0) 11 8)), team := 0, ord := 0, off := 0
          lanes := 0, data0 := word (s.clock - x.start), data1 := word x.g, rank := 0, stamp := s.time }
      s.modPart part fun p =>
        { p.setReg 0x0320 0 (p.reg 0x0320 0 / 2 * 2) with trial := none, traceWait := p.traceWait ++ [r] }

/-- follyctl's limits (R386). -/
def trialOk (p : Partition) (ctl : Nat) : Bool :=
  let lo := bitsOf (p.reg 0x0321 0) 31 0
  let hi := bitsOf (p.reg 0x0321 0) 63 32
  bitAt ctl 0 && p.trial.isNone && p.reg 0x0300 (bitsOf ctl 11 8) != 0 && 1 ≤ bitsOf ctl 63 32
    && lo ≤ hi && hi < 0xFFFFFFFF

/-- FOLLY_TRIAL_START (R386, R387). -/
def execFollyTrialStart (part : Nat) (ctl : Word) (s : State) : Host.Outcome State Fault Refusal :=
  .next (match s.part? part with
    | none => s
    | some p =>
      let v := Nat.land ctl.toNat (assignedBits 0x0320 0)
      if trialOk p v then startTrial s part v else s)

/-- FOLLY_TRIAL_STOP (R386): RUN = 0 ends a trial early. -/
def execFollyTrialStop (part : Nat) (s : State) : Host.Outcome State Fault Refusal := .next (endTrial s part)

/-- FOLLY_TRIAL_EXPIRY (R387). -/
def execFollyTrialExpiry (part : Nat) (s : State) : Host.Outcome State Fault Refusal :=
  .next (match (s.part? part).bind (·.trial) with
    | none => s
    | some x => if x.till ≤ s.clock then endTrial s part else s)

/-- A trial holds a braid of its launch (R387). -/
def follyHeld (s : State) (t : Team) (b : Braid) : Bool :=
  match (s.part? t.part).bind (·.trial) with
  | none => false
  | some x => some x.launch == t.launch && b.follyPaid + b.follyC < x.g

/-- One clock of the trials (R387): every braid of a trial's launch that owes clocks pays one. -/
def follyClock (s : State) : State :=
  if s.parts.all fun p => p.trial.isNone then s
  else
    { s with teams := s.teams.map fun t =>
        { t with braids := t.braids.map fun b =>
            if follyHeld s t b then { b with follyPaid := b.follyPaid + 1 } else b } }

/-- An issue in the range of a trial (R387). -/
def follyIssue (s : State) (uid rank pc : Nat) : State :=
  match s.team? uid with
  | none => s
  | some t =>
    match s.part? t.part with
    | none => s
    | some p =>
      match p.trial with
      | none => s
      | some x =>
        let ord := (s.location t pc).1
        if some x.launch == t.launch && bitsOf (p.reg 0x0321 0) 31 0 ≤ ord && ord ≤ bitsOf (p.reg 0x0321 0) 63 32 then
          (s.modPart p.num fun p => { p with trial := p.trial.map fun x => { x with g := x.g + x.del } }).modBraid uid rank
            fun b => { b with follyC := b.follyC + x.del }
        else s

/-- FOLLY_HOLD_END (R387): a braid whose paid count has caught up is ready again. Being held is no state of
its own: it follows from the two counts, which each clock moves, so nothing else changes. -/
def execFollyHoldEnd (_r : BraidRef) (s : State) : Host.Outcome State Fault Refusal := .next s

/-! The replay ring -/

/-- The bytes of a replay record (R388). -/
def logBytes (s : State) (t : Team) (r : LogRec) : List Byte :=
  let at_ := s.location t r.pc.toNat
  leBytes 7 (r.type % 16 + 2 ^ 51 * (r.rank % 32)) ++ [BitVec.ofNat 8 r.handle] ++ leBytes 8 r.value
    ++ leBytes 4 r.lanes.toNat ++ leBytes 4 at_.2 ++ leBytes 4 at_.1 ++ leBytes 4 t.index
    ++ if r.type == 1 then padTo 64 r.line else []

/-- Writes bytes around the ring, 32 at a time. -/
def writeRing (part base len : Nat) : Nat → Nat → List Byte → State → Option State
  | 0, _, _, s => some s
  | fuel + 1, at_, bs, s =>
    if bs.isEmpty then some s
    else
      match writeBytes s part 0 (base + at_ % len) (bs.take 32) with
      | (_, .error _) => none
      | (s, .ok ()) => writeRing part base len fuel (at_ + 32) (bs.drop 32) s

/-- Writes the records of a logged team that the ring has room for, in order (R388); an unlogged team's are
dropped. -/
def flushLog (uid : Nat) : Nat → State → State
  | 0, s => s
  | fuel + 1, s =>
    match s.team? uid with
    | none => s
    | some t =>
      match t.logQueue with
      | [] => s
      | r :: rest =>
        if !s.isLogged t then s.modTeam uid fun t => { t with logQueue := [] }
        else
          match s.part? t.part with
          | none => s
          | some p =>
            let bs := logBytes s t r
            let head := p.reg 0x0332 0
            if p.reg 0x0331 0 < head - p.reg 0x0333 0 + bs.length then s
            else
              match writeRing p.num (p.reg 0x0330 0) (p.reg 0x0331 0) 4 head bs s with
              | none => s
              | some s =>
                flushLog uid fuel ((s.modPart p.num fun p => p.bump 0x0332 0 bs.length).modTeam uid fun t =>
                  { t with logQueue := rest })

/-- REPLAY_ARM (R388, R390): a write to rpmode arms a binding that is prepared or restored, or disarms it. -/
def armReplay (s : State) (part binding : Nat) (arm : Bool) : State :=
  match s.part? part, teamAt s part binding with
  | some p, some t =>
    if t.status == .prepared || t.status == .restored then
      s.modTeam t.uid fun t => { t with replay := if arm then some (p.reg 0x0334 0) else none }
    else s
  | _, _ => s
def execReplayArm (part binding : Nat) (s : State) : Host.Outcome State Fault Refusal :=
  .next (armReplay s part binding true)

end Sys2Proof.Machine
end

