-- ==== Sys2Proof/Machine/Control.lean ====
section
/-! DEFINITION. Control flow without EXIT (R189-R191, R193) and the Splice (R80-R85, R194, R195). -/

namespace Sys2Proof.Machine

/-- Sends every active lane to its target (R189). In a melded region all lanes go together or none
does (R85); `k` is what a lane does besides. -/
def branch (e : Env) (target : Nat → Pc) (k : Nat → Lane → Lane) : Act :=
  .moved (e.s.modLanes e.t.uid e.rank e.act fun l x =>
    { k l x with pc := target l, wait := none, sleepUntil := none })

/-- The meld-diverge condition of R85 for lanes with these targets. -/
def meldDiverges (e : Env) (lanes : List Nat) (target : Nat → Pc) : Bool :=
  e.b.meld && (e.act != e.b.liveMask || lanes.any fun l => target l != target (lanes.headD 0))

/-- A branch that checks R85 first. -/
def branchTo (e : Env) (target : Nat → Pc) (k : Nat → Lane → Lane) : Act :=
  if meldDiverges e (Mask.lanes e.act) target then .trap { cause := 8, lanes := e.act }
  else branch e target k

/-- A program counter plus a signed count of words (R186). -/
def pcRel (pc : Pc) (off : Int) : Pc := BitVec.ofInt 32 (Int.ofNat pc.toNat + 4 * off)

/-- NOP (R193). -/
def execNop (f : Fields) (s : State) : Host.Outcome State Fault Refusal :=
  perform (.nop f) s fun e => .go e.s

/-- BR (R189). -/
def execBr (f : Fields) (s : State) : Host.Outcome State Fault Refusal :=
  perform (.br f) s fun e => branchTo e (fun _ => pcRel e.pc (signed 32 f.e.toNat)) fun _ x => x

/-- The predicate of a BRM pair in a lane (R190). -/
def brmHolds (v : BitVec 7) (x : Lane) : Bool := x.pred (v.toNat % 8) != v.getLsbD 3

/-- The pairs of a BRM: predicate field and word offset, in the order in which they are tried. -/
def brmPairs (f : Fields) : List (BitVec 7 × Int) :=
  [(f.d, signed 16 f.e.toNat), (f.a, signed 16 (f.e.toNat / 65536)), (f.b, signed 16 f.l.toNat),
   (f.c, signed 16 (f.l.toNat / 65536))].take (f.x.toNat % 4 + 1)

/-- BRM (R77, R190): the first pair whose predicate holds, else the next instruction. -/
def execBrm (f : Fields) (s : State) : Host.Outcome State Fault Refusal :=
  perform (.brm f) s fun e =>
    branchTo e (fun l =>
      match (brmPairs f).find? fun p => brmHolds p.1 (e.b.lane l) with
      | some p => pcRel e.pc p.2
      | none => nextPc e.pc 16) fun _ x => x

/-- The offsets of a JTB: default and table, in words (R191). -/
def jtbOffsets (f : Fields) : Int × Int :=
  if f.len == 1 then (signed 16 f.e.toNat, signed 16 (f.e.toNat / 65536))
  else (signed 32 f.e.toNat, signed 32 f.l.toNat)

/-- The table entries that the active lanes of a JTB need, read through the fetch path (R191): as memory stands, also
where the core still keeps an earlier version of the block for execution (R136; the model's choice, log 88). -/
def jtbEntries (e : Env) (table : Nat) (n : Nat) : List Nat → State → State × List (Nat × Except Draft Int)
  | [], s => (s, [])
  | l :: ls, s =>
    let i := (e.src e.f.kindA e.f.a l).toNat
    if n ≤ i then jtbEntries e table n ls s
    else
      match readVirt s e.t.part e.t.ctx (e.t.code + table + 4 * i) 4 .fetch with
      | (s, .error d) =>
        let (s, rest) := jtbEntries e table n ls s
        (s, (l, .error d) :: rest)
      | (s, .ok bs) =>
        let (s, rest) := jtbEntries e table n ls s
        (s, (l, .ok (signed 32 (leNat bs))) :: rest)

/-- JTB (R191). -/
def execJtb (f : Fields) (s : State) : Host.Outcome State Fault Refusal :=
  perform (.jtb f) s fun e =>
    let n := f.h.toNat
    let (dflt, off) := jtbOffsets f
    let t := Int.ofNat e.pc.toNat + 4 * off
    if n != 0 && (t < 64 || Int.ofNat e.t.codeLen < t + 4 * Int.ofNat n) then
      .trap (if f.len == 1 then { cause := 4, opnd := 6, lanes := e.act, value := f.e.toNat }
             else { cause := 4, opnd := 10, lanes := e.act, value := f.l.toNat })
    else
      let (s', rs) := jtbEntries e t.toNat n (Mask.lanes e.act) e.s
      let target := fun (l : Nat) =>
        match (rs.find? fun r => r.1 == l).map (·.2) with
        | some (.ok v) => pcRel e.pc v
        | _ => pcRel e.pc dflt
      let bad := laneFaults rs
      let s' := shareWalks e.s s' e.t.part (bad.map (·.2))
      let good := (Mask.lanes e.act).filter fun l => !(bad.map (·.1)).contains l
      if meldDiverges e good target then .trapAt s' { cause := 8, lanes := e.act }
      else
        match laneFault rs with
        | some d => .fault s' d
        | none => branch { e with s := s' } target fun _ x => x

/-- call of R189 in every active lane: overflow in any lane traps before anything changes (R55). In a melded region
cause 0x08 is tested before 0x0B (DESIGN CHOICE, log entry 109). -/
def callTo (e : Env) (target : Nat → Pc) : Act :=
  let deep := (Mask.lanes e.act).filter fun l => 16 ≤ (e.b.lane l).depth
  if meldDiverges e (Mask.lanes e.act) target then .trap { cause := 8, lanes := e.act }
  else if !deep.isEmpty then .trap { cause := 0x0B, lanes := maskOf deep }
  else branch e target fun _ x =>
    { x with stack := x.stack.set x.depth (nextPc e.pc (lenBytes e.f.len)), depth := x.depth + 1 }

/-- CALL (R189). -/
def execCall (f : Fields) (s : State) : Host.Outcome State Fault Refusal :=
  perform (.call f) s fun e => callTo e fun _ => pcRel e.pc (signed 32 f.e.toNat)

/-- CALLI (R189): the target is A[31:0], and A[63:32] is zero. -/
def execCalli (f : Fields) (s : State) : Host.Outcome State Fault Refusal :=
  perform (.calli f) s fun e =>
    let val := fun (l : Nat) => (e.src f.kindA f.a l).toNat
    let bad := (Mask.lanes e.act).filter fun l => 2 ^ 32 ≤ val l
    if bad.isEmpty then callTo e fun l => BitVec.ofNat 32 (val l)
    else .trap { cause := 4, opnd := 2, lanes := if f.kindA then e.act else maskOf bad
                 value := val (bad.headD 0) }

/-- RET (R189): underflow in any lane traps before anything changes (R55). In a melded region cause 0x08 is tested before
0x0C, over the lanes that have a return address (DESIGN CHOICE, log entry 109). -/
def execRet (f : Fields) (s : State) : Host.Outcome State Fault Refusal :=
  perform (.ret f) s fun e =>
    let target := fun (l : Nat) => let x := e.b.lane l; x.stack.getD (x.depth - 1) 0
    let empty := (Mask.lanes e.act).filter fun l => (e.b.lane l).depth == 0
    let full := (Mask.lanes e.act).filter fun l => (e.b.lane l).depth != 0
    if meldDiverges e full target then .trap { cause := 8, lanes := e.act }
    else if !empty.isEmpty then .trap { cause := 0x0C, lanes := maskOf empty }
    else branch e target fun _ x => { x with depth := x.depth - 1 }

/-- MELD (R80, R194). -/
def execMeld (f : Fields) (s : State) : Host.Outcome State Fault Refusal :=
  perform (.meld f) s fun e =>
    .go (e.s.modBraid e.t.uid e.rank fun b =>
      { b with meld := true, path := maskWhere fun l => (b.lane l).live && (b.lane l).pred f.a.toNat })

/-- The entries of a MAPT, in the order D, A, B, C (R195). -/
def maptValues (f : Fields) : List Nat :=
  [f.d.toNat, f.a.toNat, f.b.toNat, f.c.toNat].take (f.x.toNat % 4 + 1)

/-- MAPT (R83, R195). -/
def execMapt (f : Fields) (s : State) : Host.Outcome State Fault Refusal :=
  perform (.mapt f) s fun e =>
    let put := fun (m : List Nat) =>
      ((maptValues f).zipIdx (f.h.toNat % 16)).foldl (fun m v => m.set v.2 v.1) m
    .go (e.s.modBraid e.t.uid e.rank fun b =>
      if f.h.getLsbD 4 then { b with mt1 := put b.mt1 } else { b with mt0 := put b.mt0 })

/-- UNMELD (R84, R194). -/
def execUnmeld (f : Fields) (s : State) : Host.Outcome State Fault Refusal :=
  perform (.unmeld f) s fun e =>
    .go (e.s.modBraid e.t.uid e.rank fun b => { b with meld := false, path := 0 })

end Sys2Proof.Machine
end

