-- ==== Sys2Proof/Machine/ConvOps.lean ====
section
/-! DEFINITION. Conversion and quantisation in registers: CVT, PACK, UNPK, QNT, DQNT and TAG
(R171-R174, R176). HADQ, which reads a tensor header, stands with the memory instructions. -/

namespace Sys2Proof.Machine

/-- One element converted from format S to format T (R171). An infinity is treated under R100 in every floating-point
format, a wider one too (the model's choice, log 90). -/
def convertElem (src dst : Tag) (nmode : Word) (r : Rnd) (u x : Nat) : Nat :=
  let v := elemValue src x
  if isInt dst then
    (if isInt src then narrowInt dst (intVal src x) (intSat nmode dst) else floatToInt dst v r u)
  else if dst == 15 && ((isInt src && 16 < fmtWidth src) || src == 9) then
    roundTo dst (valueF32 (roundF32 v)) r u
  else roundTo dst v r u

/-- CVT (R171): H[3:0] is the source format and H[7:4] the part. -/
def execCvt (f : Fields) (s : State) : Host.Outcome State Fault Refusal :=
  perform (.cvt f) s fun e =>
    let src : Tag := BitVec.ofNat 4 (f.h.toNat % 16)
    let nd := fmtCount f.f
    let first := f.h.toNat / 16 * nd
    let r := e.rnd f.f
    withTags e [e.checkA src]
      (e.writeD (fun l => fromElems f.f ((List.range nd).map fun k =>
        if first + k < fmtCount src then
          let x := elemOf (fmtWidth src) (first + k) (e.srcA l)
          convertElem src f.f e.b.nmode r (e.draw r.code l k x) x
        else 0)) fun _ => f.f)

/-- The half that X[0] selects (R172): count and first element. -/
def Env.half (e : Env) : Nat := fmtCount e.f.f / 2
def Env.halfAt (e : Env) : Nat := if e.f.x.getLsbD 0 then e.half else 0

def execPack (f : Fields) (s : State) : Host.Outcome State Fault Refusal :=
  perform (.pack f) s fun e =>
    let el := fun (r : Word) (k : Nat) => elemOf (fmtWidth f.f) (e.halfAt + k) r
    withTags e [e.checkA f.f, e.checkB f.f]
      (e.writeD (fun l => fromElems f.f
        ((List.range e.half).map (el (e.srcA l)) ++ (List.range e.half).map (el (e.srcB l))))
        fun _ => f.f)

def execUnpk (f : Fields) (s : State) : Host.Outcome State Fault Refusal :=
  perform (.unpk f) s fun e =>
    withTags e [e.checkA f.f]
      (e.writeD (fun l => fromElems f.f
        ((List.range e.half).map fun k => elemOf (fmtWidth f.f) (e.halfAt + k) (e.srcA l))) fun _ => f.f)

/-- The scale byte of QNT and DQNT (R173, R174): B as raw bits, or E itself. -/
def Env.scaleByte (e : Env) (l : Nat) : Nat :=
  if e.f.len == 0 then (e.src e.f.kindB e.f.b l).toNat % 256 else e.f.e.toNat % 256

/-- An F32 element under a block scale, rounded once (R173). -/
def quantElem (t : Tag) (nmode : Word) (u b x : Nat) : Nat :=
  roundScaled t b (valueF32 x) (nmodeRnd nmode t) u

/-- QNT with X[3] = 0 (R173). -/
def execQnt (f : Fields) (s : State) : Host.Outcome State Fault Refusal :=
  perform (.qnt f) s fun e =>
    let j := f.x.toNat % 8
    let w := fmtWidth f.f
    let code := (nmodeRnd e.b.nmode f.f).code
    let old := fun l => e.src f.kindD f.d l
    let one := fun (l i : Nat) =>
      let x := elemOf 32 i (e.srcA l)
      quantElem f.f e.b.nmode (e.draw code l (2 * j + i) x) (e.scaleByte l) x
    let cs := (if j == 0 then [] else [e.checkD f.f]) ++ [e.checkA 10]
    withTags e cs
      (e.writeD (fun l => fromElems f.f ((List.range (fmtCount f.f)).map fun k =>
        if k == 2 * j then one l 0
        else if k == 2 * j + 1 then one l 1
        else if j == 0 then 0 else elemOf w k (old l))) fun _ => f.f)

/-- QNT with X[3] = 1 (R173): the scale of the active lanes of one half of the braid. -/
def execQntDerive (f : Fields) (s : State) : Host.Outcome State Fault Refusal :=
  perform (.qntDerive f) s fun e =>
    let lanes := (Mask.lanes e.act).filter fun l => l / 16 == f.h.toNat % 2
    let vals := lanes.flatMap fun l =>
      [valueF32 (elemOf 32 0 (e.srcA l)), valueF32 (elemOf 32 1 (e.srcA l))]
    withTags e [e.checkA 10] (e.writeD (fun _ => word (deriveScale f.f vals)) fun _ => 0)

/-- DQNT (R174). -/
def execDqnt (f : Fields) (s : State) : Host.Outcome State Fault Refusal :=
  perform (.dqnt f) s fun e =>
    let j := f.x.toNat % 8
    let one := fun (l i : Nat) =>
      if fmtCount f.f ≤ 2 * j + i then 0
      else
        let b := e.scaleByte l
        if b == 0xFF then (floatFmt 10).nan
        else roundF32 ((elemValue f.f (elemOf (fmtWidth f.f) (2 * j + i) (e.srcA l))).scale (Int.ofNat b - 127))
    withTags e [e.checkA f.f]
      (e.writeD (fun l => fromElems 10 [one l 0, one l 1]) fun _ => 10)

/-- TAG (R176): the bits unchanged, the tag F. -/
def execTag (f : Fields) (s : State) : Host.Outcome State Fault Refusal :=
  perform (.tag f) s fun e => .go (e.writeD e.srcA fun _ => f.f)

end Sys2Proof.Machine
end

