-- ==== Sys2Proof/Machine/IntOps.lean ====
section
/-! DEFINITION. Integer, address, bitwise, shift and select instructions (R160-R166). -/

namespace Sys2Proof.Machine

/-- X[0] of the narrowing instructions: wrap (R161). -/
def Env.wrap (e : Env) : Bool := e.f.x.getLsbD 0

/-- A result narrowed to F under R161. -/
def Env.narrow (e : Env) (v : Int) : Nat := narrowInt e.f.f v (!e.wrap && intSat e.b.nmode e.f.f)

/-- A result narrowed under R92 by instructions without a wrap variant. -/
def Env.narrowSat (e : Env) (v : Int) : Nat := narrowInt e.f.f v (intSat e.b.nmode e.f.f)

/-- An element operation on A, on A and B, or on A, B and C, checked against F and tagged F. -/
def intUn (e : Env) (g : Int → Nat) : Act :=
  withTags e [e.checkA e.f.f]
    (e.writeD (fun l => mapElems e.f.f (fun _ a => g (intVal e.f.f a)) (e.srcA l)) fun _ => e.f.f)
def intBin (e : Env) (g : Int → Int → Nat) : Act :=
  withTags e [e.checkA e.f.f, e.checkB e.f.f]
    (e.writeD (fun l => mapElems2 e.f.f (fun _ a b => g (intVal e.f.f a) (intVal e.f.f b))
      (e.srcA l) (e.srcB l)) fun _ => e.f.f)

/-- Quotient of R163. -/
def intDiv (t : Tag) (sat : Bool) (a b : Int) : Nat :=
  if b == 0 then
    (if isSigned t then wrapInt (fmtWidth t) (if 0 ≤ a then intMax t else intMin t)
     else 2 ^ fmtWidth t - 1)
  else narrowInt t (Int.tdiv a b) sat

/-- Remainder of R163. -/
def intRem (t : Tag) (a b : Int) : Nat :=
  wrapInt (fmtWidth t) (if b == 0 then a else Int.tmod a b)

/-- One bits of a w-bit pattern, and leading zeros. -/
def popCount (w x : Nat) : Nat := ((List.range w).filter fun k => bitAt x k).length
def leadZeros (w x : Nat) : Nat := if x == 0 then w else w - 1 - x.log2

/-- The bit field of R165: position and length within an element. -/
def fieldLen (w : Nat) (k : Word) : Nat :=
  let pos := k.toNat % 128
  if w ≤ pos then 0 else min (k.toNat / 256 % 128) (w - pos)

def bitExtract (w : Nat) (sx : Bool) (k : Word) (a : Nat) : Nat :=
  let n := fieldLen w k
  let v := a / 2 ^ (k.toNat % 128) % 2 ^ n
  if n == 0 then 0
  else if sx then wrapInt w (signed n v) else v

def bitInsert (w : Nat) (k : Word) (a b : Nat) : Nat :=
  let n := fieldLen w k
  let pos := k.toNat % 128
  if n == 0 then a
  else a - a / 2 ^ pos % 2 ^ n * 2 ^ pos + b % 2 ^ n * 2 ^ pos

/-- Shifts of R166 on a w-bit element. -/
def shl (w a n : Nat) : Nat := if w ≤ n then 0 else a * 2 ^ n % 2 ^ w
def shr (w a n : Nat) : Nat := if w ≤ n then 0 else a / 2 ^ n
def sar (w a n : Nat) : Nat :=
  wrapInt w (if w ≤ n then (if bitAt a (w - 1) then -1 else 0) else Int.fdiv (signed w a) (Int.ofNat (2 ^ n)))
def rotLeft (w a n : Nat) : Nat := (a * 2 ^ (n % w) + a / 2 ^ (w - n % w)) % 2 ^ w
def revBits (w a : Nat) : Nat :=
  (List.range w).foldl (fun r k => r + bit (bitAt a k) * 2 ^ (w - 1 - k)) 0

/-- A whole-register operation on A and B that keeps the tag of A (R166, R60). -/
def bitwise (e : Env) (g : Word → Word → Word) : Act :=
  .go (e.writeD (fun l => g (e.srcA l) (e.srcB l)) e.tagA)

/-- A shift (R166): elements of the width of F, amount unsigned, tag of A. -/
def shiftOp (e : Env) (g : Nat → Nat → Nat → Nat) : Act :=
  .go (e.writeD (fun l => mapElems2 e.f.f (fun _ a n => g (fmtWidth e.f.f) a n) (e.srcA l) (e.srcB l))
    e.tagA)

def execAdd (f : Fields) (s : State) : Host.Outcome State Fault Refusal :=
  perform (.add f) s fun e => intBin e fun a b => e.narrow (a + b)

def execSub (f : Fields) (s : State) : Host.Outcome State Fault Refusal :=
  perform (.sub f) s fun e => intBin e fun a b => e.narrow (a - b)

/-- ADDC and SUBB (R162): D, and the carry-out predicate that H names. -/
def carryOp (e : Env) (g : Nat → Nat → Bool → Word × Bool) : Act :=
  let r := fun l => g (e.srcA l).toNat (e.srcB l).toNat ((e.b.lane l).pred e.f.c.toNat)
  withTags e [e.checkA 8, e.checkB 8]
    (e.writePred (e.writeD (fun l => (r l).1) fun _ => 8) (e.f.h.toNat % 8) fun l => (r l).2)

def execAddc (f : Fields) (s : State) : Host.Outcome State Fault Refusal :=
  perform (.addc f) s fun e => carryOp e addCarry

def execSubb (f : Fields) (s : State) : Host.Outcome State Fault Refusal :=
  perform (.subb f) s fun e => carryOp e subBorrow

def execMul (f : Fields) (s : State) : Host.Outcome State Fault Refusal :=
  perform (.mul f) s fun e => intBin e fun a b => e.narrow (a * b)

def execMulh (f : Fields) (s : State) : Host.Outcome State Fault Refusal :=
  perform (.mulh f) s fun e => intBin e fun a b =>
    wrapInt (fmtWidth f.f) (Int.fdiv (a * b) (Int.ofNat (2 ^ fmtWidth f.f)))

def execMad (f : Fields) (s : State) : Host.Outcome State Fault Refusal :=
  perform (.mad f) s fun e =>
    withTags e [e.checkA f.f, e.checkB f.f, e.checkC f.f]
      (e.writeD (fun l => mapElems3 f.f
        (fun _ a b c => e.narrow (intVal f.f a * intVal f.f b + intVal f.f c))
        (e.srcA l) (e.srcB l) (e.srcC l)) fun _ => f.f)

def execDiv (f : Fields) (s : State) : Host.Outcome State Fault Refusal :=
  perform (.div f) s fun e => intBin e fun a b => intDiv f.f (intSat e.b.nmode f.f) a b

def execRem (f : Fields) (s : State) : Host.Outcome State Fault Refusal :=
  perform (.rem f) s fun e => intBin e fun a b => intRem f.f a b

def execMin (f : Fields) (s : State) : Host.Outcome State Fault Refusal :=
  perform (.min f) s fun e => intBin e fun a b => wrapInt (fmtWidth f.f) (min a b)

def execMax (f : Fields) (s : State) : Host.Outcome State Fault Refusal :=
  perform (.max f) s fun e => intBin e fun a b => wrapInt (fmtWidth f.f) (max a b)

def execAbs (f : Fields) (s : State) : Host.Outcome State Fault Refusal :=
  perform (.abs f) s fun e => intUn e fun a => e.narrow (Int.ofNat a.natAbs)

def execNeg (f : Fields) (s : State) : Host.Outcome State Fault Refusal :=
  perform (.neg f) s fun e => intUn e fun a => e.narrow (-a)

def execAnd (f : Fields) (s : State) : Host.Outcome State Fault Refusal :=
  perform (.and f) s fun e => bitwise e fun a b => a &&& b

def execOr (f : Fields) (s : State) : Host.Outcome State Fault Refusal :=
  perform (.or f) s fun e => bitwise e fun a b => a ||| b

def execXor (f : Fields) (s : State) : Host.Outcome State Fault Refusal :=
  perform (.xor f) s fun e => bitwise e fun a b => a ^^^ b

def execNot (f : Fields) (s : State) : Host.Outcome State Fault Refusal :=
  perform (.not f) s fun e => .go (e.writeD (fun l => ~~~ e.srcA l) e.tagA)

def execShl (f : Fields) (s : State) : Host.Outcome State Fault Refusal :=
  perform (.shl f) s fun e => shiftOp e shl

def execShr (f : Fields) (s : State) : Host.Outcome State Fault Refusal :=
  perform (.shr f) s fun e => shiftOp e shr

def execSar (f : Fields) (s : State) : Host.Outcome State Fault Refusal :=
  perform (.sar f) s fun e => shiftOp e sar

def execRot (f : Fields) (s : State) : Host.Outcome State Fault Refusal :=
  perform (.rot f) s fun e => shiftOp e rotLeft

/-- BFX (R165): the control is B as raw bits; the 96-bit form takes E sign-extended. -/
def execBfx (f : Fields) (s : State) : Host.Outcome State Fault Refusal :=
  perform (.bfx f) s fun e =>
    let k := fun l => if f.len == 1 then f.e.signExtend 64 else e.srcB l
    withTags e [e.checkA f.f]
      (e.writeD (fun l => mapElems f.f (fun _ a => bitExtract (fmtWidth f.f) (f.x.getLsbD 0) (k l) a)
        (e.srcA l)) fun _ => f.f)

def execBfi (f : Fields) (s : State) : Host.Outcome State Fault Refusal :=
  perform (.bfi f) s fun e =>
    withTags e [e.checkA f.f, e.checkB f.f]
      (e.writeD (fun l => mapElems2 f.f (fun _ a b => bitInsert (fmtWidth f.f) (e.srcC l) a b)
        (e.srcA l) (e.srcB l)) fun _ => f.f)

def execPopc (f : Fields) (s : State) : Host.Outcome State Fault Refusal :=
  perform (.popc f) s fun e => withTags e [e.checkA f.f]
    (e.writeD (fun l => mapElems f.f (fun _ a => popCount (fmtWidth f.f) a) (e.srcA l)) fun _ => f.f)

def execClz (f : Fields) (s : State) : Host.Outcome State Fault Refusal :=
  perform (.clz f) s fun e => withTags e [e.checkA f.f]
    (e.writeD (fun l => mapElems f.f (fun _ a => leadZeros (fmtWidth f.f) a) (e.srcA l)) fun _ => f.f)

def execBrev (f : Fields) (s : State) : Host.Outcome State Fault Refusal :=
  perform (.brev f) s fun e =>
    .go (e.writeD (fun l => mapElems f.f (fun _ a => revBits (fmtWidth f.f) a) (e.srcA l)) e.tagA)

def execSel (f : Fields) (s : State) : Host.Outcome State Fault Refusal :=
  perform (.sel f) s fun e =>
    .go (e.writeD (fun l => if (e.b.lane l).pred f.c.toNat then e.srcA l else e.srcB l) e.tagA)

def execCmp (f : Fields) (s : State) : Host.Outcome State Fault Refusal :=
  perform (.cmp f) s fun e =>
    let el := fun (r : Word) => intVal f.f (elemOf (fmtWidth f.f) (f.h.toNat % 16) r)
    withTags e [e.checkA f.f, e.checkB f.f]
      (e.writePred s f.d.toNat fun l => intCond (f.x.toNat % 8) (el (e.srcA l)) (el (e.srcB l)))

def execLea (f : Fields) (s : State) : Host.Outcome State Fault Refusal :=
  perform (.lea f) s fun e =>
    withTags e [e.checkA f.f, e.checkB f.f]
      (e.writeD (fun l => word ((e.srcA l).toNat + (e.srcB l).toNat * 2 ^ (f.h.toNat % 8))) fun _ => f.f)

end Sys2Proof.Machine
end

