-- ==== Sys2Proof/Machine/CrossLane.lean ====
section
/-! DEFINITION. Cross-lane instructions (R177-R184). Every lane is read before any is written; a lane
that is not active for the instruction is not usable. -/

namespace Sys2Proof.Machine

/-- A lane number is usable as a source (R177). -/
def Env.usable (e : Env) (l : Int) : Bool := 0 ≤ l && l < 32 && e.act.getLsbD l.toNat

/-- Fields of the index word of R178. -/
def xlrLane (w l : Nat) : Int :=
  let n := w % 32
  match w / 32 % 4 with
  | 0 => n
  | 1 => Int.ofNat (l ^^^ n)
  | 2 => Int.ofNat l - Int.ofNat n
  | _ => Int.ofNat (l + n)
def xlrElem (w k : Nat) : Nat :=
  let n := w / 256 % 16
  match w / 4096 % 4 with
  | 0 => k
  | 1 => n
  | _ => k ^^^ n
def xlrBad (w : Nat) : Bool := w / 2 ^ 14 != 0 || bitAt w 7 || w / 4096 % 4 == 3

/-- XLR (R178). -/
def execXlr (f : Fields) (s : State) : Host.Outcome State Fault Refusal :=
  perform (.xlr f) s fun e =>
    let idx := fun l => if f.len == 0 then (e.src f.kindB f.b l).toNat % 2 ^ 32 else f.e.toNat
    let bad := maskOf ((Mask.lanes e.act).filter fun l => xlrBad (idx l))
    if bad != 0 then .trap { cause := 4, opnd := 3, lanes := bad, value := idx (Mask.lowest bad) }
    else
      let w := fmtWidth f.f
      let n := fmtCount f.f
      let ok := fun l k => e.usable (xlrLane (idx l) l) && xlrElem (idx l) k < n
      let el := fun (l k : Nat) =>
        if ok l k then elemOf w (xlrElem (idx l) k) (e.srcA (xlrLane (idx l) l).toNat)
        else elemOf w k (e.srcC l)
      .go (e.writeD (fun l => fromElems f.f ((List.range n).map (el l))) fun l =>
        if ok l 0 then e.tagA (xlrLane (idx l) l).toNat else e.tagC l)

/-- Moves whole registers from the lane that `from_` gives, or takes the fallback (R177, R179, R180). -/
def moveLanes (e : Env) (from_ : Nat → Int) : Act :=
  .go (e.writeD (fun l => if e.usable (from_ l) then e.srcA (from_ l).toNat else e.srcC l) fun l =>
    if e.usable (from_ l) then e.tagA (from_ l).toNat else e.tagC l)

/-- The amount or lane that a scalar B or E gives (R179, R180); a scalar with upper bits traps. -/
def withAmount (e : Env) (k : Nat → Act) : Act :=
  if e.f.len == 0 then
    let v := (e.b.sreg e.f.b.toNat).toNat
    if 32 ≤ v then .trap { cause := 4, opnd := 3, lanes := e.act, value := v } else k v
  else k e.f.e.toNat

def execXlb (f : Fields) (s : State) : Host.Outcome State Fault Refusal :=
  perform (.xlb f) s fun e =>
    match f.variant with
    | 1 => moveLanes e fun _ => Int.ofNat (Mask.lowest e.act)
    | 2 => moveLanes e fun _ => Int.ofNat ((Mask.lanes e.act).getLastD 0)
    | _ => withAmount e fun n => moveLanes e fun _ => Int.ofNat n

/-- The source lane of XLS (R180); -1 takes the fallback. -/
def xlsLane (variant seg n l : Nat) : Int :=
  let o := l % 2 ^ seg
  let base := Int.ofNat (l - o)
  match variant with
  | 0 => if n ≤ o then base + Int.ofNat (o - n) else -1
  | 1 => if o + n < 2 ^ seg then base + Int.ofNat (o + n) else -1
  | _ => base + (Int.ofNat o - Int.ofNat n) % Int.ofNat (2 ^ seg)

def execXls (f : Fields) (s : State) : Host.Outcome State Fault Refusal :=
  perform (.xls f) s fun e => withAmount e fun n => moveLanes e (xlsLane f.variant (f.h.toNat % 8) n)

/-- VOTE (R181). -/
def execVote (f : Fields) (s : State) : Host.Outcome State Fault Refusal :=
  perform (.vote f) s fun e =>
    let p := maskOf ((Mask.lanes e.act).filter fun l => (e.b.lane l).pred f.a.toNat)
    match f.variant with
    | 0 => .go (e.writePred s f.d.toNat fun _ => p == e.act)
    | 1 => .go (e.writePred s f.d.toNat fun _ => p != 0)
    | 2 => .go (e.writePred s f.d.toNat fun _ => p == 0 || p == e.act)
    | _ => .go (e.writeD (fun _ => word p.toNat) fun _ => 8)

/-- MATCH (R182). -/
def execMatchLanes (f : Fields) (s : State) : Host.Outcome State Fault Refusal :=
  perform (.matchLanes f) s fun e =>
    let same := fun l => maskOf ((Mask.lanes e.act).filter fun k => e.srcA k == e.srcA l)
    withTags e [e.checkA f.f]
      (if f.variant == 0 then e.writeD (fun l => word (same l).toNat) fun _ => 8
       else e.writePred s f.d.toNat fun _ => same (Mask.lowest e.act) == e.act)

/-- The identity of a reduction (R183), as an integer. -/
def redIdentity (op : Nat) (t : Tag) : Int :=
  match op with
  | 1 => intMax t
  | 2 => intMin t
  | 3 => Int.ofNat (2 ^ fmtWidth t - 1)
  | _ => 0

/-- One integer step of RED and SCAN. -/
def redInt (op w : Nat) (a b : Int) : Int :=
  match op with
  | 0 => a + b
  | 1 => min a b
  | 2 => max a b
  | 3 => Int.ofNat (wrapInt w a &&& wrapInt w b)
  | 4 => Int.ofNat (wrapInt w a ||| wrapInt w b)
  | _ => Int.ofNat (wrapInt w a ^^^ wrapInt w b)

/-- An integer reduction of the listed values, narrowed once (R183). -/
def redInts (e : Env) (vals : List Int) : Nat :=
  let r := vals.foldl (redInt e.f.variant (fmtWidth e.f.f)) (redIdentity e.f.variant e.f.f)
  if e.f.variant == 0 then e.narrowSat r else wrapInt (fmtWidth e.f.f) r

/-- One floating-point step: nearest-even, with -0 below +0 (R183). -/
def redFloat (op : Nat) (t : Tag) (a b : Nat) : Nat :=
  let x := elemValue t a
  let y := elemValue t b
  if op == 8 then roundTo t (x.add y false) Rnd.ne 0
  else if x.isNan || y.isNan then (floatFmt t).nan
  else if op == 9 then (if x.pickMin y then a else b)
  else (if y.pickMin x then a else b)

/-- The floating-point identity: -0, +infinity or -infinity. -/
def redFloatId (op : Nat) (t : Tag) : Nat :=
  let q := floatFmt t
  match op with
  | 8 => q.sign true
  | 9 => q.inf
  | _ => q.sign true + q.inf

/-- Element k of every lane, or the identity where the lane is not active. -/
def redStart (e : Env) (k : Nat) : List Nat :=
  allLanes.map fun l =>
    if e.act.getLsbD l then elemOf (fmtWidth e.f.f) k (e.srcA l) else redFloatId e.f.variant e.f.f

/-- The tree of RED (R183): distances 1, 2, 4, 8 and 16. -/
def redTree (op : Nat) (t : Tag) (y : List Nat) : List Nat :=
  [1, 2, 4, 8, 16].foldl (fun y d => allLanes.map fun l =>
    redFloat op t (y.getD (min l (l ^^^ d)) 0) (y.getD (max l (l ^^^ d)) 0)) y

/-- The prefix steps of SCAN (R184). An element that no op touches is copied with its bits, a NaN too (the model's
choice, log 91). -/
def scanTree (op : Nat) (t : Tag) (y : List Nat) : List Nat :=
  [1, 2, 4, 8, 16].foldl (fun y d => allLanes.map fun l =>
    if d ≤ l then redFloat op t (y.getD (l - d) 0) (y.getD l 0) else y.getD l 0) y

/-- Element k of the active lanes below n. -/
def redVals (e : Env) (k n : Nat) : List Int :=
  ((Mask.lanes e.act).filter fun l => l < n).map fun l => intVal e.f.f (elemOf (fmtWidth e.f.f) k (e.srcA l))

def execRed (f : Fields) (s : State) : Host.Outcome State Fault Refusal :=
  perform (.red f) s fun e =>
    let r := fromElems f.f ((List.range (fmtCount f.f)).map fun k =>
      if f.variant < 8 then redInts e (redVals e k 32)
      else (redTree f.variant f.f (redStart e k)).getD 0 0)
    withTags e [e.checkA f.f] (e.writeD (fun _ => r) fun _ => f.f)

def execScan (f : Fields) (s : State) : Host.Outcome State Fault Refusal :=
  perform (.scan f) s fun e =>
    let excl := f.h.getLsbD 0
    withTags e [e.checkA f.f]
      (e.writeD (fun l => fromElems f.f ((List.range (fmtCount f.f)).map fun k =>
        if f.variant < 8 then redInts e (redVals e k (if excl then l else l + 1))
        else
          let y := scanTree f.variant f.f (redStart e k)
          if !excl then y.getD l 0
          else if l == 0 then redFloatId f.variant f.f else y.getD (l - 1) 0)) fun _ => f.f)

end Sys2Proof.Machine
end

