-- ==== Sys2Proof/Machine/MemOps.lean ====
section
/-! DEFINITION. Lane-wise memory instructions: LD, ST, LDU, PF and ATOM (R225-R230), and HADQ, which
reads a tensor header (R175). -/

namespace Sys2Proof.Machine

/-- Access size in bytes (R224). -/
def memSize (f : Fields) : Nat := 2 ^ (f.x.toNat % 4)

/-- Offsets of the active lanes (R117, R225). -/
def laneOffsets (e : Env) (scale : Nat) : List LaneReq :=
  (Mask.lanes e.act).map fun l => ⟨l, e.offset (memImm e.f) scale l⟩

/-- The value of n bytes, sign-extended where SX is set (R226). -/
def extendBytes (sx : Bool) (n : Nat) (bs : List Byte) : Word :=
  let v := leNat bs
  if sx && n < 8 then word (wrapInt 64 (signed (8 * n) v)) else word v

/-- A lane as it now stands. -/
def laneNow (s : State) (uid rank l : Nat) : Lane :=
  (((s.team? uid).bind fun t => t.braids[rank]?).map (·.lane l)).getD Lane.dead

/-- Reads the bytes of a lane's checked load: from the log in replay (R390), else from its place; an
acquire takes the releases it meets. -/
def loadLane (e : Env) (s : State) (l : Nat) (sp : Spot) (acq : Bool) : State × Except Bool (List Byte) :=
  if e.t.replay.isSome && isShared s e.t sp then
    match replayRead e.t.uid e.rank e.pc.toNat e.act sp.hIdx (sp.n / 64 + 2) (sp.addr - sp.h.base) sp.n s [] with
    | (s, .ok bs) => (if acq then replayInterval s e.t.uid e.rank else s, .ok bs)
    | r => r
  else
    let s := logLines s e.t e.rank e.pc e.act sp
    let point := acq && 2 ≤ sp.h.scope
    let (s, bs) := readSpot s e.t.core e.t.uid e.rank sp point true
    (if acq then meetRels s e.t e.rank l sp true else s, .ok bs)

/-- Reads the bytes of every lane in ascending lane order (R225). -/
def loadLanes (e : Env) (acq : Bool) : List (Nat × Spot) → State → List (Nat × List Byte) →
    State × Except Bool (List (Nat × List Byte))
  | [], s, acc => (s, .ok acc)
  | (l, sp) :: rest, s, acc =>
    match loadLane e s l sp acq with
    | (s, .error d) => (s, .error d)
    | (s, .ok bs) => loadLanes e acq rest s (acc ++ [(l, bs)])

/-- A replayed instruction that found no record of its own: another braid's comes first, or the team
has diverged (R390). -/
def replayStuck (e : Env) (s : State) (diverged : Bool) : Act :=
  .wait (if diverged then diverge s e.t 1 e.rank e.pc e.act else e.s) e.act .plain

/-- The request of a window load to another device. -/
def peerLoad (e : Env) (n : Nat) (acq : Bool) (l : Nat) (_sp : Spot) : FabRecord :=
  { baseRecord e.s e.t .load with count := n, origin := originOf e.s (e.laneAccessor l) acq [] }

/-- The lanes whose bytes came from other devices take the releases they met. -/
def takePeers (e : Env) (spots : List (Nat × Spot)) (acq : Bool) (far : Nat → Word × List Release) (s : State) : State :=
  (peerSpots spots).foldl (fun s x => takeRels s e.t e.rank x.1 (far x.1).2 acq x.2.h.scope x.2.h.wgroup) s

/-- The loads of an instruction: bytes by lane. -/
def withLoads (e : Env) (s : State) (spots : List (Nat × Spot)) (n : Nat) (acq : Bool)
    (k : State → (Nat → List Byte) → Act) : Act :=
  withPeers e s spots (peerLoad e n acq) fun s far =>
    match loadLanes e acq spots (if acq then takePeers e spots true far s else s) [] with
    | (s, .error d) => replayStuck e s d
    | (s, .ok vs) =>
      k ((peerSpots spots).foldl (fun s x => logAbroad s e.t e.rank e.pc e.act x.2 (leBytes n (far x.1).1.toNat)) s) fun l =>
        match spots.find? fun x => x.1 == l with
        | some (_, sp) =>
          match sp.place with
          | .peer _ _ _ => leBytes n (far l).1.toNat
          | _ => ((vs.find? fun v => v.1 == l).map (·.2)).getD []
        | none => []

/-- LD (R226). -/
def execLd (f : Fields) (s : State) : Host.Outcome State Fault Refusal :=
  perform (.ld f) s fun e =>
    let n := memSize f
    let offs := laneOffsets e n
    let acq := f.x.getLsbD 3
    withHandle e [1, 2, 3, 4, 5, 6] [] offs n fun s h =>
      withSpots e s h n (if acq then .syncRead else .load) offs fun s spots =>
        withLoads e s spots n acq fun s bytes =>
          .go (e.writeReg s false f.d (fun l => extendBytes (f.x.getLsbD 2) n (bytes l)) fun _ => f.f)

/-- One access for all active lanes: the checks of the lowest, and a record that names them all. -/
def uniformAct (e : Env) (a : Act) : Act :=
  match a with
  | .fault s d => .fault s { d with lanes := e.act }
  | a => a

/-- LDU (R226): one load from a scalar base. -/
def execLdu (f : Fields) (s : State) : Host.Outcome State Fault Refusal :=
  perform (.ldu f) s fun e =>
    let n := memSize f
    let offs := laneOffsets e n
    let acq := f.x.getLsbD 3
    withHandle e [1, 2, 3, 4, 5, 6] [] offs n fun s h =>
      uniformAct e (withSpots e s h n (if acq then .syncRead else .load) (offs.take 1) fun s spots =>
        withLoads e s spots n acq fun s bytes =>
          let v := extendBytes (f.x.getLsbD 2) n (bytes (Mask.lowest e.act))
          .go (e.writeReg s (f.x.getLsbD 6) f.d (fun _ => v) fun _ => f.f))

/-- A replayed team does not perform a store that reaches beyond its own state (R390). -/
def hidden (e : Env) (s : State) (sp : Spot) : Bool := e.t.replay.isSome && isShared s e.t sp

/-- Performs one lane's store (R225, R227, R281). -/
def storeLane (e : Env) (rel : Bool) (data : Nat → List Byte) (s : State) (x : Nat × Spot) : State :=
  let (l, sp) := x
  match sp.place with
  | .peer _ _ _ => s
  | _ =>
    if hidden e s sp then s
    else
      let s := writeSpot s e.t.core e.t.uid e.rank sp (data l)
      let own := if rel then
          laneReleases e.t e.rank (laneNow s e.t.uid e.rank l) true sp.h.scope sp.h.wgroup
        else []
      settleRels s sp (if rel then .syncWrite else .store) own

/-- The request of a window store to another device; its reply says whether it was performed. -/
def peerStore (e : Env) (rel : Bool) (data : Nat → List Byte) (l : Nat) (sp : Spot) : FabRecord :=
  let off := match sp.place with
    | .peer _ _ a => Int.ofNat a
    | _ => 0
  { baseRecord e.s e.t .store with
    ret := true, data := data l, check := sourceCheck (data l) off
    origin := originOf e.s (e.laneAccessor l) rel
      (if rel then laneReleases e.t e.rank (e.b.lane l) true sp.h.scope sp.h.wgroup else []) }

/-- ST (R227): one store for a scalar D and base, else one per active lane in ascending order. -/
def execSt (f : Fields) (s : State) : Host.Outcome State Fault Refusal :=
  perform (.st f) s fun e =>
    let n := memSize f
    let offs := laneOffsets e n
    let rel := f.x.getLsbD 3
    let single := f.x.getLsbD 6 && f.x.getLsbD 7
    let data := fun (l : Nat) => leBytes n (e.src (f.x.getLsbD 6) f.d l).toNat
    withHandle e [1, 2, 3, 4, 5, 6] [] offs n fun s h =>
      let body := withSpots e s h n (if rel then .syncWrite else .store) (if single then offs.take 1 else offs)
        fun s spots =>
          withPeers e s spots (peerStore e rel data) fun s _ => .go (spots.foldl (storeLane e rel data) s)
      if single then uniformAct e body else body

/-- A lock or prefetch of one lane (R228): the line of the address, where it can be reached. -/
def prefetchLane (e : Env) (h : Handle) (lk : Nat) (s : State) (r : LaneReq) : State :=
  if h.space != 5 && h.space != 6 then s
  else
    match resolve s e.t h e.f.h.toNat r.lane r.off 1 .read with
    | (_, .error _) => s
    | (_, .ok sp) =>
      match sp.place with
      | .phys pa =>
        let line := pa / 64
        let s := if lk != 2 && sp.cached && (s.copyOf e.t.core line).isNone then
            s.setCopy e.t.core line (s.mem.read (line * 64) 64) else s
        s.modTeam e.t.uid fun t =>
          match lk with
          | 1 => if t.locks.contains line || 16 ≤ t.locks.length then t else { t with locks := t.locks ++ [line] }
          | 2 => { t with locks := t.locks.filter (· != line) }
          | _ => t
      | _ => s

/-- PF (R228): only a malformed handle entry traps. -/
def execPf (f : Fields) (s : State) : Host.Outcome State Fault Refusal :=
  perform (.pf f) s fun e =>
    let offs := laneOffsets e 1
    match readHandle e.s e.t f.h.toNat with
    | (s, .error _) => .go s
    | (s, .ok none) => .trapAt s (handleTrap e f.h.toNat 5)
    | (s, .ok (some h)) =>
      if handleBad s e.t h then .trapAt s (handleTrap e f.h.toNat 5)
      else .go (offs.foldl (prefetchLane e h (f.x.toNat / 16 % 4)) s)

/-- Operand and compare of an atomic in a lane (R229). -/
def atomC (e : Env) (n l : Nat) : Nat := (e.src false e.f.c l).toNat % 2 ^ (8 * n)
def atomD (e : Env) (n l : Nat) : Nat := (e.src (e.f.x.getLsbD 6) e.f.d l).toNat % 2 ^ (8 * n)

/-- Tag checks of an atomic: D of a CAS, then C (R229, R59). -/
def atomChecks (e : Env) : List Check :=
  (if e.f.x.toNat % 8 == 7 then [⟨!e.f.x.getLsbD 6, e.f.d, 1, e.f.f⟩] else []) ++ [⟨true, e.f.c, 4, e.f.f⟩]

/-- Performs one lane's atomic (R229): the old value with its lane. -/
def atomLane (e : Env) (n : Nat) (ord : Bool) (s : State) (l : Nat) (sp : Spot) : State × Nat :=
  match sp.place with
  | .peer _ _ _ => (s, 0)
  | _ =>
    if hidden e s sp then (s, 0)
    else
      let (s, bs) := readSpot s e.t.core e.t.uid e.rank sp true false
      let s := meetRels s e.t e.rank l sp ord
      let new := atomNew (e.f.x.toNat % 8) e.f.f (leNat bs) (atomC e n l) (atomD e n l)
      let s := writeSpot s e.t.core e.t.uid e.rank sp (leBytes n new)
      let own := laneReleases e.t e.rank (laneNow s e.t.uid e.rank l) ord sp.h.scope sp.h.wgroup
      (settleRels s sp .rmw own, leNat bs)

/-- The atomics of an instruction in ascending lane order. -/
def atomLanes (e : Env) (n : Nat) (ord : Bool) : List (Nat × Spot) → State → State × List (Nat × Nat)
  | [], s => (s, [])
  | (l, sp) :: rest, s =>
    let (s, v) := atomLane e n ord s l sp
    let (s, vs) := atomLanes e n ord rest s
    (s, (l, v) :: vs)

/-- The request of a window atomic to another device. -/
def peerAtom (e : Env) (n : Nat) (ord : Bool) (l : Nat) (sp : Spot) : FabRecord :=
  { baseRecord e.s e.t .atomic with
    f := e.f.f, op := e.f.x.toNat % 8, ret := true
    data := leBytes n (atomC e n l) ++ leBytes n (atomD e n l)
    origin := originOf e.s (e.laneAccessor l) true
      (laneReleases e.t e.rank (e.b.lane l) ord sp.h.scope sp.h.wgroup) }

/-- ATOM (R229, R230). -/
def execAtom (f : Fields) (s : State) : Host.Outcome State Fault Refusal :=
  perform (.atom f) s fun e =>
    let n := fmtWidth f.f / 8
    let offs := laneOffsets e n
    let ord := f.x.getLsbD 4
    let ret := f.x.getLsbD 3
    let finishWith := fun (s : State) (v : Nat → Nat) =>
      if ret then
        let s := logValues e s f.h.toNat (Mask.lanes e.act) v
        .go (e.writeReg s (f.x.getLsbD 6) f.d (fun l => word (v l)) fun _ => f.f)
      else .go s
    withHandle e [1, 2, 3, 4, 5, 6] (atomChecks e) offs n fun s h =>
      withSpots e s h n .rmw offs fun s spots =>
        let live := withPeers e s spots (peerAtom e n ord) fun s far =>
          let (s, vs) := atomLanes e n ord spots (takePeers e spots ord far s)
          finishWith s fun l =>
            if (peerSpots spots).any fun x => x.1 == l then (far l).1.toNat
            else ((vs.find? fun v => v.1 == l).map (·.2)).getD 0
        if ret && e.t.replay.isSome then
          match takeValues e e.laneMasks s [] with
          | (s, .error d) => replayStuck e s d
          | (s, .ok vs) =>
            let (s, _) := atomLanes e n ord spots (if ord then replayInterval s e.t.uid e.rank else s)
            finishWith s fun l => vs.getD ((Mask.lanes e.act).findIdx (· == l)) 0
        else live

/-- The block index of HADQ (R175). -/
def hadqBlock (e : Env) : Nat := if e.f.len == 0 then (e.b.sreg e.f.b.toNat).toNat else e.f.e.toNat

/-- HADQ (R175): inactive lanes contribute +0, and D is written in active lanes. -/
def execHadq (f : Fields) (s : State) : Host.Outcome State Fault Refusal :=
  perform (.hadq f) s fun e =>
    withHandleIf e (fun h => h.hdr != 0) none [e.checkA 10] [] 1 fun s h =>
      match readHeader s e.t h f.h.toNat with
      | (s, .error d) => .fault s { d with lanes := e.act }
      | (s, .ok hd) =>
        if hd.bad then .trapAt s { cause := 0x0E, opnd := 5, lanes := e.act, value := f.h.toNat }
        else
          let x := (List.range 64).map fun k =>
            if e.act.getLsbD (k / 2) then elemOf 32 (k % 2) (e.srcA (k / 2)) else 0
          let y := hadamard (f.x.getLsbD 0) hd.seed.toNat (hadqBlock e) x
          .go (e.writeReg s f.kindD f.d
            (fun l => fromElems 10 [y.getD (2 * l) 0, y.getD (2 * l + 1) 0]) fun _ => 10)

end Sys2Proof.Machine
end

