-- ==== Sys2Proof/Machine/Fabric.lean ====
section
/-! DEFINITION. Fabric instructions (R244-R252) and the transaction records that arrive (R372, R377):
expansion, acknowledgements, reductions at the root, batches and their close. -/

namespace Sys2Proof.Machine

/-! What an instruction requires of its pattern (R244) -/

/-- Exactly one target. -/
def patternOne (w : Word) (p : Partition) : Bool :=
  (usedAxes p.axes).all (fun a => patMode w a == 0) && !patSelf w && !patRed w
/-- Any target set. -/
def patternMany (w : Word) (_ : Partition) : Bool := !patRed w
/-- A reduction that this device contributes to. -/
def patternReduce (w : Word) (p : Partition) : Bool := patRed w && !patSelf w && inAxes w p p.coord

/-- The pattern of an instruction breaks R125 or R244. -/
def patternTrap (e : Env) (p : Partition) (pat : Word) (ok : Word → Partition → Bool) (opnd : Nat) : Option Trap :=
  if patternOk pat p && ok pat p then none
  else some { cause := 4, opnd, lanes := e.act, value := pat.toNat }

/-- The turn rule of a remote store or atomic (R45, R244), whatever its target handle. -/
def remoteTurn (e : Env) (offs : List LaneReq) (h : Handle) (n : Nat) (write : Bool) : Option Draft :=
  if write && e.t.replay.isNone && e.s.isDet e.t && !holdsTurn e.s e.t e.rank then
    let a := h.base + ((offs.headD ⟨0, 0⟩).off).toNat
    some { cause := 3, detail := 3, addr := a, info := ((granules a n).headD (0, 0)).2.toNat
           handle := e.f.h.toNat, lanes := e.act }
  else none

/-- What the fabric instructions share (R117, R124, R125, R225, R244): the handle, the pattern, tags,
alignment, bounds and the turn rule, in the order of R146. -/
def withRemote (e : Env) (patReg : BitVec 7) (opnd : Nat) (ok : Word → Partition → Bool)
    (checks : List Check) (imm : Int) (n : Nat) (write : Bool)
    (k : State → Handle → Partition → Word → List LaneReq → Act) : Act :=
  match e.s.part? e.t.part with
  | none => .go e.s
  | some p =>
    let pat := e.b.sreg patReg.toNat
    let offs := (Mask.lanes e.act).map fun l => ⟨l, e.offset imm n l⟩
    let later := fun (s : State) (go : Act) =>
      match patternTrap e p pat ok opnd with
      | some x => .trapAt s x
      | none =>
        match tagTrap e checks with
        | some x => .trapAt s x
        | none =>
          match misalignTrap offs n with
          | some x => .trapAt s x
          | none => go
    match readHandle e.s e.t e.f.h.toNat with
    | (s, .error d) => later s (.fault s { d with lanes := e.act })
    | (s, .ok none) => .trapAt s (handleTrap e e.f.h.toNat 5)
    | (s, .ok (some h)) =>
      if handleBad s e.t h || h.space != 7 then .trapAt s (handleTrap e e.f.h.toNat 5)
      else
        later s
          (match laneFault (offs.map fun r => (r.lane, replaySpot h e.f.h.toNat r.off n)) with
           | some d => .fault s d
           | none =>
             match remoteTurn e offs h n write with
             | some d => .fault s d
             | none => k s h p pat offs)

/-! Records at their target -/

/-- The accessor that a record names, at its target. -/
def recAccessor (s : State) (part : Nat) (r : FabRecord) : Accessor := remoteAccessor s part r.src r.origin

/-- A piece of a reduce-receive's chunk at the device that owns the bytes (R303): OP 11 and above name the operation. -/
def reduceAt (s : State) (part : Nat) (x : Accessor) (r : FabRecord) : State × Answer :=
  match targetSpot s part r r.offset r.data.length .write with
  | (s, .error c) => (s, .bad c)
  | (s, .ok (t, sp)) =>
    match checkTarget s t x .reduce sp with
    | (s, .error c) => (s, .bad c)
    | (s, .ok ()) =>
      let (s, old) := readSpot s Config.cores 0 0 sp true false
      (settleRels (writeSpot s Config.cores 0 0 sp (reduceBytes (r.op - 11) r.f old.length old r.data)) sp .reduce []
        , .good [] [])

/-- The checks of some synchronising accesses of a record at its target, before any is performed. -/
def checkTargets (t : Team) (x : Accessor) : List Spot → State → State × Except Nat Unit
  | [], s => (s, .ok ())
  | sp :: sps, s =>
    match checkTarget s t x .rmw sp with
    | (s, .error c) => (s, .error c)
    | (s', .ok ()) =>
      match checkTargets t x sps s' with
      | (s'', .error c) => ({ s'' with shadow := s.shadow }, .error c)
      | r => r

/-- A credit of another device's engine at its phase object, and the status word of a stale command's final one
(R236, R237). -/
def creditAt (s : State) (part : Nat) (x : Accessor) (r : FabRecord) : State × Answer :=
  match targetSpot s part r r.offset 16 .write with
  | (s, .error c) => (s, .bad c)
  | (s, .ok (t, sp)) =>
    let arg := fun (k : Nat) => leNat ((r.data.drop (8 * k)).take 8)
    match checkTargets t x (sp :: if arg 2 == 1 then [statusSpot sp] else []) s with
    | (s, .error c) => (s, .bad c)
    | (s, .ok ()) =>
      let s := if arg 2 == 1 then markStale s sp else s
      (match arrivePhase s sp (arg 0) 0 (Int.ofNat (arg 1)) (landedRels s part r) with
       | .error _ => breakPhase s sp
       | .ok s => s, .good (leBytes 8 0) [])

/-- The phase object of another device's command is abandoned (R203, R238). -/
def breakAt (s : State) (part : Nat) (r : FabRecord) : State × Answer :=
  match targetSpot s part r r.offset 16 .write with
  | (s, .error c) => (s, .bad c)
  | (s, .ok (_, sp)) => (breakPhase s sp, .good (leBytes 8 0) [])

/-- What a request would meet at its target, without its effect (R225): the place is named, and the checks made. -/
def probeAt (s : State) (part : Nat) (x : Accessor) (r : FabRecord) : State × Answer :=
  match targetSpot s part r r.offset r.count .write with
  | (s, .error c) => (s, .bad c)
  | (s, .ok (t, sp)) =>
    match checkTarget s t x (if r.data.isEmpty then .rmw else if r.origin.sync then .syncWrite else .store) sp with
    | (s, .error c) => (s, .bad c)
    | (_, .ok ()) => (s, .good [] [])

/-- The bytes of a value of some width, one after the other. -/
def valuesOf (n : Nat) : Nat → List Byte → List Nat
  | 0, _ => []
  | fuel + 1, bs => if bs.isEmpty then [] else leNat (bs.take n) :: valuesOf n fuel (bs.drop n)

/-- The value of a reduction (R250). -/
def foldReduction (op : Nat) (f : Tag) (m : Nat) (vs : List Nat) : Nat :=
  if isInt f then vs.foldl (fun m v => atomNew op f m v 0) m
  else roundTo f (vs.foldl (fun a v => a.add (elemValue f v) false) (elemValue f m)) Rnd.ne 0

/-- A reduction whose root is another device is applied where the bytes of its window part lie (R250): OP 20 and above
name the operation, and the data hold every contribution. -/
def foldAt (s : State) (part : Nat) (x : Accessor) (r : FabRecord) : State × Answer :=
  let n := fmtWidth r.f / 8
  match targetSpot s part r r.offset n .write with
  | (s, .error c) => (s, .bad c)
  | (s, .ok (t, sp)) =>
    match checkTarget s t x .rmw sp with
    | (s, .error c) => (s, .bad c)
    | (s, .ok ()) =>
      let (s, bs) := readSpot s Config.cores 0 0 sp true false
      let v := foldReduction (r.op - 20) r.f (leNat bs) (valuesOf n r.data.length r.data)
      (settleRels (writeSpot s Config.cores 0 0 sp (leBytes n v)) sp .rmw (landedRels s part r), .good [] [])

/-- The value recorded for a request with return that has been performed (R377). -/
def recorded (s : State) (r : FabRecord) : Option Answer :=
  if !r.ret then none
  else (s.atomLog.find? fun x => x.1 == r.src && x.2.1 == r.tag).map fun x => .good (leBytes 8 x.2.2.1.toNat) x.2.2.2

/-- Records what a request with return has answered. -/
def record (s : State) (r : FabRecord) (a : Answer) : State :=
  if r.ret && a.poison == 0 && a.errs == 0 then
    { s with atomLog := s.atomLog ++ [(r.src, r.tag, word (leNat a.bytes), a.rels)] }
  else s

/-- A request with return, by its operation: an atomic, or what one device asks of another in a window (R119, R201, R203,
R236, R250, R303). -/
def atomicWith (s : State) (part : Nat) (x : Accessor) (r : FabRecord) : State × Answer :=
  match r.op with
  | 8 => phaseArriveAt s part x r
  | 9 => creditAt s part x r
  | 10 => breakAt s part r
  | 14 => probeAt s part x r
  | k => if 20 ≤ k then foldAt s part x r else if 11 ≤ k then reduceAt s part x r else atomicAt s part x r

/-- Bytes that a record addresses at its target. -/
def recBytes (r : FabRecord) : Nat :=
  match r.kind with
  | .load => r.count
  | .store => r.data.length
  | _ => fmtWidth r.f / 8

/-- Both records are accesses of one lane. -/
def sameLane (a b : FabRecord) : Bool := a.src == b.src && a.origin.party % 2 ^ 63 == b.origin.party % 2 ^ 63

/-- Two accesses reach common bytes of this device. -/
def sameBytes (s : State) (part : Nat) (a b : FabRecord) : Bool :=
  let at_ := fun (r : FabRecord) =>
    match (targetSpot s part r r.offset (recBytes r) .read).2 with
    | .ok (_, sp) => sp.place.loc
    | .error _ => none
  match at_ a, at_ b with
  | some x, some y => x.1 == y.1 && x.2.1 == y.2.1 && x.2.2 < y.2.2 + recBytes b && y.2.2 < x.2.2 + recBytes a
  | _, _ => false

/-- Accesses of a partition that its device has received and not performed, the contributions to open reductions
first. -/
def unperformed (s : State) (part : Nat) : List FabRecord :=
  (s.reds.filter (·.part == part)).flatMap (fun x => x.data.map fun c => { x.record with src := c.src, origin := c.origin })
    ++ ((s.deferred.filter fun w => w.part == part && w.tag.isNone).map (·.record))

/-- An earlier access of the lane to some of these bytes has not been performed (R248). -/
def behind (s : State) (part : Nat) (r : FabRecord) : Bool :=
  r.peerH != windowPeer && (unperformed s part).any fun q => sameLane q r && sameBytes s part q r

/-- The origin of an access that this device passes on. -/
def passOrigin (src me : Nat) (o : Origin) : Origin :=
  { o with
    party := carry src me o.party, self := carry src me o.self, vc := carryClocks src me o.vc, uid := carry src me o.uid
    launch := if src == me then o.launch else none, keys := o.keys.map (carry src me)
    rels := o.rels.map (carryRelease src me) }

/-- The request that performs an access at the device that owns the bytes of a window part (R119, R124). -/
def ownerRequest (s : State) (part : Nat) (r : FabRecord) : Option (Nat × FabRecord) :=
  if r.peerH == windowPeer then none
  else
    match (targetPlace s part r r.offset (recBytes r) .read).2 with
    | .ok (l, sp) =>
      match sp.place, l.groups.find? fun g => g.index == sp.group with
      | .peer dst _ a, some g =>
        some (dst, { r with
          peerH := windowPeer, offset := Int.ofNat a, gang := g.gang, peers := g.peers, gangs := [], ret := true
          count := recBytes r, check := sourceCheck r.data (Int.ofNat a), src := hereOf s part
          origin := passOrigin r.src (hereOf s part) r.origin })
      | _, _ => none
    | .error _ => none

/-- An access that cannot be performed yet; one of a batch counts there as open. -/
def deferred (s : State) (part : Nat) (r : FabRecord) : State × Deferred :=
  let (s, gen) := if r.ret || r.kind == .load then (s, 0)
    else noteRcv s part r.src (tagKey r.tag) 0 0 1
  (s, { part, record := r, gen, tag := none })

/-- Keeps an access until it can be performed here. -/
def keep (x : State × Deferred) : State := { x.1 with deferred := x.1.deferred ++ [x.2] }

/-- Keeps an access until the device that owns the bytes has performed it. -/
def sendOn (x : State × Deferred) (dst : Nat) (q : FabRecord) : State :=
  let (s, tag) := newTag x.1 0 0
  let q := { q with tag }
  postRecord { s with
    deferred := s.deferred ++ [{ x.2 with tag := some tag }]
    txs := s.txs ++ [{ tag, uid := 0, rank := 0, lane := 0, need := 1, got := 0, record := q, dst }] } x.2.part dst q

/-- Performs an access at this device; a request with return that is sent again takes the value recorded (R377). -/
def performAt (s : State) (part : Nat) (r : FabRecord) : State × Answer :=
  match recorded s r with
  | some a => (s, a)
  | none =>
    let x := recAccessor s part r
    let (s, a) := match r.kind with
      | .load => loadAt s part x r r.count
      | .store => storeAt s part x r
      | _ => if r.ret then atomicWith s part x r else atomicAt s part x r
    (record s r a, a)

/-- An access that is due at its target: it is passed on to the owner of the bytes, or performed. -/
def performOr (s : State) (p : Partition) (r : FabRecord) : State × Option Answer :=
  match recorded s r, ownerRequest s p.num r with
  | some a, _ => (s, some a)
  | none, none =>
    let (s, a) := performAt s p.num r
    (s, some a)
  | none, some (dst, q) =>
    if r.kind != .load && r.check != sourceCheck r.data r.offset then (bumpCheck s p.num, some .unchecked)
    else (sendOn (deferred s p.num r) dst q, none)

/-- The access of a work entry reaches the scratchpad of a team that is saved (R253). -/
def ownerAway (s : State) (part : Nat) (r : FabRecord) : Bool :=
  r.origin.engine && 64 ≤ r.origin.trk &&
    match (targetSpot s part r r.offset (recBytes r) .read).2 with
    | .ok (_, sp) => (match sp.place with
      | .scratch uid _ => (s.team? uid).any (·.away)
      | _ => false)
    | .error _ => false

/-- A remote access reaches its target (R248): it is performed, or kept behind an earlier one of its lane or until a
saved team is restored (R253). One that is sent again while it is kept stays as it is. -/
def arrive (s : State) (p : Partition) (r : FabRecord) : State × Option Answer :=
  if (r.ret || r.kind == .load) && s.deferred.any (fun w => w.part == p.num && w.record.src == r.src && w.record.tag == r.tag)
  then (s, none)
  else if behind s p.num r || ownerAway s p.num r then (keep (deferred s p.num r), none)
  else performOr s p r

/-- The record of one lane's access (R372). -/
def laneRecord (e : Env) (kind : RecKind) (h : Handle) (pat : Word) (off : Int) (o : Origin) : FabRecord :=
  { baseRecord e.s e.t kind with
    pattern := pat, offset := off, peerH := h.peerH, f := e.f.f, bt := e.f.x.toNat / 16 % 4, origin := o }

/-- Sends the requests of an instruction and takes their values by lane, from the log in replay
(R247, R249, R389, R390). -/
def withReplies (e : Env) (s : State) (h : Handle) (pat : Word) (p : Partition) (offs : List LaneReq)
    (mk : LaneReq → FabRecord) (here : Nat → State → FabRecord → State × Option Answer)
    (k : State → (Nat → Word) → Act) : Act :=
  let lanes := Mask.lanes e.act
  if e.t.replay.isSome then
    match takeValues e e.laneMasks s [] with
    | (s, .error d) => replayStuck e s d
    | (s, .ok vs) => k s fun l => word (vs.getD (lanes.findIdx (· == l)) 0)
  else
    let dst := (targets pat p p.coord).headD p.coord
    match exchange e s (offs.map fun r => (r.lane, dst, mk r)) here with
    | (s, none) => .wait s e.act .plain
    | (s, some vs) =>
      match vs.filter fun v => v.2.2.1 != 0 with
      | [] =>
        let val := fun (l : Nat) => ((vs.find? fun v => v.1 == l).map (·.2.1)).getD 0
        let s := vs.foldl (fun s v => takeRels s e.t e.rank v.1 v.2.2.2 false 4 0) s
        k (logValues e s e.f.h.toNat lanes fun l => (val l).toNat) val
      | v :: bad =>
        let at_ := fun (l : Nat) =>
          wrapInt 64 (Int.ofNat h.base + ((offs.find? fun r => r.lane == l).map (·.off)).getD 0)
        .fault s (poisonDraft v.2.2.1 dst e.f.h.toNat 0
          (maskOf (((v :: bad).filter fun b => b.2.2.1 == v.2.2.1 && at_ b.1 / 4096 == at_ v.1 / 4096).map (·.1)))
          (at_ v.1))

/-- LDX (R247). -/
def execLdx (f : Fields) (s : State) : Host.Outcome State Fault Refusal :=
  perform (.ldx f) s fun e =>
    let n := memSize f
    withRemote e f.c 4 patternOne [] (memImm f) n false fun s h p pat offs =>
      withReplies e s h pat p offs
        (fun r => { laneRecord e .load h pat r.off (originOf s (e.laneAccessor r.lane) false []) with count := n, bt := 0 })
        (fun _ s r => arrive s p r)
        fun s v => .go (e.writeReg s false f.d
          (fun l => extendBytes (f.x.getLsbD 2) n (leBytes n (v l).toNat)) fun _ => f.f)

/-- Sends every lane's access to every target in lane order (R225, R248); a replayed team sends
nothing (R390). -/
def sendLanes (e : Env) (s : State) (p : Partition) (pat : Word) (offs : List LaneReq)
    (mk : LaneReq → FabRecord) (here : LaneReq → State → FabRecord → State × Option Answer) : Act :=
  if e.t.replay.isSome then .go s
  else .go (offs.foldl (fun s r => sendAll s e.t e.rank r.lane p pat (mk r) (here r)) s)

/-- The low n bytes of D in a lane. -/
def dataBytes (e : Env) (n l : Nat) : List Byte := leBytes n (e.src (e.f.x.getLsbD 6) e.f.d l).toNat

/-- STX (R248, R252). -/
def execStx (f : Fields) (s : State) : Host.Outcome State Fault Refusal :=
  perform (.stx f) s fun e =>
    let n := memSize f
    withRemote e f.c 4 patternMany [] (memImm f) n true fun s h p pat offs =>
      sendLanes e s p pat offs
        (fun r => { laneRecord e .store h pat r.off (originOf s (e.farAccessor r.lane) false []) with
            data := dataBytes e n r.lane, check := sourceCheck (dataBytes e n r.lane) r.off })
        fun _ s q => arrive s p q

/-- The immediate of ATX: E, and zero in the 64-bit form (R223, R249). -/
def atxImm (f : Fields) : Int := if f.len == 0 then 0 else signed 32 f.e.toNat

/-- What a lane's atomic releases: its earlier release fences (R281). -/
def atxReleases (e : Env) (l : Nat) : List Release := laneReleases e.t e.rank (e.b.lane l) false 4 0

/-- ATX (R249). -/
def execAtx (f : Fields) (s : State) : Host.Outcome State Fault Refusal :=
  perform (.atx f) s fun e =>
    let n := fmtWidth f.f / 8
    let ret := f.x.getLsbD 3
    withRemote e f.b 3 (if ret then patternOne else patternMany) (atomChecks e) (atxImm f) n true
      fun s h p pat offs =>
        let mk := fun (r : LaneReq) =>
          let data := leBytes n (atomC e n r.lane) ++ leBytes n (atomD e n r.lane)
          let x := if ret then e.laneAccessor r.lane else e.farAccessor r.lane
          { laneRecord e .atomic h pat r.off (originOf s x true (atxReleases e r.lane)) with
            op := f.x.toNat % 8, ret, data, check := sourceCheck data r.off }
        if ret then
          withReplies e s h pat p offs mk (fun _ s q => arrive s p q) fun s v =>
            .go (e.writeReg s (f.x.getLsbD 6) f.d (fun l => word ((v l).toNat % 2 ^ (8 * n))) fun _ => f.f)
        else sendLanes e s p pat offs mk fun _ s q => arrive s p q

/-! The root of a reduction (R250) -/

/-- A record back to its origin, under the origin's job (R372). -/
def answerTo (p : Partition) (r : FabRecord) (kind : RecKind) (data : List Byte)
    (poison count : Nat) (errs : BitVec 7) : FabRecord :=
  { r with kind, data, poison, count, errs, check := sourceCheck data r.offset, src := p.coord, ret := false, j := 0 }

/-- A close reply reaches the team that waits for it (R251). -/
def takeCloseReply (s : State) (r : FabRecord) : State :=
  { s with teams := s.teams.map fun t =>
      { t with batches := t.batches.map fun b =>
          match b.closing with
          | none => b
          | some c =>
            if c.tag == r.tag && !(b.replies.any fun x => x.src == r.src) then
              { b with replies := b.replies ++ [{ src := r.src, count := r.count, errs := r.errs }] }
            else b } }

/-- Hands a close reply to its origin. -/
def sendCloseReply (s : State) (p : Partition) (r : FabRecord) (count : Nat) (errs : BitVec 7) : State :=
  let q := answerTo p r .closeReply [] 0 count errs
  if r.src == p.coord then takeCloseReply s q else postRecord s p.num r.src q

/-- Answers the close requests whose accesses have all been performed (R251). -/
def settleCloses (s : State) (p : Partition) : State :=
  let due := fun (b : RcvBatch) => b.part == p.num && b.open_ == 0 && b.close.isSome
  (s.rcv.filter due).foldl (fun s b =>
    match b.close with
    | some r => sendCloseReply s p r b.count b.errs
    | none => s) { s with rcv := s.rcv.filter (fun b => !due b) }

/-- A close request reaches this device (R251). -/
def closeAt (s : State) (p : Partition) (r : FabRecord) : State :=
  let mine := fun (b : RcvBatch) =>
    b.part == p.num && b.src == r.src && b.key == tagKey r.tag && b.close.isNone
  if s.rcv.any mine then
    let kept := s.rcv.map fun b => if mine b then { b with close := some r } else b
    settleCloses { s with rcv := kept } p
  else sendCloseReply s p r 0 0

/-- The acknowledgement of an access reaches its origin: the access is complete when its deliveries
sum to its derived count (R246). -/
def takeAck (s : State) (tag count : Nat) : State :=
  let all := s.txs.map fun x => if x.tag == tag then { x with got := x.got + count } else x
  { s with txs := all.filter (fun x => !(x.tag == tag && x.need ≤ x.got)) }

/-- Acknowledges a contribution to its contributor. -/
def ackTo (s : State) (p : Partition) (dst tag count : Nat) (r : FabRecord) : State :=
  if dst == p.coord then takeAck s tag count
  else postRecord s p.num dst { answerTo p r .ack [] 0 count 0 with tag, src := dst }

/-- A contribution has been applied, or failed with these error bits. -/
def closeContribution (p : Partition) (r : FabRecord) (k : Nat) (errs : BitVec 7) (s : State)
    (c : Contribution) : State :=
  let s := { s with rcv := s.rcv.map fun b =>
      if b.part == p.num && b.src == c.src && b.key == c.key && b.gen == c.gen then
        { b with count := b.count + k, errs := b.errs ||| errs, open_ := b.open_ - 1 } else b }
  ackTo s p c.src c.tag k r

/-- Checks the contributions of a reduction, each as its own party's access (R295). -/
def checkContributions (s : State) (p : Partition) (t : Team) (sp : Spot) : List Contribution → State × Except Nat Unit
  | [] => (s, .ok ())
  | c :: cs =>
    match checkTarget s t (remoteAccessor s p.num c.src c.origin) .rmw sp with
    | (s, .error k) => (s, .error k)
    | (s, .ok ()) => checkContributions s p t sp cs

/-- Applies a complete reduction to the target memory in one step: the error bits (R250). -/
def applyReduction (s : State) (p : Partition) (x : Reduction) : State × BitVec 7 :=
  let r := x.record
  let n := fmtWidth r.f / 8
  match targetSpot s p.num r r.offset n .write with
  | (s, .error c) => (s, poisonErrs c)
  | (s, .ok (t, sp)) =>
    match checkContributions s p t sp x.data with
    | (s', .error c) => ({ s' with shadow := s.shadow }, poisonErrs c)
    | (s, .ok ()) =>
      let (s, bs) := readSpot s Config.cores 0 0 sp true false
      let v := foldReduction r.op r.f (leNat bs) (x.data.map (·.value))
      let rels := x.data.flatMap fun c => landedRels s p.num { r with src := c.src, origin := c.origin }
      (settleRels (writeSpot s Config.cores 0 0 sp (leBytes n v)) sp .rmw rels, 0)

/-- A contribution belongs to an open reduction that is not complete (R250). -/
def sameReduction (part launch : Nat) (r : FabRecord) (x : Reduction) : Bool :=
  x.tag.isNone && x.part == part && x.launch == launch && x.record.peerH == r.peerH && x.record.offset == r.offset
    && x.record.op == r.op && x.record.f == r.f && x.record.bt == r.bt

/-- The request that applies a complete reduction at the device that owns the bytes of its window part (R119, R124). -/
def reductionRequest (s : State) (p : Partition) (x : Reduction) : Option (Nat × FabRecord) :=
  let n := fmtWidth x.record.f / 8
  (ownerRequest s p.num { x.record with kind := .atomic }).map fun q =>
    let data := x.data.flatMap fun c => leBytes n c.value
    (q.1, { q.2 with
      op := 20 + x.record.op, data, check := sourceCheck data q.2.offset
      origin := { q.2.origin with rels := x.data.flatMap fun c => c.origin.rels.map (carryRelease c.src p.coord) } })

/-- A complete reduction has been applied, or failed with these error bits. -/
def endReduction (s : State) (p : Partition) (x : Reduction) (errs : BitVec 7) : State :=
  settleCloses (x.data.foldl (closeContribution p x.record (derivedCount x.record.pattern p p.coord) errs) s) p

/-- A contribution that is refused: it counts in its batch with these error bits, and in `noted` where it was noted
while it waited. -/
def refuseContribution (s : State) (p : Partition) (r : FabRecord) (noted : Option Nat) (errs : BitVec 7) : State :=
  let k := derivedCount r.pattern p p.coord
  match noted with
  | none => ackTo (noteRcv s p.num r.src (tagKey r.tag) k errs 0).1 p r.src r.tag k r
  | some gen =>
    settleCloses (closeContribution p r k errs s
      { src := r.src, origin := r.origin, key := tagKey r.tag, gen, tag := r.tag, value := 0 }) p

/-- One contribution at the root: whether it still waits for an open reduction to close, since 256 are open or since
an earlier access of its lane to the same bytes is not performed (R248, R250). `noted` is the batch it was noted in while
it waited (R251). -/
def contributeOnce (s : State) (p : Partition) (r : FabRecord) (noted : Option Nat) : State × Bool :=
  if behind s p.num r then (s, true)
  else if r.check != sourceCheck r.data r.offset then (refuseContribution (bumpCheck s p.num) p r noted 1, false)
  else
    match targetLaunch s p r with
    | none => (refuseContribution s p r noted (poisonErrs 6), false)
    | some l =>
      let old := s.reds.find? (sameReduction p.num l.num r)
      if old.isNone && 256 ≤ (s.reds.filter fun x => x.part == p.num && x.launch == l.num).length then (s, true)
      else
        let (s, gen) := match noted with
          | some gen => (s, gen)
          | none => noteRcv s p.num r.src (tagKey r.tag) 0 0 1
        let c := { src := r.src, origin := r.origin, key := tagKey r.tag, gen, tag := r.tag, value := leNat r.data : Contribution }
        let x := match old with
          | some x => { x with data := x.data ++ [c] }
          | none => { part := p.num, launch := l.num, record := r, expected := derivedCount r.pattern p p.coord, data := [c] }
        let rest := s.reds.filter fun y => !sameReduction p.num l.num r y
        if x.data.length < x.expected then ({ s with reds := rest ++ [x] }, false)
        else
          match reductionRequest s p x with
          | some (dst, q) =>
            let (s, tag) := newTag s 0 0
            let q := { q with tag }
            (postRecord { s with
              reds := rest ++ [{ x with tag := some tag }]
              txs := s.txs ++ [{ tag, uid := 0, rank := 0, lane := 0, need := 1, got := 0, record := q, dst }] } p.num dst q
              , false)
          | none =>
            let (s, errs) := applyReduction { s with reds := rest } p x
            (endReduction s p x errs, false)

/-- A reply reaches the lane, or the engine element, that waits for it. -/
def deliver (s : State) (p : Partition) (uid : Nat) (r : FabRecord) : State :=
  s.modTeam uid fun t =>
    { t with
      pendE := t.pendE.map fun q => if q.tag == r.tag then { q with reply := some (r.data, r.poison) } else q
      braids := t.braids.map fun b => { b with pendX := b.pendX.map fun q =>
          if q.tag == r.tag then
            { q with reply := some (word (leNat (r.data.take 8)), r.poison), rels := landedRels s p.num r }
          else q } }

/-- The record that answers a request with its outcome; a write whose source check failed is asked for again (R252,
R377). -/
def replyRecord (p : Partition) (r : FabRecord) (a : Answer) : FabRecord :=
  let q := answerTo p r (if r.kind == .load then .loadReply else .atomicReply) a.bytes (if a.errs == 1 then 8 else a.poison) 0 0
  { q with origin := { q.origin with rels := a.rels } }

/-- Deliveries of an access are acknowledged to the unit that gathers them here (R246), and passed on when its sum is
complete. -/
def sumAck (s : State) (p : Partition) (r : FabRecord) (n : Nat) : State :=
  if r.src == p.coord then takeAck s r.tag n
  else
    let hit := fun (x : AckSum) => x.src == r.src && x.tag == r.tag
    match s.ackSums.find? hit with
    | none => s
    | some x =>
      if x.got + n < x.need then
        { s with ackSums := s.ackSums.map fun y => if hit y then { y with got := y.got + n } else y }
      else
        postRecord { s with ackSums := s.ackSums.filter fun y => !hit y } p.num x.back
          { answerTo p r .ack [] 0 x.need 0 with src := r.src }

/-- A deferred access has been performed: a request is answered, and an access of a batch is counted and
acknowledged. -/
def finishDeferred (s : State) (p : Partition) (w : Deferred) (a : Answer) : State :=
  let r := w.record
  if r.ret || r.kind == .load then
    let s := if (recorded s r).isSome then s else record s r a
    let q := replyRecord p r a
    if r.src == p.coord then
      match s.txs.find? fun x => x.tag == r.tag with
      | some x => deliver { s with txs := s.txs.filter fun y => y.tag != r.tag } p x.uid q
      | none => s
    else postRecord s p.num r.src q
  else
    let mine := fun (b : RcvBatch) => b.part == p.num && b.src == r.src && b.key == tagKey r.tag && b.gen == w.gen
    let s := { s with rcv := s.rcv.map fun b => if mine b then
      { b with count := b.count + 1, errs := b.errs ||| a.errs, open_ := b.open_ - 1 } else b }
    settleCloses (sumAck s p r 1) p

/-- Takes up one access that waited; it stays where it cannot go on. -/
def takeUp (p : Partition) (s : State) (w : Deferred) : State :=
  let stay := fun (s : State) => keep (s, w)
  if w.part != p.num || w.tag.isSome then stay s
  else if w.record.kind == .reduce then
    match contributeOnce s p w.record (some w.gen) with
    | (s, true) => stay s
    | (s, false) => s
  else if behind s p.num w.record || ownerAway s p.num w.record then stay s
  else
    match ownerRequest s p.num w.record with
    | none =>
      let (s, a) := performAt s p.num w.record
      finishDeferred s p w a
    | some (dst, q) => sendOn (s, w) dst q

/-- Takes up the accesses that wait, oldest first, as far as they go. -/
def takeUpAll (p : Partition) : Nat → State → State
  | 0, s => s
  | fuel + 1, s =>
    let waiting := s.deferred.length
    let s := s.deferred.foldl (takeUp p) { s with deferred := [] }
    if s.deferred.length < waiting then takeUpAll p fuel s else s

/-- A contribution reaches the root (R250): a reduction that it completes makes room for those that
waited. -/
def contribute (s : State) (p : Partition) (r : FabRecord) : State :=
  match contributeOnce s p r none with
  | (s, true) => keep (deferred s p.num r)
  | (s, false) => if s.deferred.isEmpty then s else takeUpAll p (s.deferred.length + 1) s

/-- RSTX (R250): one contribution per active lane goes to the root. -/
def execRstx (f : Fields) (s : State) : Host.Outcome State Fault Refusal :=
  perform (.rstx f) s fun e =>
    let n := fmtWidth f.f / 8
    withRemote e f.c 4 patternReduce [] (memImm f) n true fun s h p pat offs =>
      if e.t.replay.isSome then .go s
      else
        let root := rootOf pat p
        let k := derivedCount pat p p.coord
        .go (offs.foldl (fun s r =>
          let (s, tag) := newTag s e.t.uid (f.x.toNat / 16 % 4)
          let q := { laneRecord e .reduce h pat r.off (originOf s (e.farAccessor r.lane) true (atxReleases e r.lane)) with
              op := f.x.toNat % 8, data := dataBytes e n r.lane, tag
              check := sourceCheck (dataBytes e n r.lane) r.off }
          let s := addBatch s e.t.uid q.bt k [root] (mkRelease e.t e.rank (e.farAccessor r.lane).vc 4 0)
          let s := { s with txs := s.txs ++ [{ tag, uid := e.t.uid, rank := e.rank, lane := r.lane, need := k
                                               got := 0, record := q, dst := root }] }
          if root == p.coord then contribute s p q else postRecord s p.num root q) s)

/-! Batch close (R251) -/

/-- The summary of a close whose wait has ended. -/
def closeSummary (b : Batch) (c : Closing) : Nat :=
  let errs := (b.replies.foldl (fun (m : BitVec 7) x => m ||| x.errs) 0).toNat
  let all := c.peers.all fun p => b.replies.any fun x => x.src == p
  let first := ((c.peers.filter fun p => b.replies.any fun x => x.src == p && x.errs != 0).foldl
    (fun (m : Option Nat) p => some (match m with | none => p | some q => min q p)) none).getD 0
  let got := b.replies.foldl (fun n x => n + x.count) 0
  let parts := [bitsOf errs 3 0, bit (got < c.count) * 2 ^ 4, bit (!all) * 2 ^ 5, bitsOf errs 6 6 * 2 ^ 6]
  parts.foldl (· ||| ·) 0 ||| bit all * 2 ^ 8 ||| first * 2 ^ 16

/-- The wait of a close is over. -/
def Batch.closeOver (b : Batch) (c : Closing) : Bool :=
  b.timeout || c.peers.all fun p => b.replies.any fun x => x.src == p

/-- Completes or goes on waiting for a close that the braid has issued. -/
def endClose (e : Env) (s : State) (bt : Nat) : Act :=
  match (s.team? e.t.uid).bind fun t => t.batches[bt]? with
  | none => .go s
  | some b =>
    match b.closing with
    | none => .go s
    | some c =>
      if !b.closeOver c then .wait s e.act .plain
      else
        let v := closeSummary b c
        let rels := (c.rels.filter fun r => r.1.any fun d => b.replies.any fun x => x.src == d).map (·.2)
        let s := s.modTeam e.t.uid fun t => { t with batches := t.batches.modify bt fun b =>
            { b with closing := none, replies := [], timeout := false } }
        let s := s.modBraid e.t.uid e.rank fun b => b.setS e.f.d.toNat (word v)
        .go (logValue e (s.acquire e.t e.rank e.act rels 4 0) 0 v)

/-- Sends the close requests of a batch (R245, R251). -/
def beginClose (e : Env) (p : Partition) (pat : Word) (bt : Nat) : State :=
  let (s, tag) := newTag e.s e.t.uid bt
  let s := s.modTeam e.t.uid fun t => { t with batches := t.batches.modify bt fun b =>
      { count := 0, rels := [], replies := [], timeout := false
        closing := some { rank := e.rank, pc := e.pc, tag, peers := targets pat p p.coord
                          since := s.clock, count := b.count, rels := b.rels } } }
  let r := { baseRecord e.s e.t .close with tag, pattern := pat, bt }
  let (copies, mine) := expand pat p p.coord p.coord 0
  let s := copies.foldl (fun s c => postRecord s p.num c.1 { r with j := c.2 }) s
  if mine then closeAt s p r else s

/-- BCLOSE (R251); with an empty target set it has no effect (R125). -/
def execBclose (f : Fields) (s : State) : Host.Outcome State Fault Refusal :=
  perform (.bclose f) s fun e =>
    match e.s.part? e.t.part with
    | none => .go e.s
    | some p =>
      let bt := f.x.toNat / 16 % 4
      let pat := e.b.sreg f.c.toNat
      match patternTrap e p pat patternMany 4 with
      | some x => .trap x
      | none => if (targets pat p p.coord).isEmpty then .go e.s else
        withReplay e [e.act]
          (fun s vs => .go (s.modBraid e.t.uid e.rank fun b => b.setS f.d.toNat (word (vs.headD 0)))) <|
          match (e.t.batches[bt]?).bind (·.closing) with
          | none => endClose e (e.begun (beginClose e p pat bt)) bt
          | some c => if c.rank == e.rank && c.pc == e.pc then endClose e e.s bt else .wait e.s e.act .plain

/-- The close timeout that system software sets expires (R251). -/
def execCloseTimeout (uid bt : Nat) (s : State) : Host.Outcome State Fault Refusal :=
  .next (s.modTeam uid fun t => { t with batches := t.batches.modify bt fun b =>
    match b.closing with
    | none => b
    | some c => if c.since + s.teamReg t 0x0040 0 * 1750 ≤ s.clock then { b with timeout := true } else b })

/-! Records that arrive -/

/-- A record of this node's job, of a kind that is not reserved, reaches its meaning; another is discarded (R372). -/
def ofJob (s : State) (part : Nat) (r : FabRecord) (other : Partition → State) (k : Partition → State) :
    Host.Outcome State Fault Refusal :=
  .next (match s.part? part with
    | none => s
    | some p => if r.job == p.reg 0x0202 0 && kindCode r.kind < 12 then k p else other p)

/-- Sends back what answers a request. -/
def reply (s : State) (p : Partition) (r : FabRecord) (a : Answer) : State := postRecord s p.num r.src (replyRecord p r a)

/-- A request for this device: performed and answered, unless it is deferred. -/
def request (s : State) (p : Partition) (r : FabRecord) : State :=
  match arrive s p r with
  | (s, some a) => reply s p r a
  | (s, none) => s

/-- A copy of an access reaches a unit (R245, R246): it is sent on, delivered here where this device is
a target, and its acknowledgements are gathered. -/
def spread (s : State) (p : Partition) (r : FabRecord) : State :=
  let me := p.coord
  let (copies, mine) := expand r.pattern p r.src me r.j
  let s := copies.foldl (fun s c => postRecord s p.num c.1 { r with j := c.2 }) s
  let (s, got) :=
    if mine then
      match arrive s p r with
      | (s, some a) => ((noteRcv s p.num r.src (tagKey r.tag) 1 a.errs 0).1, 1)
      | (s, none) => (s, 0)
    else (s, 0)
  let need := copyCount r.pattern p r.src me r.j
  let back := match (axisOrder r.pattern p.axes)[r.j - 1]? with
    | some a => setAxis me a (coordAxis r.src a)
    | none => r.src
  if need == 0 then s
  else if need == got then
    postRecord s p.num back { answerTo p r .ack [] 0 need 0 with src := r.src }
  else { s with ackSums := s.ackSums ++ [{ src := r.src, tag := r.tag, need, got, back }] }

/-- A store record (R248); a window store of a gang's team is answered (R119). -/
def execStoreRecord (part : Nat) (r : FabRecord) (s : State) : Host.Outcome State Fault Refusal :=
  ofJob s part r (fun p => if r.ret then reply s p r (.bad 6) else s) fun p =>
    if r.ret then request s p r else spread s p r

/-- A load request (R247). -/
def execLoadRecord (part : Nat) (r : FabRecord) (s : State) : Host.Outcome State Fault Refusal :=
  ofJob s part r (fun p => reply s p r (.bad 6)) fun p => request s p r

/-- An atomic record (R249). -/
def execAtomicRecord (part : Nat) (r : FabRecord) (s : State) : Host.Outcome State Fault Refusal :=
  ofJob s part r (fun p => if r.ret then reply s p r (.bad 6) else s) fun p =>
    if r.ret then request s p r else spread s p r

/-- A reply reaches what waits for it: a lane, an engine element, or an access that this device has passed on; one
whose source check fails is asked for again (R377). -/
def takeReply (s : State) (p : Partition) (r : FabRecord) : State :=
  match s.txs.find? fun x => x.tag == r.tag with
  | none => s
  | some x =>
    if r.check != sourceCheck r.data r.offset || r.poison == 8 then
      postRecord (if r.poison == 8 then s else bumpCheck s p.num) p.num x.dst x.record
    else
      let s := { s with txs := s.txs.filter fun y => y.tag != r.tag }
      match s.reds.find? (fun y => y.tag == some r.tag), s.deferred.find? fun w => w.tag == some r.tag with
      | some y, _ =>
        takeUpAll p (s.deferred.length + 1)
          (endReduction { s with reds := s.reds.filter fun z => z.tag != some r.tag } p y (poisonErrs r.poison))
      | none, none => deliver s p x.uid r
      | none, some w =>
        finishDeferred { s with deferred := s.deferred.filter fun w => w.tag != some r.tag } p w
          { poison := r.poison, errs := poisonErrs r.poison, bytes := r.data, rels := landedRels s p.num r }

/-- The data of a load come back (R247). -/
def execLoadReply (part : Nat) (r : FabRecord) (s : State) : Host.Outcome State Fault Refusal :=
  ofJob s part r (fun _ => s) fun p => takeReply s p r

/-- The old value of an atomic comes back (R249). -/
def execAtomicReply (part : Nat) (r : FabRecord) (s : State) : Host.Outcome State Fault Refusal :=
  ofJob s part r (fun _ => s) fun p => takeReply s p r

/-- A contribution reaches the root (R250). -/
def execReduceContribution (part : Nat) (r : FabRecord) (s : State) : Host.Outcome State Fault Refusal :=
  ofJob s part r (fun _ => s) fun p => contribute s p r

/-- An acknowledgement is summed, and passed on when its unit's sum is complete (R246). -/
def execAcknowledgement (part : Nat) (r : FabRecord) (s : State) : Host.Outcome State Fault Refusal :=
  ofJob s part r (fun _ => s) fun p => sumAck s p r r.count

/-- A close request reaches a peer (R251): it is sent on, and answered once the batch's accesses here
have been performed. -/
def execBatchClose (part : Nat) (r : FabRecord) (s : State) : Host.Outcome State Fault Refusal :=
  ofJob s part r (fun p => sendCloseReply s p r 0 (poisonErrs 6)) fun p =>
    let (copies, mine) := expand r.pattern p r.src p.coord r.j
    let s := copies.foldl (fun s c => postRecord s p.num c.1 { r with j := c.2 }) s
    if mine then closeAt s p r else s

/-- A peer's close reply reaches the closing team (R251). -/
def execCloseReply (part : Nat) (r : FabRecord) (s : State) : Host.Outcome State Fault Refusal :=
  ofJob s part r (fun _ => s) fun _ => takeCloseReply s r

end Sys2Proof.Machine
end

