-- ==== Sys2Proof/Machine/Transc.lean ====
section
/-! DEFINITION. Roots and the functions 2^a, log2 a, sin(pi a) and cos(pi a) (R167, R168) as exact
values for rounding. An irrational result stands as a fraction that lies strictly between the same
two neighbouring multiples of 2^-k as the real number, with k far beyond every rounding boundary of
the formats, so that each rounding, and each threshold of R99, comes out as for the real number. -/

namespace Sys2Proof.Machine

/-- Integer square root, bit by bit from bit b - 1 down. -/
def isqrtBits (n : Nat) : Nat → Nat → Nat
  | 0, r => r
  | b + 1, r => isqrtBits n b (if (r + 2 ^ b) * (r + 2 ^ b) ≤ n then r + 2 ^ b else r)

def isqrt (n : Nat) : Nat := isqrtBits n (n.log2 / 2 + 1) 0

/-- The square root of n / d, for positive n and d: exact, or 300 significant bits and a half unit. -/
def sqrtFrac (n d : Nat) : Nat × Nat :=
  let k := 300 + (d.log2 - n.log2 + 1) / 2
  let r := isqrt (n * 2 ^ (2 * k) / d)
  if r * r * d == n * 2 ^ (2 * k) then (r, 2 ^ k) else (2 * r + 1, 2 ^ (k + 1))

/-- Fixed point of the series below, and of their results. -/
def fxP : Nat := 576
def fxQ : Nat := 512

/-- An irrational fixed-point result: its guard bits dropped, and a half unit added. -/
def fxResult (v : Nat) : Nat × Nat := (2 * (v / 2 ^ (fxP - fxQ)) + 1, 2 ^ (fxQ + 1))

/-- Partial sums of 1/n - 1/(3 n^3) + ... (alternating) or of the same without signs. -/
def atanGo (alt : Bool) (n2 : Nat) : Nat → Nat → Nat → Bool → Nat → Nat
  | 0, _, _, _, acc => acc
  | fuel + 1, k, p, plus, acc =>
    let t := p / (2 * k + 1)
    atanGo alt n2 fuel (k + 1) (p / n2) (!plus || !alt) (if plus then acc + t else acc - t)

/-- pi in fixed point (Machin's formula). -/
def fxPi : Nat :=
  16 * atanGo true 25 130 0 (2 ^ fxP / 5) true 0 - 4 * atanGo true (239 * 239) 40 0 (2 ^ fxP / 239) true 0

/-- ln 2 = 2 artanh(1/3) in fixed point. -/
def fxLn2 : Nat := 2 * atanGo false 9 190 0 (2 ^ fxP / 3) true 0

/-- Sum of x^k / k!. -/
def expGo (x : Nat) : Nat → Nat → Nat → Nat → Nat
  | 0, _, _, acc => acc
  | fuel + 1, k, t, acc => expGo x fuel (k + 1) (t * x / 2 ^ fxP / (k + 1)) (acc + t)

/-- e^x for fixed-point x below 1. -/
def fxExp (x : Nat) : Nat := expGo x 120 0 (2 ^ fxP) 0

/-- Alternating series with term t, then t x2 / (k (k + 1)), ... -/
def trigGo (x2 : Nat) : Nat → Nat → Nat → Bool → Nat → Nat
  | 0, _, _, _, acc => acc
  | fuel + 1, k, t, plus, acc =>
    trigGo x2 fuel (k + 2) (t * x2 / 2 ^ fxP / (k * (k + 1))) (!plus) (if plus then acc + t else acc - t)

/-- sin and cos of a fixed-point x below 1. -/
def fxSin (x : Nat) : Nat := trigGo (x * x / 2 ^ fxP) 70 2 x true 0
def fxCos (x : Nat) : Nat := trigGo (x * x / 2 ^ fxP) 70 1 (2 ^ fxP) true 0

/-- Sum of z^(2k+1) / (2k+1). -/
def atanhGo (z2 : Nat) : Nat → Nat → Nat → Nat → Nat
  | 0, _, _, acc => acc
  | fuel + 1, k, p, acc => atanhGo z2 fuel (k + 1) (p * z2 / 2 ^ fxP) (acc + p / (2 * k + 1))

/-- log2 of n / d with 1 < n / d < 2, in fixed point. -/
def fxLog2 (n d : Nat) : Nat :=
  let z := (n - d) * 2 ^ fxP / (n + d)
  2 * atanhGo (z * z / 2 ^ fxP) 190 0 z 0 * 2 ^ fxP / fxLn2

/-- sin(pi n / d) for 0 < n / d < 1/2, and cos likewise. -/
def fxSinPi (n d : Nat) : Nat :=
  if 4 * n ≤ d then fxSin (fxPi * n / d) else fxCos (fxPi * (d - 2 * n) / (2 * d))
def fxCosPi (n d : Nat) : Nat :=
  if 4 * n ≤ d then fxCos (fxPi * n / d) else fxSin (fxPi * (d - 2 * n) / (2 * d))

/-- Square root (R168). -/
def Val.sqrt : Val → Val
  | .nan => .nan
  | .inf s => if s then .nan else .inf false
  | .num s n d =>
    if n == 0 then .num s 0 1
    else if s then .nan
    else .num false (sqrtFrac n d).1 (sqrtFrac n d).2

/-- Reciprocal square root (R168). -/
def Val.rsqrt : Val → Val
  | .nan => .nan
  | .inf s => if s then .nan else .num false 0 1
  | .num s n d =>
    if n == 0 then .inf s
    else if s then .nan
    else .num false (sqrtFrac d n).1 (sqrtFrac d n).2

/-- 2^a (R168). -/
def Val.exp2 : Val → Val
  | .nan => .nan
  | .inf s => if s then .num false 0 1 else .inf false
  | .num s n d =>
    let a := Val.int s n
    let i := Int.fdiv a (Int.ofNat d)
    let r := (a - i * Int.ofNat d).toNat
    -- beyond these bounds every format overflows, or lies below every threshold of R99
    if 256 ≤ i then (Val.num false 1 1).scale 256
    else if i < -600 then (Val.num false 1 1).scale (-600)
    else if r == 0 then (Val.num false 1 1).scale i
    else
      let v := fxResult (fxExp (fxLn2 * r / d))
      (Val.num false v.1 v.2).scale i

/-- log2 a (R168). -/
def Val.log2 : Val → Val
  | .nan => .nan
  | .inf s => if s then .nan else .inf false
  | .num s n d =>
    if n == 0 then .inf true
    else if s then .nan
    else
      let e := floorLog2 n d
      let p := pow2 e
      let m := n * p.2
      let k := d * p.1
      if m == k then .num (e < 0) e.natAbs 1
      else
        let f := fxResult (fxLog2 m k)
        let t := e * Int.ofNat f.2 + Int.ofNat f.1
        .num (t < 0) t.natAbs f.2

/-- sin(pi a) (R168). -/
def Val.sinPi : Val → Val
  | .nan => .nan
  | .inf _ => .nan
  | .num s n d =>
    let r := n % (2 * d)
    if r % d == 0 then .num s 0 1
    else
      let neg := s != decide (d < r)
      let x := if r < d then r else r - d
      let y := if 2 * x ≤ d then x else d - x
      if 2 * y == d then .num neg 1 1
      else let v := fxResult (fxSinPi y d); .num neg v.1 v.2

/-- cos(pi a) (R168). -/
def Val.cosPi : Val → Val
  | .nan => .nan
  | .inf _ => .nan
  | .num _ n d =>
    let r := n % (2 * d)
    let x := if r ≤ d then r else 2 * d - r
    let neg := d < 2 * x
    let y := if neg then d - x else x
    if 2 * x == d then .num false 0 1
    else if y == 0 then .num neg 1 1
    else let v := fxResult (fxCosPi y d); .num neg v.1 v.2

end Sys2Proof.Machine
end

