-- ==== Sys2Proof/Machine/FloatOps.lean ====
section
/-! DEFINITION. Floating-point instructions (R167-R170): each forms the exact value of its column and
rounds it once. -/

namespace Sys2Proof.Machine

/-- Values of the elements of a register under F. -/
def Env.val (e : Env) (k : Nat) (r : Word) : Val := elemValue e.f.f (elemOf (fmtWidth e.f.f) k r)

/-- Rounds the exact value of result element k of lane l into F (R158, R101: the source bits are the
element of A). -/
def Env.roundElem (e : Env) (l k : Nat) (v : Val) : Nat :=
  let r := e.rnd e.f.f
  roundTo e.f.f v r (e.draw r.code l k (elemOf (fmtWidth e.f.f) k (e.srcA l)))

/-- Downward rounding, under which an exact zero sum is -0 (R97). -/
def Env.down (e : Env) : Bool := (e.rnd e.f.f).code == 2

/-- One, two and three sources. -/
def floatUn (e : Env) (g : Val → Val) : Act :=
  withTags e [e.checkA e.f.f]
    (e.writeD (fun l => mapElems e.f.f (fun k _ => e.roundElem l k (g (e.val k (e.srcA l)))) (e.srcA l))
      fun _ => e.f.f)
def floatBin (e : Env) (g : Val → Val → Val) : Act :=
  withTags e [e.checkA e.f.f, e.checkB e.f.f]
    (e.writeD (fun l => mapElems e.f.f
      (fun k _ => e.roundElem l k (g (e.val k (e.srcA l)) (e.val k (e.srcB l)))) (e.srcA l)) fun _ => e.f.f)

/-- The lesser or greater operand, exactly (R168). -/
def floatPick (t : Tag) (least : Bool) (a b : Nat) : Nat :=
  let x := elemValue t a
  let y := elemValue t b
  if x.isNan || y.isNan then (floatFmt t).nan
  else if least then (if x.pickMin y then a else b)
  else (if y.pickMin x then a else b)

/-- FRND (R170): the integral neighbour that the code picks, with the sign of a. On a tie of code 000 it is the even
integer (the model's choice, log 89). -/
def roundIntegral (t : Tag) (a code u : Nat) : Nat :=
  match elemValue t a with
  | .num neg n d =>
    match roundInt (.num neg n d) code u with
    | some i => (floatFmt t).round (.num neg i.natAbs 1) Rnd.ne 0
    | none => a
  | .inf _ => a
  | .nan => (floatFmt t).nan

/-- The class mask of R170. -/
def classMask (t : Tag) (a : Nat) : Nat :=
  let q := floatFmt t
  let neg := bitAt a (q.ebits + q.fbits)
  let mag := a % 2 ^ (q.ebits + q.fbits)
  match q.value a with
  | .nan => 2 ^ 8
  | .inf s => if s then 1 else 2 ^ 7
  | .num _ n _ =>
    if n == 0 then (if neg then 2 ^ 3 else 2 ^ 4)
    else if mag < 2 ^ q.fbits then (if neg then 2 ^ 2 else 2 ^ 5)
    else (if neg then 2 else 2 ^ 6)

def execFadd (f : Fields) (s : State) : Host.Outcome State Fault Refusal :=
  perform (.fadd f) s fun e => floatBin e fun a b => a.add b e.down

def execFsub (f : Fields) (s : State) : Host.Outcome State Fault Refusal :=
  perform (.fsub f) s fun e => floatBin e fun a b => a.add b.neg e.down

def execFmul (f : Fields) (s : State) : Host.Outcome State Fault Refusal :=
  perform (.fmul f) s fun e => floatBin e fun a b => a.mul b

def execFma (f : Fields) (s : State) : Host.Outcome State Fault Refusal :=
  perform (.fma f) s fun e =>
    withTags e [e.checkA f.f, e.checkB f.f, e.checkC f.f]
      (e.writeD (fun l => mapElems f.f
        (fun k _ => e.roundElem l k
          (((e.val k (e.srcA l)).mul (e.val k (e.srcB l))).add (e.val k (e.srcC l)) e.down))
        (e.srcA l)) fun _ => f.f)

def execFmin (f : Fields) (s : State) : Host.Outcome State Fault Refusal :=
  perform (.fmin f) s fun e => withTags e [e.checkA f.f, e.checkB f.f]
    (e.writeD (fun l => mapElems2 f.f (fun _ a b => floatPick f.f true a b) (e.srcA l) (e.srcB l))
      fun _ => f.f)

def execFmax (f : Fields) (s : State) : Host.Outcome State Fault Refusal :=
  perform (.fmax f) s fun e => withTags e [e.checkA f.f, e.checkB f.f]
    (e.writeD (fun l => mapElems2 f.f (fun _ a b => floatPick f.f false a b) (e.srcA l) (e.srcB l))
      fun _ => f.f)

def execFcmp (f : Fields) (s : State) : Host.Outcome State Fault Refusal :=
  perform (.fcmp f) s fun e =>
    withTags e [e.checkA f.f, e.checkB f.f]
      (e.writePred s f.d.toNat fun l =>
        floatCond (f.x.toNat % 8) (e.val (f.h.toNat % 16) (e.srcA l)) (e.val (f.h.toNat % 16) (e.srcB l)))

def execFdiv (f : Fields) (s : State) : Host.Outcome State Fault Refusal :=
  perform (.fdiv f) s fun e => floatBin e fun a b => a.div b

def execFrcp (f : Fields) (s : State) : Host.Outcome State Fault Refusal :=
  perform (.frcp f) s fun e => floatUn e fun a => (Val.num false 1 1).div a

def execFrsq (f : Fields) (s : State) : Host.Outcome State Fault Refusal :=
  perform (.frsq f) s fun e => floatUn e Val.rsqrt

def execFsqrt (f : Fields) (s : State) : Host.Outcome State Fault Refusal :=
  perform (.fsqrt f) s fun e => floatUn e Val.sqrt

def execFexp2 (f : Fields) (s : State) : Host.Outcome State Fault Refusal :=
  perform (.fexp2 f) s fun e => floatUn e Val.exp2

def execFlog2 (f : Fields) (s : State) : Host.Outcome State Fault Refusal :=
  perform (.flog2 f) s fun e => floatUn e Val.log2

def execFsin (f : Fields) (s : State) : Host.Outcome State Fault Refusal :=
  perform (.fsin f) s fun e => floatUn e Val.sinPi

def execFcos (f : Fields) (s : State) : Host.Outcome State Fault Refusal :=
  perform (.fcos f) s fun e => floatUn e Val.cosPi

def execFrnd (f : Fields) (s : State) : Host.Outcome State Fault Refusal :=
  perform (.frnd f) s fun e =>
    let r := e.rnd f.f
    withTags e [e.checkA f.f]
      (e.writeD (fun l => mapElems f.f
        (fun k a => roundIntegral f.f a r.code (e.draw r.code l k a)) (e.srcA l)) fun _ => f.f)

/-- FCLASS (R170): tagged N64, N32 or N16 by the width of F. -/
def execFclass (f : Fields) (s : State) : Host.Outcome State Fault Refusal :=
  perform (.fclass f) s fun e =>
    let t : Tag := if f.f == 9 then 8 else if f.f == 10 then 7 else 6
    withTags e [e.checkA f.f]
      (e.writeD (fun l => mapElems f.f (fun _ a => classMask f.f a) (e.srcA l)) fun _ => t)

end Sys2Proof.Machine
end

