-- ==== Sys2Proof/Machine/Links.lean ====
section
/-! DEFINITION. The links of the fabric (R368-R376): matchings, routes and the relay store, flits sent and
accepted, key slots, receive slots, and links that go down and return. -/

namespace Sys2Proof.Machine

def State.link? (s : State) (k : Nat) : Option Link := s.links.find? fun l => l.num == k
def State.modLink (s : State) (k : Nat) (g : Link → Link) : State :=
  { s with links := s.links.map fun l => if l.num == k then g l else l }

/-- The partition whose port a link is on (R367): 32 ports to a quarter, link 32 p + m on port p. -/
def linkPart (s : State) (k : Nat) : Option Partition :=
  s.parts.find? fun p => bitAt p.quarters (k / 32 / 32)

/-- Receive slots that the sender believes free at the peer (R376). -/
def LinkTx.held (t : LinkTx) : Nat := (t.sent + 2 ^ 32 - t.returned) % 2 ^ 32
def LinkTx.credit (t : LinkTx) : Nat := 128 - t.held

/-- The counter value that only the last marker of a key may carry (R375). -/
def lastCtr : Nat := 2 ^ 48 - 1

/-! Flits as they are sealed (R371-R373) -/

/-- The head of a record (R372). TAG is the low 16 bits of the model's tag (log entry 71). -/
def recordHead (check : BitVec 32) (pattern : Word) (offset peerH f op : Nat) (ret : Bool) (bt j : Nat) (kind : RecKind)
    (dlen src job tag : Nat) : BitVec 256 :=
  BitVec.ofNat 256 (check.toNat * 2 ^ 224 + pattern.toNat * 2 ^ 160 + offset % 2 ^ 64 * 2 ^ 96 + peerH % 256 * 2 ^ 88
    + f % 16 * 2 ^ 84 + op % 8 * 2 ^ 81 + bit ret * 2 ^ 80 + bt % 4 * 2 ^ 78 + j % 8 * 2 ^ 75 + kindCode kind * 2 ^ 71
    + dlen % 256 * 2 ^ 63 + src % 2 ^ 25 * 2 ^ 38 + job % 2 ^ 16 * 2 ^ 16 + tag % 2 ^ 16)

/-- The head and the data of a record: of a chunk, what its last record carries. -/
def recordOf (o : Outgoing) : BitVec 256 × List Byte :=
  let last := fun (bs : List Byte) => bs.drop ((bs.length - 1) / 192 * 192)
  match o with
  | .access _ r =>
    let bs := last r.data
    (recordHead r.check r.pattern (wrapInt 64 r.offset) r.peerH r.f.toNat r.op r.ret r.bt r.j r.kind bs.length r.src
      r.job r.tag, bs)
  | .xfer _ toReceiver m =>
    let bs := last m.data
    (recordHead m.check 0 (if toReceiver then 4096 * m.chunk else m.addr) 0 m.f.toNat m.op false 0 0
      (if toReceiver then .chunk else .ready) bs.length m.src m.job m.wtag, bs)
  | .control _ code m => (recordHead 0 m.peers m.gang.toNat code 0 0 false 0 0 .control 0 m.src m.job 0, [])
  | .piece _ kind check src job bs => (recordHead check 0 0 0 0 0 false 0 0 kind bs.length src job 0, bs)

/-- The bytes of a record: head and data, in whole words (R372). -/
def recordBytes (o : Outgoing) : List Byte :=
  let r := recordOf o
  leBytes 32 r.1.toNat ++ r.2 ++ List.replicate ((8 - r.2.length % 8) % 8) 0

/-- The 224 bytes of a flit's payload (R371). -/
def payloadOf (f : Flit) : List Byte :=
  padTo 224 (match f.type with
    | 0 | 2 => f.load.flatMap recordBytes
    | 1 => leBytes 1 (bit f.slot)
    | 4 => leBytes 4 f.freed ++ leBytes 2 f.mark
    | 5 => leBytes 2 f.want
    | _ => [])

/-- The header of a flit (R371). -/
def headerOf (f : Flit) : BitVec 128 :=
  BitVec.ofNat 128 (f.ret % 256 * 2 ^ 103 + f.seq % 2 ^ 16 * 2 ^ 87 + f.dst % 2 ^ 25 * 2 ^ 62 + bit f.hop * 2 ^ 61
    + f.len % 256 * 2 ^ 53 + bit f.ks * 2 ^ 52 + f.type % 16 * 2 ^ 48 + f.ctr % 2 ^ 48)

/-- The IV of a flit (R373): LINKID, then the counter. -/
def ivOf (f : Flit) (linkId : Nat) : BitVec 96 := BitVec.ofNat 96 (linkId % 2 ^ 32 * 2 ^ 64 + f.ctr)

/-- The tag of a flit under a key (R373). -/
def sealTag (f : Flit) (key : BitVec 256) (linkId : Nat) : BitVec 128 :=
  Config.gcmTag key (ivOf f linkId) (headerOf f) (payloadOf f)

/-- LINKID of the direction out of this device, and of the one in, by the schedule table (R369, R373). -/
def txLinkId (s : State) (k : Nat) : Nat := 128 * ((linkPart s k).map (·.coord)).getD 0 + k / 32
def rxLinkId (s : State) (k : Nat) : Nat :=
  ((s.sched.find? fun x => x.1 == k).map fun x => 128 * x.2.1 + x.2.2).getD 0

/-! Sending -/

/-- An empty flit of a type. -/
def Flit.blank (type : Nat) : Flit :=
  { ret := 0, seq := 0, dst := 0, hop := false, len := 0, ks := false, type, ctr := 0, tag := 0, load := []
    slot := false, freed := 0, mark := 0, want := 0 }

/-- Data, marker and control flits are buffered (R371). -/
def buffered (type : Nat) : Bool := type ≤ 2

/-- A link is in its dwell, and not in the guard at its end (R368). -/
def inDwell (time k : Nat) : Bool := k % 32 == time / 2000 % 32 && time % 2000 < 1900

/-- A flit may go out on a link now (R368, R375), and one that is no last marker. -/
def mayGo (s : State) (l : Link) : Bool := l.up && l.tx.key.isSome && inDwell s.time l.num && l.tx.dwell < 1484
def maySeal (s : State) (l : Link) : Bool := mayGo s l && l.tx.ctr < lastCtr

/-- Seals and sends a flit (R371, R373, R376): returns, sequence number, key slot, counter and tag are filled in. -/
def sealFlit (s : State) (k : Nat) (f : Flit) : State :=
  match s.link? k with
  | none => s
  | some l =>
    let t := l.tx
    let f := { f with
      ret := min 128 l.rx.owed, seq := if buffered f.type then t.seq else 0, ks := t.slot, ctr := t.ctr }
    let f := { f with tag := sealTag f (t.key.getD 0) (txLinkId s k) }
    let t := { t with
      ctr0 := if t.slot then t.ctr0 else t.ctr0 + 1, ctr1 := if t.slot then t.ctr1 + 1 else t.ctr1
      seq := if buffered f.type then (t.seq + 1) % 65536 else t.seq
      sent := if buffered f.type then (t.sent + 1) % 2 ^ 32 else t.sent
      retry := if buffered f.type then t.retry ++ [f] else t.retry
      dwell := t.dwell + 1
      sinceState := if f.type == 4 then 0 else t.sinceState + 1 }
    { s.modLink k fun l => { l with tx := t, rx := { l.rx with owed := l.rx.owed - min 128 l.rx.owed } } with
      linkOut := s.linkOut ++ [(k, f)] }

/-- Sends a flit that may wait for another dwell, where it may go now. -/
def sealIf (s : State) (k : Nat) (f : Flit) : State := if (s.link? k).any (maySeal s) then sealFlit s k f else s

/-- The slot-state flit of a link (R376). -/
def sendSlotState (s : State) (k : Nat) : State :=
  match s.link? k with
  | none => s
  | some l => sealIf s k { Flit.blank 4 with freed := l.rx.freed % 2 ^ 32, mark := (l.tx.seq + 65535) % 65536 }

/-- Every 512th flit is a slot-state flit (R376). -/
def slotStateDue (s : State) (k : Nat) : State :=
  if (s.link? k).any fun l => 511 ≤ l.tx.sinceState then sendSlotState s k else s

/-- Sends a flit, and the slot-state flit that is due after it. -/
def sendFlit (s : State) (k : Nat) (f : Flit) : State := slotStateDue (sealFlit s k f) k

/-- The link may take one more new buffered flit now: every flit to be sent again has gone (R374), and the peer has a
slot. -/
def canSend (s : State) (k : Nat) : Bool :=
  (s.link? k).any fun l => maySeal s l && l.tx.resend.isEmpty && 0 < l.tx.credit

/-- Sends again the next flit of a retry, byte for byte (R373, R374). -/
def resendFlit (s : State) (k : Nat) (f : Flit) : State :=
  slotStateDue ({ s.modLink k fun l => { l with tx := { l.tx with
      resend := l.tx.resend.drop 1, dwell := l.tx.dwell + 1, sinceState := l.tx.sinceState + 1 } } with
    linkOut := s.linkOut ++ [(k, f)] }) k

/-- The sender moves to a key that Gazebo has installed (R375): the marker goes under the old one, whose key stays. -/
def sendMarker (s : State) (k : Nat) : State :=
  match s.link? k with
  | none => s
  | some l =>
    if l.tx.next.isSome && mayGo s l && l.tx.ctr ≤ lastCtr && l.tx.resend.isEmpty && 0 < l.tx.credit then
      slotStateDue ((sealFlit s k { Flit.blank 1 with slot := !l.tx.slot }).modLink k fun l =>
        { l with tx := { l.tx with
            slot := !l.tx.slot, asked := false, old := true
            ctr0 := if l.tx.slot then 0 else l.tx.ctr0, ctr1 := if l.tx.slot then l.tx.ctr1 else 0 } }) k
    else s

/-- The destination of what the fabric unit sends. -/
def outDst : Outgoing → Nat
  | .access d _ => d
  | .xfer d _ _ => d
  | .control d _ _ => d
  | .piece d _ _ _ _ _ => d

/-- A control record goes alone, in a control flit (R371). -/
def isControl : Outgoing → Bool
  | .control _ _ _ => true
  | _ => false

/-- The records for one destination that fit into the room of a payload, in order (R370, R372). -/
def packed (dst : Nat) : Nat → List Outgoing → List Outgoing
  | _, [] => []
  | room, o :: os =>
    if outDst o != dst then packed dst room os
    else if isControl o || room < (recordBytes o).length then []
    else o :: packed dst (room - (recordBytes o).length) os

/-- The flit that carries the oldest of the records that wait (R371, R372). -/
def outFlit (o : Outgoing) (rest : List Outgoing) : Flit :=
  let load := if isControl o then [o] else o :: packed (outDst o) (224 - (recordBytes o).length) rest
  { Flit.blank (if isControl o then 2 else 0) with
    dst := outDst o, load, len := (load.flatMap recordBytes).length }

/-- The link on which a partition's node reaches a destination, at the origin or after the relay (R369). -/
def routeOf (s : State) (part dst : Nat) (relayed : Bool) : Option Nat :=
  let entry : Nat → Option Route := fun d =>
    s.routes.findSome? fun r => if r.1 == part && r.2.1 == d then some r.2.2 else none
  let direct : Option Route → Option Nat := fun r => match r with
    | some (.direct k) => some k
    | _ => none
  match entry dst with
  | some (.relay node) => if relayed then none else direct (entry node)
  | r => direct r

/-- The receive slot of a flit is free. -/
def freeSlot (s : State) (k : Nat) : State :=
  s.modLink k fun l => { l with rx := { l.rx with freed := l.rx.freed + 1, owed := l.rx.owed + 1 } }

/-- The partition in whose store a flit is. -/
def relayPart (s : State) (x : Relayed) : Option Nat := (linkPart s x.link).map (·.num)

/-- The relay store of a partition has room for one more flit of 256 bytes (R369). -/
def relayRoom (s : State) (p : Partition) : Bool :=
  256 * ((s.relay.filter fun x => relayPart s x == some p.num && !x.stalled).length + 1) ≤ p.reg 0x0207 0

/-- Room in the store of a partition goes to the oldest flit that still occupies a receive slot (R369). -/
def settleRelay (s : State) (p : Partition) : State :=
  match s.relay.find? fun x => relayPart s x == some p.num && x.stalled with
  | none => s
  | some x =>
    if !relayRoom s p then s
    else
      let put := fun (acc : Bool × List Relayed) (y : Relayed) =>
        if !acc.1 && y == x then (true, acc.2 ++ [{ y with stalled := false }]) else (acc.1, acc.2 ++ [y])
      freeSlot { s with relay := (s.relay.foldl put (false, [])).2 } x.link

/-- A flit leaves the relay store on its own link, with HOP = 1 (R369); one that never got into the store frees its
receive slot. -/
def sendRelayed (s : State) (p : Partition) (k : Nat) (x : Relayed) : State :=
  let s := { s with relay := s.relay.erase x }
  settleRelay (sendFlit (if x.stalled then freeSlot s x.link else s) k { x.flit with hop := true }) p

/-- Sends what waits for a link, in order, while it has slots and the dwell lasts (R368, R370): flits to be sent again
first, a marker for a new key, what is to be relayed, then the node's own. -/
def drain (k : Nat) : Nat → State → State
  | 0, s => s
  | fuel + 1, s =>
    match s.link? k, linkPart s k with
    | some l, some p =>
      if !mayGo s l then s
      else
        match l.tx.resend with
        | f :: _ => drain k fuel (resendFlit s k f)
        | [] =>
          let s := sendMarker s k
          if !canSend s k then s
          else
            match s.relay.find? fun x => relayPart s x == some p.num && routeOf s p.num x.flit.dst true == some k with
            | some x => drain k fuel (sendRelayed s p k x)
            | none =>
              match s.fabOut.filter fun x => x.1 == p.num && routeOf s p.num (outDst x.2) false == some k with
              | [] => s
              | x :: rest =>
                let f := outFlit x.2 (rest.map (·.2))
                drain k fuel (sendFlit { s with fabOut := f.load.foldl (fun q o => q.erase (p.num, o)) s.fabOut } k f)
    | _, _ => s

/-- A dwell of a link begins (R368, R374-R376). -/
def openDwell (s : State) (k : Nat) : State :=
  match s.link? k with
  | none => s
  | some l =>
    if !l.up || l.tx.key.isNone then s
    else
      let s := s.modLink k fun l =>
        { l with
          tx := { l.tx with dwell := 0 }
          rx := { l.rx with heard := false, emptyDwells := if l.rx.heard then 0 else l.rx.emptyDwells + 1 } }
      let s := if l.rx.refusing then sealIf s k { Flit.blank 5 with want := l.rx.expect } else s
      drain k 1484 (sendSlotState s k)

/-- In every clock the links that are in their dwell send what has come to wait for them (R368). -/
def pumpLinks (s : State) : State :=
  (s.links.filter fun l => inDwell s.time l.num).foldl (fun s l => drain l.num 1484 s) s

/-- DWELL_START (R368): matching m = ⌊T / 2,000 ns⌋ mod 32 lights the links 32 p + m. -/
def execDwellStart (time : Nat) (s : State) : Host.Outcome State Fault Refusal :=
  .next (if time / 2000 != s.time / 2000 then s
    else (s.links.filter fun l => l.num % 32 == time / 2000 % 32).foldl (fun s l => openDwell s l.num) s)

/-! Accepting -/

/-- The receiver meets a flit under its key slot: whether the tag verifies (R373-R375). -/
def opens (s : State) (l : Link) (f : Flit) : Bool :=
  f.type ≤ 5 && f.ks == l.rx.slot
    && (if f.ks then l.rx.key1 else l.rx.key0).any fun key => f.tag == sealTag f key (rxLinkId s l.num)

/-- A refused flit is counted, and a retry request asks for the one expected (R374). -/
def refuse (s : State) (k : Nat) : State :=
  match s.link? k with
  | none => s
  | some l =>
    let s := match linkPart s k with
      | some p => s.modPart p.num fun p => p.bump 0x0204 0 1
      | none => s
    if l.rx.refusing then s
    else
      let s := s.modLink k fun l => { l with rx := { l.rx with refusing := true } }
      slotStateDue (sealIf s k { Flit.blank 5 with want := l.rx.expect }) k

/-- The sender frees its oldest retry entries (R376); with a marker goes the key before it (R375). -/
def trimRetry (t : LinkTx) : LinkTx :=
  let gone := t.retry.take (t.retry.length - t.held)
  let t := { t with retry := t.retry.drop (t.retry.length - t.held) }
  if gone.any fun f => f.type == 1 && f.slot == t.slot && f.ks != f.slot then
    if t.slot then { t with key0 := none, old := false } else { t with key1 := none, old := false }
  else t

/-- RET of an accepted flit (R376). -/
def takeReturns (l : Link) (f : Flit) : Link :=
  let behind := (f.seq + 65536 - l.rx.mark) % 65536
  if buffered f.type && (behind == 0 || 0x8000 ≤ behind) then l
  else { l with tx := trimRetry { l.tx with returned := (l.tx.returned + f.ret) % 2 ^ 32 } }

/-- The order rules of R374, then what an accepted flit does. -/
def accept (s : State) (k : Nat) (f : Flit) (go : State → State) : State :=
  match s.link? k with
  | none => s
  | some l =>
    if !l.up then s
    else if !opens s l f then refuse s k
    else
      let last := if f.ks then l.rx.last1 else l.rx.last0
      let heard := fun (s : State) => s.modLink k fun l => { l with rx := { l.rx with heard := true, emptyDwells := 0 } }
      if buffered f.type then
        if f.seq != l.rx.expect then s
        else
          go (heard (s.modLink k fun l => takeReturns { l with rx := { l.rx with
            expect := (l.rx.expect + 1) % 65536, refusing := false } } f))
      else if last.any (f.ctr ≤ ·) then s
      else
        go (heard (s.modLink k fun l => takeReturns { l with rx := { l.rx with
          last0 := if f.ks then l.rx.last0 else some f.ctr, last1 := if f.ks then some f.ctr else l.rx.last1 } } f))

/-- The event that a message from the fabric is for its node (R245-R251, R301, R372): a piece of a chunk is none, the
chunk comes with its last record. A transfer or control record of another job is discarded. A record of a reserved KIND
is met, and discarded, where atomics are. -/
def outEvents (o : Outgoing) (p : Partition) : List Instr :=
  let part := p.num
  match o with
  | .piece _ _ _ _ _ _ => []
  | .control _ code m => if m.job == p.reg 0x0202 0 then [gangInstr code { m with part }] else []
  | .xfer _ toReceiver m =>
    if m.job == p.reg 0x0202 0 then [if toReceiver then .chunk part m else .readyToReceive part m] else []
  | .access _ r =>
    [match r.kind with
    | .store => .storeRecord part r
    | .load => .loadRecord part r
    | .loadReply => .loadReply part r
    | .atomic => .atomicRecord part r
    | .atomicReply => .atomicReply part r
    | .reduce => .reduceContribution part r
    | .ack => .acknowledgement part r
    | .close => .batchClose part r
    | .closeReply => .closeReply part r
    | .chunk | .ready | .control => .acknowledgement part { r with kind := .ack, count := 0 }
    | .reserved _ => .atomicRecord part r]

/-- Accepted data pass to the local fabric unit, or to the relay store; a flit that would need a third hop is
discarded and counted (R369, R371). -/
def passOn (s : State) (k : Nat) (f : Flit) : State :=
  match linkPart s k with
  | none => freeSlot s k
  | some p =>
    if f.dst == p.coord then
      freeSlot { s with inputs := s.inputs ++ f.load.flatMap fun o => outEvents o p } k
    else if f.hop then freeSlot (s.modPart p.num fun p => p.bump 0x0204 0 1) k
    else if relayRoom s p then
      freeSlot { s with relay := s.relay ++ [{ link := k, stalled := false, flit := f }] } k
    else { s with relay := s.relay ++ [{ link := k, stalled := true, flit := f }] }

/-- DATA_FLIT (R374). -/
def execDataFlit (link : Nat) (f : Flit) (s : State) : Host.Outcome State Fault Refusal :=
  .next (if f.type == 0 || 6 ≤ f.type then accept s link f fun s => passOn s link f else s)

/-- MARKER_FLIT (R375): the receiver opens with the slot named from now on, and drops the old key. -/
def execMarkerFlit (link : Nat) (f : Flit) (s : State) : Host.Outcome State Fault Refusal :=
  .next (if f.type == 1 then
      accept s link f fun s =>
        freeSlot (s.modLink link fun l =>
          if f.slot == l.rx.slot then l
          else { l with rx := { l.rx with
              slot := f.slot
              key0 := if f.slot then none else l.rx.key0, key1 := if f.slot then l.rx.key1 else none
              last0 := if f.slot then none else l.rx.last0, last1 := if f.slot then l.rx.last1 else none } }) link
    else s)

/-- CONTROL_FLIT (R371, R372). -/
def execControlFlit (link : Nat) (f : Flit) (s : State) : Host.Outcome State Fault Refusal :=
  .next (if f.type == 2 then accept s link f fun s => passOn s link f else s)

/-- IDLE_FLIT (R371): only its returns count. -/
def execIdleFlit (link : Nat) (f : Flit) (s : State) : Host.Outcome State Fault Refusal :=
  .next (if f.type == 3 then accept s link f id else s)

/-- SLOT_STATE_FLIT (R376): the sender takes the peer's total as the truth. -/
def execSlotStateFlit (link : Nat) (f : Flit) (s : State) : Host.Outcome State Fault Refusal :=
  .next (if f.type == 4 then
      accept s link f fun s => s.modLink link fun l =>
        { l with tx := trimRetry { l.tx with returned := f.freed }, rx := { l.rx with mark := f.mark } }
    else s)

/-- RETRY_REQUEST_FLIT (R374): the buffered flits from the one expected are sent again, byte for byte, before any new
one. -/
def execRetryRequestFlit (link : Nat) (f : Flit) (s : State) : Host.Outcome State Fault Refusal :=
  .next (if f.type == 5 then
      accept s link f fun s =>
        match s.link? link with
        | none => s
        | some l =>
          let again := l.tx.retry.filter fun x => (x.seq + 65536 - f.want) % 65536 < 0x8000
          drain link 1484 (s.modLink link fun l => { l with tx := { l.tx with resend := again } })
    else s)

/-! Keys and states -/

/-- A link before its first key. -/
def Link.new (k : Nat) : Link :=
  { num := k, up := true
    tx := { slot := false, ctr0 := 0, ctr1 := 0, key0 := none, key1 := none, seq := 0, sent := 0, returned := 0
            retry := [], sinceState := 0, asked := false }
    rx := { expect := 0, refusing := false, slot := false, key0 := none, key1 := none, last0 := none, last1 := none
            freed := 0, owed := 0, mark := 65535, emptyDwells := 0, heard := true } }

/-- A key goes into slot 0 of a link that has none, and into the idle slot of another (R375). -/
def installTx (t : LinkTx) (key : BitVec 256) : LinkTx :=
  if t.key.isNone then if t.slot then { t with key1 := some key } else { t with key0 := some key }
  else if t.next.isSome || t.old then t
  else if t.slot then { t with key0 := some key } else { t with key1 := some key }
def installRx (r : LinkRx) (key : BitVec 256) : LinkRx :=
  let cur := if r.slot then r.key1 else r.key0
  let idle := if cur.isNone then r.slot else !r.slot
  if idle then (if r.key1.isSome then r else { r with key1 := some key })
  else if r.key0.isSome then r else { r with key0 := some key }

/-- A key goes into both directions of a link. -/
def installKey (s : State) (link : Nat) (key : BitVec 256) : State :=
  if 4096 ≤ link then s
  else
    let s := if (s.link? link).isSome then s else { s with links := s.links ++ [Link.new link] }
    s.modLink link fun l => { l with tx := installTx l.tx key, rx := installRx l.rx key }

/-- KEY_INSTALL (R375): Gazebo installs the next key in the idle slot of this end. -/
def execKeyInstall (link : Nat) (key : BitVec 256) (s : State) : Host.Outcome State Fault Refusal :=
  .next (if rootRuns s then installKey s link key else s)

/-- KEY_REQUEST (R375): the active counter has reached 2^48 - 2^20. -/
def execKeyRequest (link : Nat) (s : State) : Host.Outcome State Fault Refusal :=
  .next (match s.link? link with
    | none => s
    | some l =>
      if 2 ^ 48 - 2 ^ 20 ≤ l.tx.ctr && l.tx.next.isNone && !l.tx.asked then
        { s.modLink link fun l => { l with tx := { l.tx with asked := true } } with
          gazebo := s.gazebo ++ [.keyWanted link] }
      else s)

/-- A link goes down and is reported. -/
def dropLink (s : State) (k : Nat) : State :=
  { s.modLink k fun l => { l with up := false } with gazebo := s.gazebo ++ [.linkDown k] }

/-- LINK_DOWN (R375): four dwells in which nothing was accepted, or a counter used up, whose last value goes on
a marker that names the same slot, once that may be sent. -/
def execLinkDown (link : Nat) (s : State) : Host.Outcome State Fault Refusal :=
  .next (match s.link? link with
    | none => s
    | some l =>
      if !l.up then s
      else if lastCtr ≤ l.tx.ctr && l.tx.next.isNone then
        if mayGo s l && l.tx.ctr == lastCtr && 0 < l.tx.credit then
          dropLink (sealFlit s link { Flit.blank 1 with slot := l.tx.slot }) link
        else s
      else if 4 ≤ l.rx.emptyDwells then dropLink s link
      else s)

/-- LINK_UP (R375): a link returns to service; what waits for it goes out in its dwells. One whose counter is used up
sends nothing more. -/
def execLinkUp (link : Nat) (s : State) : Host.Outcome State Fault Refusal :=
  .next (match s.link? link with
    | none => s
    | some l =>
      if l.up || lastCtr < l.tx.ctr || (lastCtr ≤ l.tx.ctr && l.tx.next.isNone) then s
      else s.modLink link fun l => { l with up := true, rx := { l.rx with emptyDwells := 0, heard := true } })

end Sys2Proof.Machine
end

