-- ==== Sys2Proof/Machine/Matrix.lean ====
section
/-! DEFINITION. Operand slots, the matrix commands and the steps of the array and the sequencer
(R258-R278). -/

namespace Sys2Proof.Machine

/-- Operand slots of a core that its teams hold (R260). -/
def slotsUsed (s : State) (core : Nat) : Nat :=
  s.teams.foldl (fun n t => if t.core == core && t.status != .saved && t.status != .prepared
    then n + t.slots.length else n) 0

/-- The names from oA to oB. -/
def slotRange (f : Fields) : List Nat := (List.range (f.b.toNat + 1 - f.a.toNat)).map fun k => f.a.toNat + k

/-- The slots are claimed, zero in every byte, and 0 is written to sD. -/
def claimSlots (e : Env) (s : State) : State :=
  (s.modTeam e.t.uid fun t => { t with slots := t.slots ++ (slotRange e.f).map fun k => (k, []) }).modBraid
    e.t.uid e.rank fun b => b.setS e.f.d.toNat 0

/-- CLAIM (R260): the status is a value that depends on co-resident teams (R47, R389). -/
def execClaim (f : Fields) (s : State) : Host.Outcome State Fault Refusal :=
  perform (.claim f) s fun e =>
    if (slotRange f).any e.t.hasSlot then .trap { cause := 4, opnd := 2, lanes := e.act, value := f.a.toNat }
    else
      let refuse := fun (s : State) => s.modBraid e.t.uid e.rank fun b => b.setS f.d.toNat 1
      withReplay e [e.act] (fun s vs => .go (if vs.headD 0 == 0 then claimSlots e s else refuse s)) <|
      if slotsUsed e.s e.t.core + (slotRange f).length ≤ Config.operandSlots then
        .go (logValue e (claimSlots e e.s) 0 0)
      else if f.x.getLsbD 0 then .wait e.s e.act .plain
      else .go (logValue e (refuse e.s) 0 1)

/-- RELEASE (R261). -/
def execRelease (f : Fields) (s : State) : Host.Outcome State Fault Refusal :=
  perform (.release f) s fun e =>
    let names := slotRange f
    if names.any fun k => !e.t.hasSlot k then .trap { cause := 4, opnd := 2, lanes := e.act, value := f.a.toNat }
    else if e.t.slotBusy f.a.toNat f.b.toNat then .wait e.s e.act .plain
    else
      let s := e.s.modTeam e.t.uid fun t => { t with slots := t.slots.filter fun x => !names.contains x.1 }
      .go { s with shadow := s.shadow.filter fun x =>
        !(x.kind == .slot && x.id == e.t.uid && names.contains x.granule) }

/-- MMA (R265, R266, R274). -/
def execMma (f : Fields) (s : State) : Host.Outcome State Fault Refusal := perform (.mma f) s issueCommand

/-- GMMA (R267, R274). -/
def execGmma (f : Fields) (s : State) : Host.Outcome State Fault Refusal := perform (.gmma f) s issueCommand

/-- ACCWR (R270, R274). -/
def execAccwr (f : Fields) (s : State) : Host.Outcome State Fault Refusal := perform (.accwr f) s issueCommand

/-- ACCST (R271, R274). -/
def execAccst (f : Fields) (s : State) : Host.Outcome State Fault Refusal := perform (.accst f) s issueCommand

/-- HADT (R272, R274). -/
def execHadt (f : Fields) (s : State) : Host.Outcome State Fault Refusal := perform (.hadt f) s issueCommand

/-- QTILE (R273, R274). -/
def execQtile (f : Fields) (s : State) : Host.Outcome State Fault Refusal := perform (.qtile f) s issueCommand

/-- ACCZ (R268): the race detector sees it when it is accepted, before it waits for the tile (R276). -/
def execAccz (f : Fields) (s : State) : Host.Outcome State Fault Refusal :=
  perform (.accz f) s fun e =>
    let k := f.d.toNat
    if !e.t.hasTile k then .trap { cause := 4, opnd := 1, lanes := e.act, value := k }
    else
      withNames e e.s [(.tile, k, true)] fun s =>
        if e.t.tileBusy k then .wait s e.act .plain
        else .go (s.modTeam e.t.uid fun t => { t with tiles := t.tiles.set k [], tileTags := t.tileTags.set k 10 })

/-- Elements that ACCRD reads (R269). -/
def accrdCount (t : Tag) : Nat := if t == 10 then 2 else fmtCount t

/-- ACCRD (R269), seen by the race detector when it is accepted, as ACCZ. -/
def execAccrd (f : Fields) (s : State) : Host.Outcome State Fault Refusal :=
  perform (.accrd f) s fun e =>
    let k := f.a.toNat
    let (pos, opnd) := if f.len == 0 then ((e.b.sreg f.b.toNat).toNat, 3) else (f.e.toNat, 6)
    let i := bitsOf pos 13 8
    let n := bitsOf pos 5 0
    let bad := fun (opnd value : Nat) => Act.trap { cause := 4, opnd, lanes := e.act, value }
    if !e.t.hasTile k then bad 2 k
    else if 2 ^ 14 ≤ pos || bitsOf pos 7 6 != 0 || n % accrdCount f.f != 0 then bad opnd pos
    else if e.t.tileTags.getD k 0 != 10 then
      .trap { cause := 5, opnd := 2, lanes := e.act, value := (e.t.tileTags.getD k 0).toNat }
    else
      withNames e e.s [(.tile, k, false)] fun s =>
        let el := fun (q : Nat) =>
          convTile s e.t e.rank e.pc e.b.nmode f.f none i (n + q) (e.t.tileElem k i (n + q))
        if e.t.tileBusy k then .wait s e.act .plain
        else .go (s.modBraid e.t.uid e.rank fun b =>
          b.setS f.d.toNat (fromElems f.f ((List.range (accrdCount f.f)).map el)))

/-! Steps -/

/-- MMA_STEP (R266, R267, R274): the first group of MMA that has not been added, or of GMMA the next one where it has
landed. -/
def execMmaStep (uid trk : Nat) (s : State) : Host.Outcome State Fault Refusal :=
  .next (match s.team? uid with
    | none => s
    | some t =>
      match t.trackers.getD trk none with
      | none => s
      | some c =>
        let j := (List.range 64).findIdx fun k => !c.bitmap.getLsbD k
        match c.inst, multOf c, t.canStep trk j with
        | .mma _, some m, some _ =>
          let c := { c with bitmap := c.bitmap ||| word (2 ^ j) }
          endCommand (s.modTeam uid fun t =>
            { addGroup m j t with trackers := t.trackers.set trk (some c) }) uid trk fun _ => 0
        | .gmma _, some m, _ =>
          if t.engineRuns && t.inTurn c && c.owes then
            endCommand (s.modTeam uid fun t =>
              { addGroup m c.added t with trackers := t.trackers.set trk (some { c with added := c.added + 1 }) }) uid trk fun _ => 0
          else s
        | _, _, _ => s)

/-- Row i of ACCWR (R270): the elements' F32 values. -/
def loadRow (t : Team) (c : Command) (f : Fields) (i : Nat) (bs : List Byte) : Team :=
  (List.range (bitsOf c.valB.toNat 15 8)).foldl (fun t n =>
    t.putTile f.d.toNat i n (roundF32 (elemValue f.f (rowElem f.f bs n)))) t

/-- Row i of ACCST (R271). -/
def storeRow (s : State) (t : Team) (c : Command) (f : Fields) (i : Nat) : List Byte :=
  rowOf f.f ((List.range (bitsOf c.valB.toNat 15 8)).map fun n =>
    convTile s t c.rank c.pc c.nmode f.f none i n (t.tileElem f.d.toNat i n))

/-- The run of a row of ACCWR or ACCST. -/
def rowSeg (c : Command) (i : Nat) : Seg :=
  { h := c.entH, hIdx := c.inst.fields.h.toNat
    off := signed 64 c.valA.toNat + Int.ofNat (i * bitsOf c.valB.toNat 63 32), n := elemBytes c i }

/-- Row i of HADT (R272). -/
def hadRow (t : Team) (c : Command) (f : Fields) (i : Nat) : Team :=
  let k := f.d.toNat
  let base := if f.len == 0 then c.valA.toNat else f.e.toNat
  let y := hadamard (f.x.getLsbD 0) c.seed.toNat ((base + i) % 2 ^ 64)
    ((List.range 64).map fun n => t.tileElem k i n)
  (List.range 64).foldl (fun t n => t.putTile k i n (y.getD n 0)) t

/-- Slot row r of QTILE (R273): its scales and its elements. -/
def quantRow (s : State) (t : Team) (c : Command) (f : Fields) (r : Nat) : Team :=
  let v := c.valB.toNat
  let trans := f.x.getLsbD 0
  let len := if trans then bitsOf v 7 0 else bitsOf v 15 8
  let cell := fun (k : Nat) => if trans then (k, r) else (r, k)
  let bitsAt := fun (k : Nat) => t.tileElem f.a.toNat (cell k).1 (cell k).2
  let noscale := f.x.getLsbD 1
  let scales := (List.range ((len + 31) / 32)).map fun j =>
    if noscale then 0x7F
    else deriveScale f.f ((List.range (min (32 * j + 32) len - 32 * j)).map fun q => valueF32 (bitsAt (32 * j + q)))
  let es := (List.range len).map fun k =>
    convTile s t c.rank c.pc c.nmode f.f (some (scales.getD (k / 32) 0x7F)) (cell k).1 (cell k).2 (bitsAt k)
  let t := t.writeSlot f.d.toNat (r * (128 / 2 ^ bitsOf v 17 16)) (rowOf f.f es)
  match scaleHalf f.e.toNat with
  | none => t
  | some (k, q) => t.writeSlot k (512 * q + 8 * r) (scales.map (BitVec.ofNat 8))

/-- One row step of the sequencer (R274). -/
def rowStep (s : State) (t : Team) (trk row : Nat) (c : Command) : State :=
  let land := fun (s : State) => landElement s t.uid trk row (elemBytes c)
  let move := fun (from_ to_ : List Seg) (out : List Byte) (k : State → List Byte → State) =>
    match moveElement s t trk row c from_ to_ fun _ => out with
    | (s', .fault d) => stopElement s s' t trk row d
    | (s', .pending) => s'
    | (s', .done bs) => land (k s' bs)
  match c.inst with
  | .accwr f => move [rowSeg c row] [] [] fun s bs => s.modTeam t.uid fun t => loadRow t c f row bs
  | .accst f => move [] [rowSeg c row] (storeRow s t c f row) fun s _ => s
  | .hadt f => land (s.modTeam t.uid fun t => hadRow t c f row)
  | .qtile f => land (s.modTeam t.uid fun t => quantRow s t c f row)
  | _ => s

/-- The command's steps are rows of the sequencer. -/
def isRows : Instr → Bool
  | .accwr _ | .accst _ | .hadt _ | .qtile _ => true
  | _ => false

/-- MATRIX_ROW_STEP (R270-R274). -/
def execMatrixRowStep (uid trk row : Nat) (s : State) : Host.Outcome State Fault Refusal :=
  .next (match s.team? uid with
    | none => s
    | some t =>
      match t.trackers.getD trk none with
      | none => s
      | some c =>
        if !isRows c.inst then s
        else if c.full && t.engineRuns && c.fault.isNone then endCommand s uid trk (elemBytes c)
        else if (t.canStep trk row).isNone then s
        else
          match beginCommand s uid trk with
          | (s, none) => s
          | (s, some (t, c)) => rowStep s t trk row c)

end Sys2Proof.Machine
end

