-- ==== Sys2Proof/Machine/Priv.lean ====
section
/-! DEFINITION. The privileged instructions SRD, SWR, CTXSV, CTXLD, TLBI and IRET (R325, R326, R330-R333), the
limits of the system registers (R326, R337, R352, R367, R381, R386, R388, R391), Gazebo's writes, the posting
of fault records (R327) and page-table walks (R355-R358). -/

namespace Sys2Proof.Machine

/-! Registers -/

/-- How many indices a register has (R326, R337, R352, R367, R381, R386, R391). -/
def regCount (num : Nat) : Nat :=
  match num with
  | 0x0050 => 256
  | 0x0203 => 4096
  | 0x0300 | 0x0301 | 0x0322 => 16
  | 0x0308 | 0x0309 => 32
  | 0x0402 => 24
  | 0x0500 => 4
  | 0x0102 | 0x0510 | 0x0511 | 0x0512 | 0x0513 => 8
  | _ => 1

/-- A power of two from lo to hi. -/
def powerIn (lo hi v : Nat) : Bool := lo ≤ v && v ≤ hi && 2 ^ Nat.log2 v == v

/-- A physical address in the DRAM of the partition's quarters. -/
def inDram (p : Partition) (pa : Nat) : Bool := pa < Config.dramBytes && bitAt p.quarters (pa / Config.quarterBytes)

/-- A launch that may use the fabric is resident (R367): a gang, or any launch of a node with a used axis. -/
def fabricBusy (s : State) (p : Partition) : Bool :=
  s.launches.any fun n => n.part == p.num && n.resident && (p.axes != 0 || !n.gangs.isEmpty)

/-- The launch of a debug slot is resident with LOG = 1 (R381). -/
def logBusy (s : State) (p : Partition) (slot : Nat) : Bool :=
  bitAt (p.reg 0x0301 slot) 2 && p.reg 0x0300 slot != 0 &&
    s.launches.any fun n => n.part == p.num && n.doneRec == p.reg 0x0300 slot && n.resident

/-- The landing area has no armed or partly written slot (R337). -/
def areaIdle (p : Partition) (a : Nat) : Bool := p.reg 0x0512 a == 128 * p.reg 0x0513 a

/-- The save area holds an image of a saved team (R337). -/
def imagesHeld (s : State) (p : Partition) : Bool := p.images.any fun x => (s.team? x.1).isSome

/-- The race detector holds an entry in the overflow area (R292, R326): more than its own storage takes. -/
def overflowHeld (s : State) (p : Partition) : Bool := s.shadowRoom < (s.shadow.filter fun e => e.part == p.num).length

/-- The limits of the fault, spill, detector, batch and translation registers (R326, R352). -/
def limitPriv (s : State) (p : Partition) (num v : Nat) : Bool :=
  let idle := p.reg 0x0012 0 == p.reg 0x0013 0
  let dumped := p.dumps.all (·.sent)
  match num with
  | 0x0010 => v % 4096 == 0 && idle
  | 0x0011 => powerIn 16 65536 v && idle
  | 0x0013 => p.reg 0x0013 0 ≤ v && v ≤ p.reg 0x0012 0
  | 0x0020 | 0x0021 => v % 0x200000 == 0 && spilledChunks s p == 0
  | 0x0030 | 0x0031 => v % 4096 == 0 && !overflowHeld s p
  | 0x0040 => 1 ≤ v && v < 2 ^ 32
  | 0x0100 => v % 4096 == 0
  | 0x0101 => v ≤ 65536
  | 0x0102 => 1 ≤ v && v < p.reg 0x0101 0
  | 0x0121 => v % 65536 == 0 && inDram p v && dumped
  | 0x0122 => v % 65536 == 0 && dumped
  | _ => true

/-- The limits of the fabric, debug, trace, Folly and replay registers (R367, R381, R386, R388). -/
def limitDebug (s : State) (p : Partition) (num idx v : Nat) : Bool :=
  match num with
  | 0x0206 => v % 0x200000 == 0 && inDram p v && !fabricBusy s p
  | 0x0207 => v % 0x200000 == 0 && !fabricBusy s p
  | 0x0300 => !logBusy s p idx
  | 0x0301 => (bitAt v 2 == bitAt (p.reg 0x0301 idx) 2 || !logBusy s p idx)
  | 0x0302 => v < 2 ^ 17
  | 0x0310 => v % 4096 == 0
  | 0x0311 => powerIn 64 1048576 v
  | 0x0313 => p.reg 0x0313 0 ≤ v && v ≤ p.reg 0x0312 0
  | 0x0315 => v == 0 || (256 ≤ v && v < 2 ^ 32)
  | 0x0320 => 1 ≤ bitsOf v 63 32 && (!bitAt v 0 || trialOk p v)
  | 0x0321 => bitsOf v 31 0 ≤ bitsOf v 63 32 && bitsOf v 63 32 < 0xFFFFFFFF && p.trial.isNone
  | 0x0330 => v % 65536 == 0
  | 0x0331 => v % 65536 == 0
  | 0x0333 => p.reg 0x0333 0 ≤ v && v ≤ p.reg 0x0332 0 && v % 32 == 0
  | 0x0334 => v % 32 == 0
  | _ => true

/-- The limits of the platform and scheduling registers (R337, R391). -/
def limitSched (s : State) (p : Partition) (num idx v : Nat) : Bool :=
  match num with
  | 0x0413 => 480 ≤ v && v ≤ 840
  | 0x0420 => v % 4096 == 0
  | 0x0421 => powerIn 64 65536 v
  | 0x0510 => v % 128 == 0 && areaIdle p idx
  | 0x0511 => v % 128 == 0 && v ≤ 2 ^ 24 && areaIdle p idx
  | 0x0520 | 0x0521 => v % 4096 == 0 && !imagesHeld s p
  | 0x0530 => (v == 8 || v == 16 || v == 32) && !(s.launches.any fun n => n.part == p.num && n.det && n.resident)
  | 0x0540 => (killTarget s p.num v).isSome
  | _ => true

/-- A value keeps a register's limits. -/
def limitOk (s : State) (p : Partition) (num idx v : Nat) : Bool :=
  limitPriv s p num v && limitDebug s p num idx v && limitSched s p num idx v

/-- What a write that is accepted does (R326): the register takes the value, and a register with a behaviour of
its own has it. -/
def regEffect (s : State) (p : Partition) (num idx v : Nat) : State :=
  let put := fun (s : State) => s.modPart p.num fun p => p.setReg num idx v
  match num with
  | 0x0302 =>
    match teamAt s p.num (v % 2 ^ 14) with
    | some t => if t.dbgStopped then s.modTeam t.uid fun t => leaveStop t (bitAt v 16) else s
    | none => s
  | 0x0320 => if bitAt v 0 then startTrial s p.num v else put (endTrial s p.num)
  | 0x0335 => armReplay s p.num (v % 2 ^ 14) (bitAt v 14)
  | 0x0510 | 0x0511 =>
    (put s).modPart p.num fun p => (p.setReg 0x0512 idx 0).setReg 0x0513 idx 0
  | 0x0540 =>
    match killTarget s p.num v with
    | some n => killLaunch s n
    | none => s
  | _ => put s

/-- The register that an SRD or SWR names: number and index, or the trap that refuses it (R326); evalue is
the whole 16-bit number of X and H (DESIGN CHOICE, log entry 111). -/
def sysNamed (e : Env) (write : Bool) : Except Trap (Nat × Nat) :=
  let num := e.f.x.toNat * 256 + e.f.h.toNat
  let trap := fun (opnd value : Nat) => { cause := 4, opnd, lanes := e.act, value : Trap }
  match regRow num with
  | none => .error (trap 5 num)
  | some r =>
    let idx := if regCount num == 1 then 0 else (e.b.sreg e.f.b.toNat).toNat
    if write && r.access != .rw && r.access != .wo then .error (trap 5 num)
    else if regCount num ≤ idx then .error (trap 3 idx)
    else .ok (num, idx)

/-- SRD (R326). -/
def execSrd (f : Fields) (s : State) : Host.Outcome State Fault Refusal :=
  perform (.srd f) s fun e =>
    match sysNamed e false, e.s.part? e.t.part with
    | .error x, _ => .trap x
    | .ok _, none => .go e.s
    | .ok (num, idx), some p =>
      .go (e.s.modBraid e.t.uid e.rank fun b => b.setS f.d.toNat (e.s.sysRead p num idx))

/-- SWR (R326). Its release at device scope is met by no row of R281. -/
def execSwr (f : Fields) (s : State) : Host.Outcome State Fault Refusal :=
  perform (.swr f) s fun e =>
    match sysNamed e true, e.s.part? e.t.part with
    | .error x, _ => .trap x
    | .ok _, none => .go e.s
    | .ok (num, idx), some p =>
      let value := (e.b.sreg f.a.toNat).toNat
      let v := Nat.land value (assignedBits num idx)
      if limitOk e.s p num idx v then .go (regEffect e.s p num idx v)
      else .trap { cause := 4, opnd := 2, lanes := e.act, value }

/-- The limits of the registers that Gazebo writes (R326, R367, R391, R396). -/
def limitGazebo (s : State) (p : Partition) (num v : Nat) : Bool :=
  let others := fun (n : Nat) => (s.parts.filter fun q => q.num != p.num).foldl (fun k q => k + q.reg n 0) 0
  match num with
  | 0x0200 | 0x0202 => !fabricBusy s p
  | 0x0201 => (List.range 5).all (fun a => bitsOf v (6 * a + 5) (6 * a) ≤ 32) && !fabricBusy s p
  | 0x0410 => 1 ≤ v && v ≤ 1000 && others 0x0410 + v ≤ s.pkgSlope
  | 0x0411 => 100 ≤ v && v ≤ 4500 && others 0x0411 + v ≤ 4500
  | _ => true

/-- GAZEBO_REGISTER_WRITE (R324, R326): a register marked G; partid is set by bring-up (R401), and the last word
of bindrec comes with its record. A value outside a register's limits is refused with OPND 2; the limiter's ceiling
never exceeds pwrcap (R396). -/
def execGazeboRegisterWrite (part num idx : Nat) (v : Word) (s : State) : Host.Outcome State Fault Refusal :=
  .next (match s.part? part, regRow num with
    | some p, some r =>
      let v := Nat.land v.toNat (assignedBits num idx)
      if !rootRuns s || r.access != .g || num == 0x0002 || regCount num ≤ idx || (num == 0x0500 && idx == 3) then s
      else if !limitGazebo s p num v then { s with gazebo := s.gazebo ++ [.refused part num idx] }
      else
        s.modPart part fun p =>
          let p := p.setReg num idx v
          if num == 0x0411 then { p with ceil := min p.ceil v } else p
    | _, _ => s)

/-! Fault records (R327, R330) -/

/-- The queue has room for a record. -/
def faultRoom (p : Partition) : Bool := p.reg 0x0010 0 != 0 && p.reg 0x0012 0 - p.reg 0x0013 0 < p.reg 0x0011 0

/-- The last number of waiting records that Gazebo has reported of a partition. -/
def lastTold (s : State) (part : Nat) : Option HostMsg :=
  s.hostOut.reverse.find? fun
    | .faultsWaiting p _ => p == part
    | _ => false

/-- FAULT_RECORD_POST (R327): the oldest waiting record is posted; or Gazebo learns that it waits, and reports over the
host port how many do, whenever that number has changed. -/
def execFaultRecordPost (part : Nat) (s : State) : Host.Outcome State Fault Refusal :=
  .next (match s.part? part with
    | none => s
    | some p =>
      match p.faultWait with
      | [] => s
      | r :: rest =>
        let told := HostMsg.faultsWaiting part p.faultWait.length
        let known := s.gazebo.contains (.faultWaiting part)
        let s := if known then s else { s with gazebo := s.gazebo ++ [.faultWaiting part] }
        let waits := if known && lastTold s part == some told then s else { s with hostOut := s.hostOut ++ [told] }
        if !faultRoom p then waits
        else
          let head := p.reg 0x0012 0
          let r := { r with seq := some head }
          match writeBytes s part 0 (p.reg 0x0010 0 + 64 * (head % p.reg 0x0011 0)) r.bytes with
          | (_, .error _) => waits
          | (s, .ok ()) =>
            let s := { s with gazebo := s.gazebo.filter (· != GazeboMsg.faultWaiting part) }
            let alive := (s.team? r.uid).isSome
            let s := s.modPart part fun p =>
              { p.bump 0x0012 0 1 with faultWait := rest, faults := if alive then p.faults ++ [r] else p.faults }
            raiseSup s p 0)

/-- A party takes what a release at device scope has ordered before it. -/
def Braid.after (b : Braid) (vc : Clocks) : Braid := { b with lanes := b.lanes.map fun x => { x with vc := x.vc.join vc } }
def Command.after (c : Command) (vc : Clocks) : Command := { c with vc := c.vc.join vc }
def WorkEntry.after (w : WorkEntry) (vc : Clocks) : WorkEntry := { w with vc := w.vc.join vc }

/-- A command reads the entry named by a record again, where the record says that its version is stale (R361). -/
def Command.freshen (c : Command) (r : FaultRec) : Command :=
  if r.cause != 6 then c
  else if r.handle == c.inst.fields.h.toNat && !c.entH.bad && c.entH.hdr.toNat == r.addr.toNat then { c with entH := Handle.none }
  else { c with entAux := Handle.none }

/-- The party of a settled record goes on (R330): a braid at its instruction, a command from its bitmap, a work
entry at its chunk. It sees what precedes the IRET. -/
def resumeParty (s : State) (r : FaultRec) (vc : Clocks) : State :=
  let s := match s.team? r.uid with
    | some t => s.dropCopies t.core 3
    | none => s
  s.modTeam r.uid fun t =>
    if r.we then
      { t with entries := t.entries.map fun w => if w.num == r.entry then { w.after vc with fault := none } else w }
    else if r.eng then
      { t with trackers := t.trackers.modify r.trk fun o => o.map fun c =>
          if c.fault == some r.id then
            { (c.freshen r).after vc with fault := none, headerDone := c.headerDone && c.bitmap != 0 && !isHadt c.inst }
          else c }
    else
      { t with braids := t.braids.map fun b =>
          if b.stop == .fault r.id then
            { b.after vc with stop := if t.stop == .none && !t.dbgStopped then .running else .safePoint }
          else b }

/-- Settles the outstanding record of a sequence number (R330): the status that IRET answers. -/
def settleFault (s : State) (part seq : Nat) (action : Nat) (vc : Clocks) : State × Nat :=
  match (s.part? part).bind fun p => p.faults.find? fun r => r.seq == some seq with
  | none => (s, 1)
  | some r =>
    if action == 2 && !r.eng then (s, 2)
    else
      let s := s.modPart part fun p => { p with faults := p.faults.filter fun x => x.seq != some seq }
      if action == 1 then (killTeam s r.uid (some r), 0)
      else if action == 0 then (resumeParty s r vc, 0)
      else if r.we then
        let s := s.modTeam r.uid fun t =>
          { t with entries := t.entries.map fun w => if w.num == r.entry then { w with fault := none } else w }
        (cancelEntry s r.uid r.entry, 0)
      else (cancelCommand s r.uid r.trk, 0)

/-- IRET (R330): a release at device scope, which the resumed party acquires; the status goes to D. -/
def iret (e : Env) (action : Nat) : Act :=
  let (s, v) := settleFault e.s e.t.part (e.b.sreg e.f.a.toNat).toNat action (e.b.lane e.issuer).vc
  .go (s.modBraid e.t.uid e.rank fun b => b.setS e.f.d.toNat (word v))

/-- IRET.resume (R330). -/
def execIretResume (f : Fields) (s : State) : Host.Outcome State Fault Refusal :=
  perform (.iretResume f) s fun e => iret e 0

/-- IRET.kill (R330). -/
def execIretKill (f : Fields) (s : State) : Host.Outcome State Fault Refusal :=
  perform (.iretKill f) s fun e => iret e 1

/-- IRET.cancel (R330). -/
def execIretCancel (f : Fields) (s : State) : Host.Outcome State Fault Refusal :=
  perform (.iretCancel f) s fun e => iret e 2

/-! CTXSV and CTXLD (R331, R332) -/

/-- The offset of an image under a handle with SPACE 5 or 6, a multiple of 64 (R331), in the order of R146. -/
def withImage (e : Env) (k : State → Handle → Nat → Act) : Act :=
  let off := (e.b.sreg e.f.a.toNat).toNat
  withHandle e [5, 6] [] ((Mask.lanes e.act).map fun l => { lane := l, off := Int.ofNat off }) 64 fun s h => k s h off

/-- A fault of an image's bytes is precise at the instruction. -/
def imageFault (e : Env) (s : State) (d : Draft) (addr : Nat) : Act :=
  .fault s { d with handle := e.f.h.toNat, lanes := e.act, addr }

/-- The status of CTXSV or CTXLD. -/
def status (e : Env) (s : State) (v : Nat) : Act :=
  .go (s.modBraid e.t.uid e.rank fun b => b.setS e.f.d.toNat (word v))

/-- A braid stands at a safe point, a fault, or with all its lanes at waits that carry S = 1 (R188, R331), and runs no
emulation handler (R148). One that has not started yet stands where its lanes are. -/
def braidStands (s : State) (t : Team) (b : Braid) : Bool :=
  b.pendX.isEmpty && (b.liveMask == 0 || (b.handler.isNone && (b.stop != .running || (Mask.lanes b.liveMask).all fun l =>
    ((b.lane l).wait.isSome || t.status != .running) && safePointAt s t (b.lane l).pc.toNat)))

/-- A team is stopped (R331): asked to or not, running, bound or restored. -/
def teamStands (s : State) (t : Team) : Bool :=
  t.pendE.isEmpty && (t.status == .restored
    || ((t.status == .running || t.status == .bound || t.status == .starting) && t.braids.all (braidStands s t)))

/-- CTXSV (R331): a command's outstanding fault record answers before the other conditions. -/
def execCtxsv (f : Fields) (s : State) : Host.Outcome State Fault Refusal :=
  perform (.ctxsv f) s fun e =>
    withImage e fun s h off =>
      match teamAt s e.t.part (e.b.sreg f.b.toNat).toNat with
      | none => status e s 1
      | some t =>
        if t.trackers.any fun o => o.any fun c => c.fault.isSome then status e s 3
        else if !teamStands s t then status e s 1
        else if t.trackers.any fun o => o.any fun c => !t.inTurn c then .wait e.s e.act .plain
        else
          let bytes := imageBytes s t
          if h.bound < off + bytes.length then imageFault e s { cause := 1, detail := 3 } (h.base + off)
          else
            match saveParity s t with
            | none => status e (noteFault s t { cause := 0x0A, detail := 1 }) 2
            | some s =>
              match writeBytes s e.t.part e.t.ctx (h.base + off) bytes with
              | (s, .error d) => imageFault e s d (h.base + off)
              | (s, .ok ()) => status e (if f.x.getLsbD 0 then saveTeam s t else s) 0

/-- CTXLD (R332): with START = 1 the team runs, together with its unit (R30, R33). -/
def execCtxld (f : Fields) (s : State) : Host.Outcome State Fault Refusal :=
  perform (.ctxld f) s fun e =>
    withImage e fun s h off =>
      match s.teams.find? fun t => t.part == e.t.part && t.status == .prepared && t.binding == (e.b.sreg f.b.toNat).toNat with
      | none => status e s 1
      | some t =>
        let at_ := h.base + off
        let read := fun (s : State) (n : Nat) => readBytes s e.t.part e.t.ctx at_ n .read
        if h.bound < off + 4096 then imageFault e s { cause := 1, detail := 3 } at_
        else
          match read s 4096 with
          | (s, .error d) => imageFault e s d at_
          | (s, .ok area) =>
            let slots := (setBits 64 (bitsOf (leNat area) 0x20FF 0x20C0)).length
            if !imageFits (Memory.write [] 0 area) t (s.doneRecOf t) then status e s 1
            else if h.bound < off + imageLen t slots then imageFault e s { cause := 1, detail := 3 } at_
            else
              match read s (imageLen t slots) with
              | (s, .error d) => imageFault e s d at_
              | (s, .ok bytes) =>
                match restoreTeam s t bytes with
                | .misfit => status e s 1
                | .later => .wait e.s e.act .plain
                | .refused d => status e (noteFault s t { cause := 9, detail := d, addr := at_ }) (2 + 256 * d)
                | .done u =>
                  let s := settleRestored s u
                  status e (if f.x.getLsbD 0 then startNow (s.modTeam u.uid fun t => { t with status := .starting }) u.uid else s) 0

/-! Translations (R333, R355-R358) -/

/-- A held entry is on the walk path of a page of a range (R356). -/
def onPath (h : Held) (first n : Nat) : Bool :=
  h.level < 4 &&
    let lo := (levelBits h.level).2
    first * 4096 / 2 ^ lo ≤ h.tag && h.tag ≤ (first + n - 1) * 4096 / 2 ^ lo

/-- TLBI (R333, R356); the pages that KIND 10 counts are of 4 KiB (DESIGN CHOICE, log entry 115). -/
def execTlbi (f : Fields) (s : State) : Host.Outcome State Fault Refusal :=
  perform (.tlbi f) s fun e =>
    let ctx := (e.b.sreg f.b.toNat).toNat
    if 65536 ≤ ctx then .trap { cause := 4, opnd := 3, lanes := e.act, value := ctx }
    else
      let first := (e.b.sreg f.a.toNat).toNat % 2 ^ 56 / 4096
      let n := if f.len == 0 then 1 else f.e.toNat
      let gone := fun (h : Held) => h.part == e.t.part &&
        (match f.x.toNat % 4 with
         | 0 => true
         | 1 => h.ctx == ctx
         | _ => h.ctx == ctx && onPath h first n)
      .go { e.s with held := e.s.held.filter fun h => !gone h }

/-- The entries that a walk from a table uses at some levels downward (R355, R356), as the walker meets each of them:
valid and well formed ones alone, up to the leaf. -/
def walkPath (part ctx va : Nat) : Nat → Nat → State → State × List Held
  | lvl, table, s =>
    let (hi, lo) := levelBits lvl
    let (s, e) := walkEntry s part ctx lvl (va / 2 ^ lo) (s.mem.nat (table + 8 * bitsOf va hi lo) 8)
    if !entryOk lvl e then (s, [])
    else
      let h : Held := ⟨part, ctx, lvl, va / 2 ^ lo, word e⟩
      match lvl with
      | 0 => (s, [h])
      | k + 1 =>
        if bitAt e 3 then (s, [h])
        else
          let (s, rest) := walkPath part ctx va k (bitsOf e 51 12 * 4096) s
          (s, h :: rest)

/-- TRANSLATION_WALK (R355, R356): a walk completes, and the device may keep the valid entries that it used. The
accesses that wait for it make their own steps, and fault there where the walk fails. -/
def execTranslationWalk (part ctx va : Nat) (kind : AccessKind) (s : State) : Host.Outcome State Fault Refusal :=
  .next (match s.part? part with
    | none => s
    | some p =>
      match translate s part ctx va kind with
      | (s, .error _) => s
      | (s, .ok _) =>
        let kept := s.held.find? fun h => h.part == part && h.ctx == ctx && h.level == 4
        let (s, d) := if p.reg 0x0101 0 ≤ ctx then (s, (kept.map (·.entry.toNat)).getD 0)
          else walkEntry s part ctx 4 0 (s.mem.nat (p.reg 0x0100 0 + 16 * ctx) 16)
        let (s, rest) := if descriptorOk d then walkPath part ctx va 3 (bitsOf d 51 16 * 65536) s else (s, [])
        let path := (if descriptorOk d then [⟨part, ctx, 4, 0, word d⟩] else []) ++ rest
        let same := fun (a b : Held) => a.part == b.part && a.ctx == b.ctx && a.level == b.level && a.tag == b.tag
        { s with held := s.held ++ path.filter fun h => !(s.held.any (same h)) })

end Sys2Proof.Machine
end

