-- ==== Sys2Proof/Machine/Platform.lean ====
section
/-! DEFINITION. The platform: power and heat (R347, R350, R396, R397), the host ports (R338, R339, R366, R392,
R393), time (R394), attestation, the life cycle, wipes, partitions, reset and bring-up (R395, R398-R401). -/

namespace Sys2Proof.Machine

/-! Power and heat -/

/-- The partition that holds a core's quarter (R395). -/
def corePart (s : State) (core : Nat) : Option Partition :=
  s.parts.find? fun p => bitAt p.quarters (core / Config.coresPerQuarter)

/-- THERMAL_MIGRATION (R347): the longest-resident team of at least 2 ms is shed by a stop; a core with none left, while
it stays hot, is throttled under R350. Temperatures are in 0.125 °C. -/
def execThermalMigration (core temp : Nat) (s : State) : Host.Outcome State Fault Refusal :=
  .next (match corePart s core with
    | none => s
    | some p =>
      if temp ≤ p.reg 0x0413 0 then { s with hot := s.hot.filter (· != core) }
      else
        let old := s.teams.filter fun t =>
          t.core == core && t.status == .running && !t.isSup && !t.stopping && t.since + 2 * msClocks ≤ s.clock
        match old.foldl (fun (m : Option Team) t => match m with
            | none => some t
            | some u => if t.since < u.since then some t else m) none with
        | some t => stopUnit s t
        | none => { s with hot := insertNat core s.hot })

/-- THERMAL_TRIP (R396): a core that reaches 115 °C stops issuing. -/
def execThermalTrip (core temp : Nat) (s : State) : Host.Outcome State Fault Refusal :=
  .next (if temp < 8 * 115 || Config.cores ≤ core || s.tripped.contains core then s
    else { s with tripped := insertNat core s.tripped, gazebo := s.gazebo ++ [.cores core 1] })

/-- THERMAL_RECOVER (R396): it issues again at 105 °C. -/
def execThermalRecover (core temp : Nat) (s : State) : Host.Outcome State Fault Refusal :=
  .next (if 8 * 105 < temp then s
    else { s with tripped := s.tripped.filter (· != core) })

/-- The next number that the spec leaves to the implementation. -/
def takeUnstated (s : State) (bound : Nat) : State × Nat :=
  ({ s with choices := s.choices + 1 }, (Config.unstated s.choices).toNat % bound)

/-- The 64 bytes of a telemetry record (R397). -/
def telemetryBytes (s : State) (p : Partition) (r : PowerReading) : List Byte :=
  leBytes 8 (p.reg 0x0422 0) ++ List.replicate 24 0 ++ leBytes 1 p.holding ++ leBytes 1 p.throttle
    ++ leBytes 4 r.proc.toNat ++ leBytes 4 r.vcore.toNat ++ leBytes 6 r.temp.toNat ++ leBytes 2 p.ceil
    ++ leBytes 2 p.floor ++ leBytes 2 r.partW ++ leBytes 2 r.pkgW ++ leBytes 8 s.time

/-- A filler team of a partition waits to be bound (R349). -/
def fillerWaits (s : State) (part : Nat) : Bool :=
  s.launches.any fun n => n.part == part && n.prio == 0 && n.phase == .admitted && !n.killed
    && (List.range n.grid).any fun i => !n.started.contains i && !n.barred.contains i

/-- POWER_SAMPLE (R350, R396, R397): pwrnow, the limiter's floor and ceiling, throttling above the last ceiling or
on a hot core, at least one clock of 64, holding steps below the last floor where no filler waits to be bound first, and
the telemetry record. How many clocks and steps is not stated (log entry 4). -/
def execPowerSample (part : Nat) (r : PowerReading) (s : State) : Host.Outcome State Fault Refusal :=
  .next (match s.part? part with
    | none => s
    | some p =>
      let hot := s.hot.any fun c => bitAt p.quarters (c / Config.coresPerQuarter)
      let (s, thr) := if p.ceil < r.partW || hot then
          let (s, k) := takeUnstated s 63
          (s, k + 1)
        else (s, 0)
      let (s, hold) := if r.partW < p.floor then
          if fillerWaits s part then takeUnstated s 101
          else
            let (s, k) := takeUnstated s 100
            (s, k + 1)
        else (s, 0)
      let slope := p.reg 0x0410 0
      let s := s.modPart part fun p =>
        { p.setReg 0x0412 0 r.partW with
          floor := r.partW - slope, ceil := min (p.reg 0x0411 0) (r.partW + slope), throttle := thr, holding := hold }
      match s.part? part with
      | none => s
      | some p =>
        if p.stage < 5 then s
        else
          match writeBytes s part 0 (p.reg 0x0420 0 + 64 * (p.reg 0x0422 0 % p.reg 0x0421 0)) (telemetryBytes s p r) with
          | (_, .error _) => s
          | (s, .ok ()) => s.modPart part fun p => p.bump 0x0422 0 1)

/-! What Gazebo sends to the host (R366, R392, R397) -/

/-- Records of a ring, 64 bytes each, from one sequence number to another. -/
def ringRecords (s : State) (part base len : Nat) (from_ to_ : Nat) : List Byte :=
  (List.range (to_ - from_)).flatMap fun k =>
    match readBytes s part 0 (base + 64 * ((from_ + k) % len)) 64 .read with
    | (_, .ok bs) => bs
    | (_, .error _) => []

/-- TELEMETRY_RING_SEND (R392, R397): the telemetry records not sent yet and still in the ring, and the trace and
fault records not consumed. -/
def execTelemetryRingSend (part : Nat) (s : State) : Host.Outcome State Fault Refusal :=
  .next (match s.part? part with
    | none => s
    | some p =>
      let head := p.reg 0x0422 0
      let len := p.reg 0x0421 0
      let tel := ringRecords s part (p.reg 0x0420 0) len (max p.telSent (head - len)) head
      let tr := ringRecords s part (p.reg 0x0310 0) (p.reg 0x0311 0) (p.reg 0x0313 0) (p.reg 0x0312 0)
      let fq := ringRecords s part (p.reg 0x0010 0) (p.reg 0x0011 0) (p.reg 0x0013 0) (p.reg 0x0012 0)
      { s.modPart part fun p => { p with telSent := head } with
        hostOut := s.hostOut ++ [.data part 0 tel, .data part 1 tr, .data part 2 fq] })

/-- DUMP_SEND (R366): the oldest dump not sent, behind its descriptor. -/
def execDumpSend (part : Nat) (s : State) : Host.Outcome State Fault Refusal :=
  .next (match s.part? part with
    | none => s
    | some p =>
      match p.dumps.find? fun d => !d.sent with
      | none => s
      | some d =>
        let bytes := leBytes 4 d.len ++ leBytes 4 d.vblk ++ leBytes 8 d.time ++ s.mem.read (p.reg 0x0121 0 + d.off) d.len
        { s.modPart part fun p => { p with dumps := p.dumps.map fun x => if x == d then { x with sent := true } else x } with
          hostOut := s.hostOut ++ [.data part 3 bytes] })

/-- DUMP_ACKNOWLEDGED (R366): the space of the oldest dump sent is free. -/
def execDumpAcknowledged (part : Nat) (s : State) : Host.Outcome State Fault Refusal :=
  .next (s.modPart part fun p =>
    match p.dumps with
    | d :: rest => if d.sent then { p with dumps := rest } else p
    | [] => p)

/-! The host ports -/

/-- A region as it now stands: a landing area lies where its registers say (R337, R393). -/
def regionNow (p : Partition) (r : Region) : Region :=
  match r.area with
  | some a => { r with base := p.reg 0x0510 a, len := p.reg 0x0511 a, ctx := p.reg 0x0102 a }
  | none => r

/-- Bytes lie in a region, and a queue pair and key reach it (R393). -/
def regionTakes (qp : Nat) (rkey : BitVec 32) (addr len : Nat) (r : Region) : Bool :=
  r.rkey == rkey && r.base ≤ addr && addr + len ≤ r.base + r.len && r.qp.all (· == qp)

/-- Puts a slot that is armed now behind those armed earlier, and behind those of the same clock whose area has no
higher number (R339). -/
def insertArmed (clock area : Nat) (q : List (Nat × Nat)) : List (Nat × Nat) :=
  let before := q.takeWhile fun x => x.1 < clock || (x.1 == clock && x.2 ≤ area)
  before ++ (clock, area) :: q.drop before.length

/-- The host ports of a partition (R395). -/
def portOk (p : Partition) (port : Nat) : Bool :=
  match bitsOf (p.reg 0x0002 0) 3 2 with
  | 0 => port < 2
  | 1 => port == p.num
  | _ => port == p.num / 2

/-- Changes a queue pair. -/
def Partition.modQp (p : Partition) (qp : Nat) (g : QueuePair → QueuePair) : Partition :=
  { p with qps := p.qps.map fun q => if q.num == qp then g q else q }

/-- The write that a packet belongs to, as far as it goes on from here; none where the packets of a write are out of
place or of a wrong length (R392). -/
def packetWrite (q : QueuePair) (w : RdmaWrite) : Option HostWrite :=
  let n := w.data.length
  match w.op, q.write with
  | .first, none => if n == q.mtu && n < w.len then some ⟨w.rkey, w.addr, w.len, w.len⟩ else none
  | .only, none => if n == w.len && n ≤ q.mtu then some ⟨w.rkey, w.addr, w.len, w.len⟩ else none
  | .middle, some x => if n == q.mtu && n < x.left then some x else none
  | .last, some x => if n == x.left && n ≤ q.mtu then some x else none
  | _, _ => none

/-- The bytes of a write have all been performed: a landing area counts them and arms its slots (R338, R393). -/
def countWrite (s : State) (part len : Nat) (r : Region) : State :=
  match r.area with
  | none => s
  | some a =>
    s.modPart part fun p =>
      let old := p.reg 0x0512 a
      let new := old + len
      { p.setReg 0x0512 a new with
        armed := (List.range (new / 128 - old / 128)).foldl (fun q _ => insertArmed s.clock a q) p.armed }

/-- INVALID_REQUEST (R392): NAK, and the queue pair enters the error state. -/
def invalidRequest (s : State) (part qp : Nat) : State :=
  { s.modPart part fun p => p.modQp qp fun q => { q with error := true } with
    hostOut := s.hostOut ++ [.nakInvalid part qp] }

/-- RDMA_WRITE (R338, R392, R393): packets are performed in PSN order. A packet that comes again is acknowledged, one
ahead of its turn is not performed. -/
def execRdmaWrite (w : RdmaWrite) (s : State) : Host.Outcome State Fault Refusal :=
  .next (match s.part? w.part with
    | none => s
    | some p =>
      let answer := fun (s : State) (m : HostMsg) => { s with hostOut := s.hostOut ++ [m] }
      if p.wiping || !p.open_ then answer s (.rnr w.part w.qp)
      else
        match p.qps.find? (·.num == w.qp) with
        | none => answer s (.nakAccess w.part w.qp)
        | some q =>
          if q.error then s
          else if q.port != w.port then answer s (.nakAccess w.part w.qp)
          else if w.psn != q.psn then
            answer s (if (w.psn + 2 ^ 24 - q.psn) % 2 ^ 24 < 2 ^ 23 then .nakSequence w.part w.qp else .ack w.part w.qp)
          else
            match packetWrite q w with
            | none => invalidRequest s w.part w.qp
            | some x =>
              match (p.regions.map (regionNow p)).find? (regionTakes w.qp x.rkey x.addr x.left) with
              | none => answer s (.nakAccess w.part w.qp)
              | some r =>
                match writeBytes s w.part r.ctx x.addr w.data with
                | (_, .error _) => answer s (.nakAccess w.part w.qp)
                | (s, .ok ()) =>
                  let n := w.data.length
                  let whole := n == x.left
                  let s := answer (s.modPart w.part fun p => p.modQp w.qp fun q =>
                    { q with
                      psn := (q.psn + 1) % 2 ^ 24
                      write := if whole then none else some { x with addr := x.addr + n, left := x.left - n } })
                    (.ack w.part w.qp)
                  if whole then countWrite s w.part x.len r else s)

/-- LANDING_SLOT_ENTERS_QUEUE (R338, R339): the slot that was armed first. -/
def execLandingSlotEntersQueue (part area : Nat) (s : State) : Host.Outcome State Fault Refusal :=
  .next (match s.part? part with
    | none => s
    | some p =>
      if (p.armed.head?.map (·.2)) != some area || Config.queueLength ≤ p.queue.length then s
      else
        let done := p.reg 0x0513 area
        let n := p.reg 0x0511 area / 128
        let entry : QueueEntry :=
          { addr := p.reg 0x0510 area + 128 * (done % n), ctx := p.reg 0x0102 area, vc := [], parent := none }
        { s.modPart part fun p =>
            { p.setReg 0x0513 area (done + 1) with armed := p.armed.drop 1, queue := p.queue ++ [entry] } with
          gazebo := s.gazebo ++ [.slotEntered part area] })

/-- INVALID_REQUEST (R392). -/
def execInvalidRequest (part qp : Nat) (s : State) : Host.Outcome State Fault Refusal :=
  .next (match s.part? part with
    | none => s
    | some p => if p.qps.any fun q => q.num == qp then invalidRequest s part qp else s)

/-- A region that a partition may take on (R392, R393): its length, and no landing area twice. -/
def regionOk (p : Partition) (r : Region) : Bool :=
  r.len % 128 == 0 && match r.area with
    | none => true
    | some a => a < 8 && r.qp.isSome && !(p.regions.any fun x => x.area == some a)

/-- QUEUE_PAIR_CREATE (R392, R395): at most 64 queue pairs and 64 regions, on a port of the partition. -/
def execQueuePairCreate (part : Nat) (q : QpSpec) (regions : List Region) (s : State) : Host.Outcome State Fault Refusal :=
  .next (match s.part? part with
    | none => s
    | some p =>
      if 64 ≤ p.qps.length || (p.qps.any fun x => x.num == q.num) || s.bootstage < 3 || !portOk p q.port
          || !([1024, 2048, 4096].contains q.mtu) || 2 ^ 24 ≤ q.psn then s
      else
        let new : QueuePair := { num := q.num, port := q.port, mtu := q.mtu, psn := q.psn, write := none, error := false }
        s.modPart part fun p =>
          regions.foldl (fun p r => if regionOk p r && p.regions.length < 64 then { p with regions := p.regions ++ [r] } else p)
            { p with qps := p.qps ++ [new] })

/-! Bring-up, after its wipe (R401) -/

/-- Quarters of partition n of a shape (R395). -/
def shapeQuarters (shape n : Nat) : Nat :=
  match shape with
  | 0 => 15
  | 1 => 3 * 4 ^ n
  | _ => 2 ^ n
def shapeCount (shape : Nat) : Nat :=
  match shape with
  | 0 => 1
  | 1 => 2
  | _ => 4

/-- Step 5 for a partition: partid, supslots and the limiter registers (R326, R395, R396). -/
def bringUpPart (s : State) (b : BringUp) (p : Partition) : Partition :=
  let q := shapeQuarters b.shape p.num
  let k := shapeCount b.shape
  let p := ((p.setReg 0x0002 0 (p.num + 4 * b.shape + 16 * q)).setReg 0x0410 0 (max 1 (s.pkgSlope / k))).setReg
    0x0411 0 (max 100 (4500 / k))
  (b.supslots.filter fun x => bitAt q (x.1 / Config.coresPerQuarter)).foldl (fun p x => p.setReg 0x0050 x.1 x.2) p

/-- Step 7 for a partition: the schedule and route tables, at most 32,768 routes, the keys of its links, and fabcoord
with the grid's extents and the job (R367, R369, R375). -/
def installTables (s : State) (b : BringUp) (p : Partition) : State :=
  let mine := (b.routes.filter fun r => r.1 == p.num).take 32768
  let s := { s with sched := b.sched, routes := s.routes.filter (fun r => r.1 != p.num) ++ mine }
  let s := (b.keys.filter fun k => bitAt p.quarters (k.1 / 1024)).foldl (fun s k => installKey s k.1 k.2) s
  (b.fabric.filter fun x => x.1 == p.num).foldl (fun s x => s.modPart p.num fun p =>
    ((p.setReg 0x0200 0 (x.2.1 % 2 ^ 30)).setReg 0x0201 0 (x.2.2.1 % 2 ^ 30)).setReg 0x0202 0 (x.2.2.2 % 2 ^ 16)) s

/-- A register of a partition has been written since its reset. -/
def Partition.wrote (p : Partition) (num : Nat) : Bool := p.regs.any fun x => x.1 == regKey num 0

/-- Step 8 of a partition: a supervisor team is bound, and it has set the fault, spill and shadow registers. -/
def supReady (s : State) (p : Partition) : Bool :=
  p.reg 0x0010 0 != 0 && p.wrote 0x0020 && p.wrote 0x0030 && s.teams.any fun t => t.isSup && t.part == p.num

/-- Eight words of a measurement. -/
def words8 (ws : List Word) : List Word := (ws ++ List.replicate 8 0).take 8

/-- The next step of a partition's bring-up completes, or none does now (R401). -/
def bootStep (s : State) (b : BringUp) (p : Partition) : Option State :=
  let go := fun (s : State) (g : Partition → Partition) =>
    if b.fails == some (p.stage + 1) then
      some { s.modPart p.num fun p => { p with stuck := true } with hostOut := s.hostOut ++ [.failed p.num (p.stage + 1)] }
    else some (s.modPart p.num fun p => { g p with stage := p.stage + 1 })
  let failing := b.fails == some (p.stage + 1)
  if p.stuck || p.wiping then none
  else
    match p.stage with
    | 3 => go s id
    | 4 => go (if failing then s else { s with meas := s.meas.take 16 ++ words8 b.policyMeas }) (bringUpPart s b)
    | 5 => if s.ptpLocked then go s id else none
    | 6 => go (if failing then s else installTables s b p) id
    | 7 => if supReady s p then go s id else none
    | 8 => go s fun p => { p with open_ := true }
    | _ => none

/-- A partition's bring-up goes as far as it can. -/
def bootPart (b : BringUp) (num : Nat) : Nat → State → State
  | 0, s => s
  | fuel + 1, s =>
    match (s.part? num).bind (bootStep s b) with
    | none => s
    | some s => bootPart b num fuel s

/-- Bring-up goes as far as it can in every partition. -/
def settleBoot (s : State) : State :=
  match s.boot with
  | none => s
  | some b => (s.parts.map (·.num)).foldl (fun s n => bootPart b n 7 s) s

/-! Wipe (R400) -/

/-- Every team and launch of some partitions is killed (R395, R399). -/
def killAll (s : State) (parts : List Nat) : State :=
  let s := (s.launches.filter fun n => parts.contains n.part && n.phase != .ended).foldl killLaunch s
  let gone := (s.teams.filter fun t => parts.contains t.part).map (·.uid)
  let s := gone.foldl removeTeam s
  { s with launches := s.launches.filter fun n => !parts.contains n.part
           txs := s.txs.filter fun x => !gone.contains x.uid, reds := s.reds.filter fun x => !parts.contains x.part
           deferred := s.deferred.filter fun x => !parts.contains x.part, rcv := s.rcv.filter fun x => !parts.contains x.part
           held := s.held.filter fun h => !parts.contains h.part }

/-- The quarter of a physical address, of a core, of a chip-scratchpad byte and of a link. -/
def addrQuarter (a : Nat) : Nat :=
  if a < Config.dramBytes then a / Config.quarterBytes else (a - Config.farBase) / Config.farPortBytes / 2
def linkQuarter (k : Nat) : Nat := k / 1024

/-- Writes zero to the memories and key slots of quarters, and asks their CXL devices to sanitise (R400). -/
def wipe (s : State) (quarters : Nat) : State :=
  let hit := fun (q : Nat) => bitAt quarters q
  { s with
    mem := s.mem.filter fun c => !hit (addrQuarter c.1)
    chip := s.chip.filter fun c => !hit (c.1 / Config.chipPart)
    soft := s.soft.filter fun x =>
      match x with
      | .poison line _ => !hit (addrQuarter (64 * line))
      | .single w => !hit (addrQuarter (8 * w))
      | _ => true
    copies := s.copies.filter fun c => !hit (c.1 / Config.coresPerQuarter)
    shadow := s.shadow.filter fun e =>
      match e.kind with
      | .phys => !hit (addrQuarter (64 * e.granule))
      | .chip => !hit (64 * e.granule / Config.chipPart)
      | _ => true
    locRels := s.locRels.filter fun r =>
      match r.kind with
      | .phys => !hit (addrQuarter r.addr)
      | .chip => !hit (r.addr / Config.chipPart)
      | _ => true
    links := s.links.map fun l => if hit (linkQuarter l.num) then { Link.new l.num with up := l.up } else l
    relay := s.relay.filter fun x => !hit (linkQuarter x.link)
    cxl := s.cxl.map fun c => if hit (c.port / 2) then { c with clean := false } else c }

/-- WIPE_COMPLETE (R400, R401): launches may be validated again, and bring-up or the life cycle goes on. -/
def execWipeComplete (part : Nat) (s : State) : Host.Outcome State Fault Refusal :=
  .next (match s.part? part with
    | none => s
    | some p =>
      if !p.wiping then s
      else
        let s := s.modPart part fun p => { p with wiping := false }
        let s := match s.lcNext with
          | some t =>
            if s.parts.all fun p => !p.wiping then { s with lcstate := t, lcNext := none, idKey := s.idKey && t != 3 } else s
          | none => s
        settleBoot s)

/-- CXL_SANITIZE_COMPLETE (R400): the device may be mapped. -/
def execCxlSanitizeComplete (port : Nat) (s : State) : Host.Outcome State Fault Refusal :=
  .next { s with cxl := s.cxl.map fun c => if c.port == port then { c with clean := true } else c }

/-! Reset (R401) -/

/-- Partitions of a shape, before step 5: step 4 is under way where step 3 has been completed. -/
def freshParts (shape stage : Nat) : List Partition :=
  (List.range (shapeCount shape)).map fun n => { Partition.reset n with wiping := stage == 3, stage }

/-- The root image verifies (R398, R399): its signature under a key whose digest is the one fused, and in the
manufacturing state it is one of Slomor's test images. -/
def imageOk (s : State) (b : BringUp) : Bool :=
  b.sigOk && b.keyDigest == s.fusedKey && (s.lcstate != 0 || b.testImage)

/-- The last step that a bring-up completes for the whole device (R401). -/
def deviceStage (s : State) (b : BringUp) : Nat :=
  if b.fails == some 1 then 0
  else if !imageOk s b || b.fails == some 2 then 1
  else if b.fails == some 3 then 2 else 3

/-- Bring-up from step 1: what is fused, provisioned or outside the device stays; a root image that does not
verify leaves the device in reset at stage 1, and the device identity key is generated in the manufacturing state
(R398). -/
def resetDevice (s : State) (b : BringUp) : State :=
  let stage := deviceStage s b
  { State.reset with
    devid := s.devid, lcstate := s.lcstate, fusedKey := s.fusedKey, idKey := s.idKey || (s.lcstate == 0 && 2 ≤ stage)
    pkgSlope := b.slope, choices := s.choices
    hostOut := s.hostOut, gazebo := s.gazebo, linkOut := s.linkOut, inputs := s.inputs, shadowRoom := s.shadowRoom
    bootstage := stage
    boot := if stage == 3 then some b else none
    meas := if stage == 0 then List.replicate 24 0 else words8 b.romMeas ++ words8 b.rootMeas ++ List.replicate 8 0
    parts := freshParts b.shape stage
    cxl := b.cxl.map fun c => { port := c.1, bytes := c.2, clean := false } }

/-- POWER_ON_RESET (R401). -/
def execPowerOnReset (b : BringUp) (s : State) : Host.Outcome State Fault Refusal := .next (resetDevice s b)

/-- WARM_RESET (R401). -/
def execWarmReset (b : BringUp) (s : State) : Host.Outcome State Fault Refusal := .next (resetDevice s b)

/-- PARTITION_RESET (R400, R401): bring-up from step 4 for the partition's quarters; the others run on. -/
def execPartitionReset (part : Nat) (s : State) : Host.Outcome State Fault Refusal :=
  .next (match s.part? part with
    | none => s
    | some p =>
      if !rootRuns s then s
      else
        (wipe (killAll s [part]) p.quarters).modPart part fun p => { Partition.reset p.num with wiping := true, stage := 3 })

/-- PARTITION_SHAPE_CHANGE (R395): every team is killed, the device is wiped, and the new partitions come up. -/
def execPartitionShapeChange (shape : Nat) (s : State) : Host.Outcome State Fault Refusal :=
  .next (if 3 ≤ shape || !rootRuns s then s
    else
      let s := wipe (killAll s (s.parts.map (·.num))) 15
      { s with parts := freshParts shape 3, boot := s.boot.map fun b => { b with shape } })

/-! Life cycle and attestation (R398, R399) -/

/-- LIFE_CYCLE_COMMAND (R399): accepted by the root when signed and one step forward. -/
def execLifeCycleCommand (target : Nat) (signed : Bool) (s : State) : Host.Outcome State Fault Refusal :=
  .next (if !rootRuns s || !signed || target != s.lcstate + 1 || 3 < target || s.lcNext.isSome then s
    else
      let s := killAll s (s.parts.map (·.num))
      let s := s.links.foldl (fun s l => if l.up then dropLink s l.num else s) s
      { wipe s 15 with lcNext := some target, parts := s.parts.map fun p => { p with wiping := true, dumps := [] } })

/-- ATTESTATION_REQUEST (R398): the report, signed under the identity key. -/
def execAttestationRequest (nonce : BitVec 256) (s : State) : Host.Outcome State Fault Refusal :=
  .next (if s.bootstage < 3 || !s.idKey then s
    else
      let ids := s.parts.map fun p => word (p.reg 0x0002 0)
      let body := s.meas ++ [word s.lcstate] ++ ids ++ (List.range 4).map fun k => word (nonce.toNat / 2 ^ (64 * k) % 2 ^ 64)
      { s with hostOut := s.hostOut ++ [.attest s.meas s.lcstate ids nonce (Config.sign body)] })

/-! Time (R394) -/

/-- The offset that a clock shows at relock takes the fabric links down where it exceeds 200 ns (R394). -/
def relock (s : State) (m : PtpMessage) : State :=
  let s := { s with ptpLocked := true, ptpSynced := true, ptpPort1 := m.port1, ptpOffset := m.offset, slew := - m.offset }
  if 200 < m.offset.natAbs then s.links.foldl (fun s l => if l.up then dropLink s l.num else s) s else s

/-- PTP_MESSAGE (R394): before the first lock the clock is set; from then on it is only slewed. A message by which a
clock that has lost its lock locks again is a relock. -/
def execPtpMessage (m : PtpMessage) (s : State) : Host.Outcome State Fault Refusal :=
  .next (settleBoot
    (if s.ptpLocked then { s with ptpOffset := m.offset, ptpPort1 := m.port1, slew := - m.offset }
    else if !m.locked then { s with ptpOffset := m.offset, ptpPort1 := m.port1 }
    else if s.ptpSynced then relock s m
    else
      { s with
        ptpOffset := m.offset, ptpPort1 := m.port1, ptpLocked := true, ptpSynced := true
        time := (Int.ofNat s.time - m.offset).toNat, slew := 0 }))

/-- PTP_LOCK_LOST (R394): the clock runs free. -/
def execPtpLockLost (s : State) : Host.Outcome State Fault Refusal := .next { s with ptpLocked := false, slew := 0 }

/-- PTP_RELOCK (R394). -/
def execPtpRelock (m : PtpMessage) (s : State) : Host.Outcome State Fault Refusal := .next (settleBoot (relock s m))

end Sys2Proof.Machine
end

