-- ==== Sys2Proof/Machine/Dispatch.lean ====
section
/-! DEFINITION. One arm for every constructor of Instr: the meaning of each instruction and event. -/

namespace Sys2Proof.Machine

/-- What an instruction or event does in a state. -/
def exec (i : Instr) (s : State) : Host.Outcome State Fault Refusal :=
  match i with
  | .nop f => Sys2Proof.Machine.execNop f s
  | .add f => Sys2Proof.Machine.execAdd f s
  | .sub f => Sys2Proof.Machine.execSub f s
  | .addc f => Sys2Proof.Machine.execAddc f s
  | .subb f => Sys2Proof.Machine.execSubb f s
  | .mul f => Sys2Proof.Machine.execMul f s
  | .mulh f => Sys2Proof.Machine.execMulh f s
  | .mad f => Sys2Proof.Machine.execMad f s
  | .div f => Sys2Proof.Machine.execDiv f s
  | .rem f => Sys2Proof.Machine.execRem f s
  | .min f => Sys2Proof.Machine.execMin f s
  | .max f => Sys2Proof.Machine.execMax f s
  | .abs f => Sys2Proof.Machine.execAbs f s
  | .neg f => Sys2Proof.Machine.execNeg f s
  | .and f => Sys2Proof.Machine.execAnd f s
  | .or f => Sys2Proof.Machine.execOr f s
  | .xor f => Sys2Proof.Machine.execXor f s
  | .not f => Sys2Proof.Machine.execNot f s
  | .shl f => Sys2Proof.Machine.execShl f s
  | .shr f => Sys2Proof.Machine.execShr f s
  | .sar f => Sys2Proof.Machine.execSar f s
  | .rot f => Sys2Proof.Machine.execRot f s
  | .bfx f => Sys2Proof.Machine.execBfx f s
  | .bfi f => Sys2Proof.Machine.execBfi f s
  | .popc f => Sys2Proof.Machine.execPopc f s
  | .clz f => Sys2Proof.Machine.execClz f s
  | .brev f => Sys2Proof.Machine.execBrev f s
  | .sel f => Sys2Proof.Machine.execSel f s
  | .cmp f => Sys2Proof.Machine.execCmp f s
  | .lea f => Sys2Proof.Machine.execLea f s
  | .fadd f => Sys2Proof.Machine.execFadd f s
  | .fsub f => Sys2Proof.Machine.execFsub f s
  | .fmul f => Sys2Proof.Machine.execFmul f s
  | .fma f => Sys2Proof.Machine.execFma f s
  | .fmin f => Sys2Proof.Machine.execFmin f s
  | .fmax f => Sys2Proof.Machine.execFmax f s
  | .fcmp f => Sys2Proof.Machine.execFcmp f s
  | .fdiv f => Sys2Proof.Machine.execFdiv f s
  | .frcp f => Sys2Proof.Machine.execFrcp f s
  | .frsq f => Sys2Proof.Machine.execFrsq f s
  | .fsqrt f => Sys2Proof.Machine.execFsqrt f s
  | .fexp2 f => Sys2Proof.Machine.execFexp2 f s
  | .flog2 f => Sys2Proof.Machine.execFlog2 f s
  | .fsin f => Sys2Proof.Machine.execFsin f s
  | .fcos f => Sys2Proof.Machine.execFcos f s
  | .frnd f => Sys2Proof.Machine.execFrnd f s
  | .fclass f => Sys2Proof.Machine.execFclass f s
  | .cvt f => Sys2Proof.Machine.execCvt f s
  | .pack f => Sys2Proof.Machine.execPack f s
  | .unpk f => Sys2Proof.Machine.execUnpk f s
  | .qnt f => Sys2Proof.Machine.execQnt f s
  | .qntDerive f => Sys2Proof.Machine.execQntDerive f s
  | .dqnt f => Sys2Proof.Machine.execDqnt f s
  | .hadq f => Sys2Proof.Machine.execHadq f s
  | .tag f => Sys2Proof.Machine.execTag f s
  | .xlr f => Sys2Proof.Machine.execXlr f s
  | .xlb f => Sys2Proof.Machine.execXlb f s
  | .xls f => Sys2Proof.Machine.execXls f s
  | .vote f => Sys2Proof.Machine.execVote f s
  | .matchLanes f => Sys2Proof.Machine.execMatchLanes f s
  | .red f => Sys2Proof.Machine.execRed f s
  | .scan f => Sys2Proof.Machine.execScan f s
  | .mov f => Sys2Proof.Machine.execMov f s
  | .movi f => Sys2Proof.Machine.execMovi f s
  | .mfs f => Sys2Proof.Machine.execMfs f s
  | .mts f => Sys2Proof.Machine.execMts f s
  | .br f => Sys2Proof.Machine.execBr f s
  | .brm f => Sys2Proof.Machine.execBrm f s
  | .jtb f => Sys2Proof.Machine.execJtb f s
  | .call f => Sys2Proof.Machine.execCall f s
  | .calli f => Sys2Proof.Machine.execCalli f s
  | .ret f => Sys2Proof.Machine.execRet f s
  | .exit f => Sys2Proof.Machine.execExit f s
  | .meld f => Sys2Proof.Machine.execMeld f s
  | .mapt f => Sys2Proof.Machine.execMapt f s
  | .unmeld f => Sys2Proof.Machine.execUnmeld f s
  | .barArv f => Sys2Proof.Machine.execBarArv f s
  | .barWait f => Sys2Proof.Machine.execBarWait f s
  | .pharr f => Sys2Proof.Machine.execPharr f s
  | .phwait f => Sys2Proof.Machine.execPhwait f s
  | .tktTake f => Sys2Proof.Machine.execTktTake f s
  | .tktWait f => Sys2Proof.Machine.execTktWait f s
  | .hitchWait f => Sys2Proof.Machine.execHitchWait f s
  | .hitchPass f => Sys2Proof.Machine.execHitchPass f s
  | .fence f => Sys2Proof.Machine.execFence f s
  | .trig f => Sys2Proof.Machine.execTrig f s
  | .yield f => Sys2Proof.Machine.execYield f s
  | .sleep f => Sys2Proof.Machine.execSleep f s
  | .sleepExpiry b => Sys2Proof.Machine.execSleepExpiry b s
  | .launch f => Sys2Proof.Machine.execLaunch f s
  | .launchUni f => Sys2Proof.Machine.execLaunchUni f s
  | .carve f => Sys2Proof.Machine.execCarve f s
  | .carveTakesEffect uid base => Sys2Proof.Machine.execCarveTakesEffect uid base s
  | .detach f => Sys2Proof.Machine.execDetach f s
  | .idemBegin f => Sys2Proof.Machine.execIdemBegin f s
  | .idemEnd f => Sys2Proof.Machine.execIdemEnd f s
  | .trap f => Sys2Proof.Machine.execTrap f s
  | .bkpt f => Sys2Proof.Machine.execBkpt f s
  | .emret f => Sys2Proof.Machine.execEmret f s
  | .rng f => Sys2Proof.Machine.execRng f s
  | .clk f => Sys2Proof.Machine.execClk f s
  | .prog f => Sys2Proof.Machine.execProg f s
  | .illegalEncoding x => Sys2Proof.Machine.execIllegalEncoding x s
  | .ld f => Sys2Proof.Machine.execLd f s
  | .st f => Sys2Proof.Machine.execSt f s
  | .ldu f => Sys2Proof.Machine.execLdu f s
  | .pf f => Sys2Proof.Machine.execPf f s
  | .atom f => Sys2Proof.Machine.execAtom f s
  | .ldx f => Sys2Proof.Machine.execLdx f s
  | .stx f => Sys2Proof.Machine.execStx f s
  | .atx f => Sys2Proof.Machine.execAtx f s
  | .rstx f => Sys2Proof.Machine.execRstx f s
  | .bclose f => Sys2Proof.Machine.execBclose f s
  | .closeTimeout uid bt => Sys2Proof.Machine.execCloseTimeout uid bt s
  | .cpy f => Sys2Proof.Machine.execCpy f s
  | .gath f => Sys2Proof.Machine.execGath f s
  | .scat f => Sys2Proof.Machine.execScat f s
  | .dgn f => Sys2Proof.Machine.execDgn f s
  | .dgl f => Sys2Proof.Machine.execDgl f s
  | .claim f => Sys2Proof.Machine.execClaim f s
  | .release f => Sys2Proof.Machine.execRelease f s
  | .mma f => Sys2Proof.Machine.execMma f s
  | .gmma f => Sys2Proof.Machine.execGmma f s
  | .accz f => Sys2Proof.Machine.execAccz f s
  | .accrd f => Sys2Proof.Machine.execAccrd f s
  | .accwr f => Sys2Proof.Machine.execAccwr f s
  | .accst f => Sys2Proof.Machine.execAccst f s
  | .hadt f => Sys2Proof.Machine.execHadt f s
  | .qtile f => Sys2Proof.Machine.execQtile f s
  | .qpwPost f => Sys2Proof.Machine.execQpwPost f s
  | .qpwArm f => Sys2Proof.Machine.execQpwArm f s
  | .cntAdd f => Sys2Proof.Machine.execCntAdd f s
  | .cntWait f => Sys2Proof.Machine.execCntWait f s
  | .srd f => Sys2Proof.Machine.execSrd f s
  | .swr f => Sys2Proof.Machine.execSwr f s
  | .ctxsv f => Sys2Proof.Machine.execCtxsv f s
  | .ctxld f => Sys2Proof.Machine.execCtxld f s
  | .tlbi f => Sys2Proof.Machine.execTlbi f s
  | .iretResume f => Sys2Proof.Machine.execIretResume f s
  | .iretKill f => Sys2Proof.Machine.execIretKill f s
  | .iretCancel f => Sys2Proof.Machine.execIretCancel f s
  | .engineElementLands uid trk elem => Sys2Proof.Machine.execEngineElementLands uid trk elem s
  | .nodeStart uid off => Sys2Proof.Machine.execNodeStart uid off s
  | .mmaStep uid trk => Sys2Proof.Machine.execMmaStep uid trk s
  | .matrixRowStep uid trk row => Sys2Proof.Machine.execMatrixRowStep uid trk row s
  | .translationWalk part ctx va kind => Sys2Proof.Machine.execTranslationWalk part ctx va kind s
  | .faultRecordPost part => Sys2Proof.Machine.execFaultRecordPost part s
  | .heldExitComplete uid => Sys2Proof.Machine.execHeldExitComplete uid s
  | .launchValidation part => Sys2Proof.Machine.execLaunchValidation part s
  | .predecessorPoll launch => Sys2Proof.Machine.execPredecessorPoll launch s
  | .teamKill launch index => Sys2Proof.Machine.execTeamKill launch index s
  | .launchKill part doneRec => Sys2Proof.Machine.execLaunchKill part doneRec s
  | .bind r sup => Sys2Proof.Machine.execBind r sup s
  | .prepareForRestore r => Sys2Proof.Machine.execPrepareForRestore r s
  | .stop r => Sys2Proof.Machine.execStop r s
  | .teamSaved uid off => Sys2Proof.Machine.execTeamSaved uid off s
  | .move r => Sys2Proof.Machine.execMove r s
  | .start r => Sys2Proof.Machine.execStart r s
  | .releaseBinding r => Sys2Proof.Machine.execReleaseBinding r s
  | .headWaitExpiry part launch index victims => Sys2Proof.Machine.execHeadWaitExpiry part launch index victims s
  | .stopReportExpiry uid => Sys2Proof.Machine.execStopReportExpiry uid s
  | .thermalMigration core temp => Sys2Proof.Machine.execThermalMigration core temp s
  | .thermalTrip core temp => Sys2Proof.Machine.execThermalTrip core temp s
  | .thermalRecover core temp => Sys2Proof.Machine.execThermalRecover core temp s
  | .powerSample part p => Sys2Proof.Machine.execPowerSample part p s
  | .pauseRequest m => Sys2Proof.Machine.execPauseRequest m s
  | .pause m => Sys2Proof.Machine.execPause m s
  | .paused m => Sys2Proof.Machine.execPaused m s
  | .save m => Sys2Proof.Machine.execSave m s
  | .ready m => Sys2Proof.Machine.execReady m s
  | .go m => Sys2Proof.Machine.execGo m s
  | .fail m => Sys2Proof.Machine.execFail m s
  | .validated m => Sys2Proof.Machine.execValidated m s
  | .storeRecord part r => Sys2Proof.Machine.execStoreRecord part r s
  | .loadRecord part r => Sys2Proof.Machine.execLoadRecord part r s
  | .loadReply part r => Sys2Proof.Machine.execLoadReply part r s
  | .atomicRecord part r => Sys2Proof.Machine.execAtomicRecord part r s
  | .atomicReply part r => Sys2Proof.Machine.execAtomicReply part r s
  | .reduceContribution part r => Sys2Proof.Machine.execReduceContribution part r s
  | .acknowledgement part r => Sys2Proof.Machine.execAcknowledgement part r s
  | .batchClose part r => Sys2Proof.Machine.execBatchClose part r s
  | .closeReply part r => Sys2Proof.Machine.execCloseReply part r s
  | .readyToReceive part m => Sys2Proof.Machine.execReadyToReceive part m s
  | .workEntryReady uid entry => Sys2Proof.Machine.execWorkEntryReady uid entry s
  | .chunk part m => Sys2Proof.Machine.execChunk part m s
  | .spillRefetch uid entry chunk => Sys2Proof.Machine.execSpillRefetch uid entry chunk s
  | .dataFlit link f => Sys2Proof.Machine.execDataFlit link f s
  | .markerFlit link f => Sys2Proof.Machine.execMarkerFlit link f s
  | .controlFlit link f => Sys2Proof.Machine.execControlFlit link f s
  | .idleFlit link f => Sys2Proof.Machine.execIdleFlit link f s
  | .slotStateFlit link f => Sys2Proof.Machine.execSlotStateFlit link f s
  | .retryRequestFlit link f => Sys2Proof.Machine.execRetryRequestFlit link f s
  | .dwellStart time => Sys2Proof.Machine.execDwellStart time s
  | .linkDown link => Sys2Proof.Machine.execLinkDown link s
  | .keyInstall link key => Sys2Proof.Machine.execKeyInstall link key s
  | .keyRequest link => Sys2Proof.Machine.execKeyRequest link s
  | .rdmaWrite w => Sys2Proof.Machine.execRdmaWrite w s
  | .landingSlotEntersQueue part area => Sys2Proof.Machine.execLandingSlotEntersQueue part area s
  | .invalidRequest part qp => Sys2Proof.Machine.execInvalidRequest part qp s
  | .queuePairCreate part q regions => Sys2Proof.Machine.execQueuePairCreate part q regions s
  | .dumpSend part => Sys2Proof.Machine.execDumpSend part s
  | .dumpAcknowledged part => Sys2Proof.Machine.execDumpAcknowledged part s
  | .ptpMessage m => Sys2Proof.Machine.execPtpMessage m s
  | .ptpLockLost => Sys2Proof.Machine.execPtpLockLost s
  | .ptpRelock m => Sys2Proof.Machine.execPtpRelock m s
  | .attestationRequest nonce => Sys2Proof.Machine.execAttestationRequest nonce s
  | .lifeCycleCommand target signed => Sys2Proof.Machine.execLifeCycleCommand target signed s
  | .partitionShapeChange shape => Sys2Proof.Machine.execPartitionShapeChange shape s
  | .cxlSanitizeComplete port => Sys2Proof.Machine.execCxlSanitizeComplete port s
  | .powerOnReset b => Sys2Proof.Machine.execPowerOnReset b s
  | .warmReset b => Sys2Proof.Machine.execWarmReset b s
  | .partitionReset part => Sys2Proof.Machine.execPartitionReset part s
  | .breakpointMatch b pc bp => Sys2Proof.Machine.execBreakpointMatch b pc bp s
  | .debugStopComplete uid => Sys2Proof.Machine.execDebugStopComplete uid s
  | .debugResume part binding => Sys2Proof.Machine.execDebugResume part binding s
  | .debugStep part binding => Sys2Proof.Machine.execDebugStep part binding s
  | .traceSample core b => Sys2Proof.Machine.execTraceSample core b s
  | .traceRecordPost part => Sys2Proof.Machine.execTraceRecordPost part s
  | .follyTrialStart part ctl => Sys2Proof.Machine.execFollyTrialStart part ctl s
  | .follyTrialStop part => Sys2Proof.Machine.execFollyTrialStop part s
  | .follyTrialExpiry part => Sys2Proof.Machine.execFollyTrialExpiry part s
  | .replayArm part binding => Sys2Proof.Machine.execReplayArm part binding s
  | .gazeboRegisterWrite part num idx v => Sys2Proof.Machine.execGazeboRegisterWrite part num idx v s
  | .linkUp link => Sys2Proof.Machine.execLinkUp link s
  | .saveEngineRestore uid off => Sys2Proof.Machine.execSaveEngineRestore uid off s
  | .wipeComplete part => Sys2Proof.Machine.execWipeComplete part s
  | .follyHoldEnd b => Sys2Proof.Machine.execFollyHoldEnd b s
  | .telemetryRingSend part => Sys2Proof.Machine.execTelemetryRingSend part s

end Sys2Proof.Machine
end

