-- ==== Sys2Proof/Machine/Fetch.lean ====
section
/-! DEFINITION. Fetching an instruction (R135, R136, R146): the blocks of a code object, the fetch trap, the
translation fault of a fetch, and the decoder's answer. -/

namespace Sys2Proof.Machine

/-- Under which key the blocks of a team's code are kept: its launch's, or its own for a supervisor team. -/
def Team.codeKey (t : Team) : Nat :=
  match t.launch with
  | some n => 2 * n
  | none => 2 * t.uid + 1

/-- The block of a code object at an address: as memory holds it, or in a version that the fetch unit has kept
(R136); where they differ, which is used is the implementation's choice. -/
def pickBlock (now : List Byte) : List (List Byte) → State → State × List Byte
  | [], s => (s, now)
  | v :: vs, s =>
    if v == now then pickBlock now vs s
    else if Config.choice s.choices then ({ s with choices := s.choices + 1 }, v)
    else pickBlock now vs { s with choices := s.choices + 1 }

/-- Reads the 32-byte fetch block that starts at a program counter. -/
def fetchBlock (s : State) (t : Team) (pc : Nat) : Got (List Byte) :=
  let va := t.code + pc
  match readVirt s t.part t.ctx va 32 .fetch with
  | (s, .error d) => (s, .error d)
  | (s, .ok now) =>
    let kept := (s.fetched.filter fun x => x.1 == t.codeKey && x.2.1 == va).map (·.2.2)
    let s := if kept.contains now then s else { s with fetched := s.fetched ++ [(t.codeKey, va, now)] }
    let (s, bs) := pickBlock now kept s
    (s, .ok bs)

/-- The 16 bytes from a program counter to the end of its block, zero-filled, and from the next block where
eight bytes reach into it; nothing from CODE_LEN on. -/
def codeBytes (s : State) (t : Team) (pc : Nat) : Got (List Byte) :=
  if t.codeLen ≤ pc then (s, .ok [])
  else
    match fetchBlock s t (pc - pc % 32) with
    | (s, .error d) => (s, .error d)
    | (s, .ok b0) =>
      let own := (b0.drop (pc % 32)).take (min 16 (t.codeLen - pc))
      if pc % 32 + 8 ≤ 32 || t.codeLen ≤ pc - pc % 32 + 32 then (s, .ok own)
      else
        match fetchBlock s t (pc - pc % 32 + 32) with
        | (s, .error d) => (s, .error d)
        | (s, .ok b1) => (s, .ok (own ++ b1.take (pc % 32 + 8 - 32)))

/-- What a fetch yields: an instruction or an encoding that is none, the fetch trap with its DETAIL and the
eight bytes that it presents, or a system fault. -/
inductive Fetched where
  | instr (i : Instr)
  | trap (detail : Nat) (raw : BitVec 128)
  | fault (d : Draft)
deriving DecidableEq, Repr

/-- The instruction that the decoder reads from bits, or the illegal encoding as an instruction of its own. -/
def decoded (raw : BitVec 128) : Instr :=
  match decodeBits raw with
  | .ok i => i
  | .error x => .illegalEncoding x

/-- The fetch trap's DETAIL at a program counter (R135), 0 for none. -/
def fetchCheck (codeLen pc : Nat) (raw : BitVec 128) : Nat :=
  if pc % 4 != 0 then 3
  else if pc < 64 || codeLen ≤ pc then 2
  else if 32 < pc % 32 + lenBytes (lenOf raw) then 1
  else 0

/-- Fetches at a program counter: a translation fault comes first, then the fetch trap (R146). -/
def fetch (s : State) (t : Team) (pc : Pc) : State × Fetched :=
  match codeBytes s t pc.toNat with
  | (s, .error d) => (s, .fault { d with addr := pc.toNat })
  | (s, .ok bs) =>
    let raw := BitVec.ofNat 128 (leNat bs)
    match fetchCheck t.codeLen pc.toNat raw with
    | 0 => (s, .instr (decoded raw))
    | n + 1 => (s, .trap (n + 1) (raw &&& 0xFFFFFFFFFFFFFFFF))

/-- The instruction whose field roles the fetch trap's presentation follows (R149). -/
def presented (raw : BitVec 128) : Instr :=
  (assemble (opOf raw).toNat (fieldsOf raw)).getD (.illegalEncoding ⟨raw, 0, 0⟩)

/-- Performs what was fetched for the current issue: the instruction, the fetch trap (R144, R145), or the fault
precise at the instruction (R135). -/
def performFetched (s : State) (x : Fetched) : Host.Outcome State Fault Refusal :=
  match x with
  | .instr i => exec i s
  | .trap detail raw =>
    .next (match s.team? s.cur.uid with
      | none => s
      | some t => s.takeTrap t s.cur.rank (presented raw) raw s.cur.pc { cause := 2, detail, lanes := s.cur.lanes })
  | .fault d =>
    .next (match s.team? s.cur.uid with
      | none => s
      | some t => s.raiseFault t (.braid s.cur.rank s.cur.pc) { d with lanes := s.cur.lanes })

end Sys2Proof.Machine
end

