-- ==== Sys2Proof/Machine/Issue.lean ====
section
/-! DEFINITION. The issue stage: the PC groups of a braid and which are ready (R70-R72), the two that an issue
cycle chooses (R73, R74), what keeps a group from issuing, stops at safe points (R188, R343, R384), and the issue
itself with what it leaves in the braid. -/

namespace Sys2Proof.Machine

/-! Groups -/

/-- The lanes that may form groups: those that have not exited, and in a handler those that entered it (R79). -/
def Braid.eligible (b : Braid) : Mask :=
  match b.handler with
  | some m => b.liveMask &&& m
  | none => b.liveMask

/-- Adds a lane to the group at its program counter. -/
def addLane (pc : Pc) (l : Nat) : List (Pc × Mask) → List (Pc × Mask)
  | [] => [(pc, BitVec.ofNat 32 (2 ^ l))]
  | g :: gs => if g.1 == pc then (pc, g.2 ||| BitVec.ofNat 32 (2 ^ l)) :: gs else g :: addLane pc l gs

/-- The PC groups of a braid (R70, R71), by lowest lane. -/
def Braid.groups (b : Braid) : List (Pc × Mask) :=
  (Mask.lanes b.eligible).foldl (fun gs l => addLane (b.lane l).pc l gs) []

/-- A group that may issue, and what its fetch yielded. -/
structure Cand where
  pc : Pc
  lanes : Mask
  what : Fetched
deriving DecidableEq, Repr

/-- The instruction is a safe point (R131). -/
def Fetched.safe : Fetched → Bool
  | .instr i => i.fields.s
  | _ => false

/-- Age of a group (R73). -/
def Braid.ageOf (b : Braid) (m : Mask) : Nat := (Mask.lanes m).foldl (fun a l => max a (b.lane l).age) 0

/-- The group of a list with the greatest measure; a tie goes to the lower lowest lane, which stands first. -/
def bestBy (f : Cand → Nat) : List Cand → Option Cand
  | [] => none
  | c :: cs =>
    match bestBy f cs with
    | none => some c
    | some d => if f c < f d then some d else some c

/-- Both instructions belong to one class of R74, or one of them never pairs. -/
def canPair (x y : Cand) : Bool :=
  match x.what, y.what with
  | .instr i, .instr j =>
    match i.info, j.info with
    | some n, some m =>
      let same := n.cls.pairClass != 0 && n.cls.pairClass == m.cls.pairClass
      !(same || (i.writesScalar && j.writesScalar) || i.braidWide || j.braidWide)
    | _, _ => false
  | _, _ => false

/-- select_groups of R73. -/
def selectGroups (b : Braid) (cand : List Cand) : Option (Cand × Option Cand) :=
  let age := fun (c : Cand) => b.ageOf c.lanes
  let size := fun (c : Cand) => Mask.count c.lanes
  let old := fun (cs : List Cand) => cs.filter fun c => 32 ≤ age c
  match bestBy size cand with
  | none => none
  | some most =>
    let first :=
      match bestBy age (old cand) with
      | some a => if a != most && !canPair most a then a else most
      | none => most
    let rest := cand.filter fun c => c != first && canPair first c
    let second :=
      match bestBy age (old rest) with
      | some a => some a
      | none => bestBy size rest
    some (first, second)

/-- Ages after a selection (R73). -/
def ageGroups (cand : List Cand) (chosen : Mask) (b : Braid) : Braid :=
  let ready := cand.foldl (fun m c => m ||| c.lanes) 0
  b.modLanes ready fun l x => { x with age := if chosen.getLsbD l then 0 else min (x.age + 1) 63 }

/-! Readiness -/

/-- The issue of a group as `exec` takes it. -/
def issueOf (uid rank : Nat) (lanes : Mask) (pc : Pc) (second : Bool) : Issue := { uid, rank, lanes, pc, second }

/-- Before the issue's effect: a partial group is logged, or taken from the log in a replay (R389, R390). -/
def enterGroup (s : State) (i : Issue) : State :=
  match s.team? i.uid with
  | none => s
  | some t =>
    match t.braids[i.rank]? with
    | none => s
    | some b =>
      let s := { s with cur := i }
      if i.lanes == b.liveMask then s
      else if t.replay.isSome then
        match nextLog s t with
        | some x => takeLog s t x
        | none => s
      else
        pushLog s t [{ type := 3, rank := i.rank, pc := i.pc, lanes := i.lanes, value := 0, handle := 0, line := [] }]

/-- Every lane of a group stands where it stood, at a wait (R188), and no lane's part of the instruction has come to
its end by this issue. -/
def standsWaiting (old s : State) (i : Issue) : Bool :=
  match (old.team? i.uid).bind (fun t => t.braids[i.rank]?), (s.team? i.uid).bind fun t => t.braids[i.rank]? with
  | some a, some b => (Mask.lanes i.lanes).all fun l => (b.lane l).live && (b.lane l).pc == i.pc && (b.lane l).wait.isSome
      && ((b.lane l).wait != some .ended || (a.lane l).wait == some .ended)
  | _, _ => false

/-- The instruction makes accesses or takes part in synchronisation (R279, R281). -/
def Instr.orders (i : Instr) : Bool :=
  match i with
  | .exit _ => true
  | i =>
    match i.info with
    | some n =>
      match n.cls with
      | .sync | .team | .mem | .fabric | .engine | .matrix | .coll | .priv => true
      | _ => false
    | none => false

/-- The lanes of an issue that make accesses in it. -/
def accessing (b : Braid) (lanes : Mask) (what : Fetched) : Mask :=
  match what with
  | .instr i =>
    if Instr.orders i then maskWhere fun l => lanes.getLsbD l && (b.lane l).live && guardHolds i.fields.g (b.lane l) else 0
  | _ => 0

/-- The braid order of an issue (R280): a lane's access follows what the participating lanes did before, and what
lower lanes do in this issue; a lane that makes no access passes nothing on until it makes one. -/
def joinLanes (uid rank : Nat) (lanes act : Mask) (b : Braid) : Braid :=
  let base := (Mask.lanes lanes).foldl (fun (c : Clocks) l => c.join (b.lane l).vc) []
  let r := (Mask.lanes act).foldl (fun (a : Clocks × List (Nat × Clocks)) l =>
    let p := laneParty uid rank l
    let v := a.1.join (b.lane l).met
    let v := tabPut v p (tabGet 0 v p + 1)
    (v, a.2 ++ [(l, v)])) (base, [])
  b.modLanes lanes fun l x =>
    { x with vc := ((r.2.find? fun y => y.1 == l).map (·.2)).getD x.vc, met := x.met.join r.1 }

/-- Every record that a team has to log has been written. -/
def logWritten (s : State) (uid : Nat) : Bool :=
  match s.team? uid with
  | none => true
  | some t => t.logQueue.isEmpty

/-- Writes a team's records as far as they fit. -/
def writeLog (s : State) (uid : Nat) : State :=
  match s.team? uid with
  | none => s
  | some t => flushLog uid (t.logQueue.length + 1) s

/-- Whether a group is ready (R72): tried, its instruction either has its effect, or leaves all its lanes at a wait
(the state then holds the wait), or has records to log for which the ring has no room (R388). -/
inductive Tried where
  | ready
  | waits (s : State)
  | full

/-- The lanes of a group have the order they had (R280), since it has not issued. -/
def keepClocks (old s : State) (i : Issue) : State :=
  match (old.team? i.uid).bind fun t => t.braids[i.rank]? with
  | none => s
  | some b => s.modLanes i.uid i.rank i.lanes fun l x => { x with vc := (b.lane l).vc, met := (b.lane l).met }

/-- Tries a group: the requests that it sends already, and the accesses that it is tested by, stand in the braid order
of its issue (R280). -/
def tryGroup (s : State) (i : Issue) (what : Fetched) : Tried :=
  let begun := (enterGroup s i).modBraid i.uid i.rank fun b => joinLanes i.uid i.rank i.lanes (accessing b i.lanes what) b
  match performFetched begun what with
  | .next s' =>
    if standsWaiting s s' i then
      let old := (s.team? i.uid).map fun t => (t.replay, t.logQueue)
      .waits { (keepClocks s s' i).modTeam i.uid fun t =>
        { t with replay := (old.map (·.1)).getD t.replay, logQueue := (old.map (·.2)).getD t.logQueue } with cur := s.cur }
    else if logWritten (writeLog s' i.uid) i.uid then .ready
    else .full
  | _ => .ready

/-- The breakpoint of a debug launch that a group is about to issue at (R384). -/
def metBreakpoint (s : State) (t : Team) (b : Braid) (pc : Pc) (lanes : Mask) (safe : Bool) : Option Nat :=
  let now := match t.stop with
    | .none => true
    | .debug _ _ _ _ _ => t.stopSince == s.clock
    | _ => false
  if safe && now && b.handler.isNone && lanes &&& ~~~ b.passed != 0 then breakpointAt s t pc.toNat
  else none

/-! The slot frame of a deterministic launch (R46, R342) -/

/-- The deterministic launch that is resident in a partition. -/
def detLaunch (s : State) (part : Nat) : Option Launch := s.launches.find? fun n => n.part == part && n.det && n.resident

/-- A braid's requests may enter the memory and scratchpad ports of its partition in this clock (R342): while a
deterministic launch is resident, the first slots of each frame are its braids', by logical identifier, and the others
every other launch's. A request enters the ports in the clock in which it issues (log entry 100). -/
def portTurn (s : State) (t : Team) (rank : Nat) : Bool :=
  match s.part? t.part, detLaunch s t.part with
  | some p, some n =>
    let d := p.reg 0x0530 0
    if t.launch == some n.num then s.clock % 64 == logicalId t.index rank % d else d ≤ s.clock % 64
  | _, _ => true

/-- The instruction sends requests to those ports when it issues. -/
def Fetched.usesPort : Fetched → Bool
  | .instr i =>
    match i with
    | .pharr _ | .phwait _ | .dgn _ | .dgl _ | .hadq _ => true
    | i => i.info.any fun n => n.cls == .mem
  | _ => false

/-- What the groups of a braid have come to: the state, the groups that may issue, and whether every group stands
at a safe point. -/
structure Considered where
  s : State
  cand : List Cand
  allSafe : Bool

/-- Lanes of a group have sent requests of its instruction, whose replies come before the braid stops (R188, R247). -/
def Braid.owes (b : Braid) (pc : Pc) (lanes : Mask) : Bool := b.pendX.any fun x => x.pc == pc && lanes.getLsbD (x.lane % 32)

/-- Considers one group (R72, R188, R210, R384, R385). -/
def considerGroup (uid rank : Nat) (a : Considered) (g : Pc × Mask) : Considered :=
  match a.s.team? uid with
  | none => a
  | some t =>
    match t.braids[rank]? with
    | none => a
    | some b =>
      let (s, what) := fetch a.s t g.1
      let safe := what.safe && b.handler.isNone
      let a := { a with s, allSafe := a.allSafe && safe }
      if (Mask.lanes g.2).any fun l => (b.lane l).yielded then a
      else if what.usesPort && !portTurn s t rank then a
      else
        match metBreakpoint s t b g.1 g.2 safe with
        | some k => { a with s := requestStop s uid 1 k rank g.1 g.2 }
        | none =>
          if safe && t.stop != .none && !b.owes g.1 g.2 then a
          else if safe && t.dbgStep && 1 ≤ b.stepIssues && g.2 &&& ~~~ b.passed != 0 then
            { a with s := requestStop s uid 3 0 rank g.1 g.2 }
          else
          match tryGroup s (issueOf uid rank g.2 g.1 false) what with
          | .waits s => { a with s }
          | .full => a
          | .ready => { a with cand := a.cand ++ [{ pc := g.1, lanes := g.2, what }] }

/-- The group that a replayed braid issues next (R390): all its lanes where they stand together, and otherwise the
one of the log's next record; none while the record is another braid's, or where the log diverges. -/
def replayGroups (s : State) (t : Team) (rank : Nat) (b : Braid) : State × List (Pc × Mask) :=
  match b.groups with
  | [] => (s, [])
  | g :: gs =>
    if gs.isEmpty && g.2 == b.liveMask then (s, [g])
    else
      match nextLog s t with
      | none => (diverge s t 3 rank g.1 g.2, [])
      | some x =>
        let lanes : Mask := BitVec.ofNat 32 x.lanes
        let pc := (b.lane (Mask.lowest lanes)).pc
        if x.rank != rank then (s, [])
        else if x.type == 3 && lanes != 0 && lanes &&& ~~~ b.eligible == 0
            && (Mask.lanes lanes).all (fun l => (b.lane l).pc == pc) && (x.ord, x.off) == s.location t pc.toNat then
          (s, [(pc, lanes)])
        else (diverge s t 3 rank g.1 g.2, [])

/-- A braid whose groups all stand at safe points stops for what its team is asked (R188, R343, R384): a SLEEP
stopped this way counts as complete (R211). Data on their way to the braid come first (R247). -/
def settleStop (s : State) (uid rank : Nat) (allSafe : Bool) : State :=
  s.modTeam uid fun t =>
    if t.stop == .none || !allSafe then t
    else t.modBraid rank fun b =>
      if !b.pendX.isEmpty || b.handler.isSome then b
      else
        { b.wake (maskWhere fun l => (b.lane l).live && (b.lane l).sleepUntil.isSome) with stop := .safePoint }

/-- Another team of a team's unit is saved and not started yet, as a CTXSV that saves one team alone leaves it: no
member of the unit runs meanwhile (R33, R37). -/
def mateSaved (s : State) (t : Team) : Bool :=
  let out := fun (u : Team) => u.uid != t.uid && u.launch == t.launch
    && (u.status == .saved || u.status == .prepared || u.status == .restored)
  s.teams.any out && match s.launchOf t with
    | some n => s.teams.any fun u => out u && (unitOf n t.index).contains u.index
    | none => false

/-- The braid's team, its core and what holds them let it issue (R33, R331, R350, R384, R387, R396). -/
def mayIssue (s : State) (t : Team) (b : Braid) : Bool :=
  t.status == .running && !mateSaved s t && !t.dbgStopped && t.stop != .held && b.stop == .running && b.eligible != 0
    && !s.tripped.contains t.core && !follyHeld s t b
    && match s.part? t.part with
       | some p => p.throttle ≤ s.clock % 64
       | none => false

/-- Considers a braid (R72): its ready groups, after which lanes that have yielded may be ready again. -/
def considerBraid (s : State) (uid rank : Nat) : State × List Cand :=
  match s.team? uid with
  | none => (s, [])
  | some t =>
    match t.braids[rank]? with
    | none => (s, [])
    | some b =>
      if !mayIssue s t b then (s, [])
      else
        let (s, gs) := if t.replay.isSome then replayGroups s t rank b else (s, b.groups)
        let a := gs.foldl (considerGroup uid rank) { s, cand := [], allSafe := !gs.isEmpty }
        let stopping : Bool := match a.s.team? uid with
          | some t => t.stop != .none && b.handler.isNone
          | none => false
        let cand := if stopping then a.cand.filter fun c => !c.what.safe || b.owes c.pc c.lanes else a.cand
        let s := if (Mask.lanes b.liveMask).any fun l => (b.lane l).yielded then
            a.s.modLanes uid rank b.liveMask fun _ x => { x with yielded := false }
          else a.s
        (settleStop s uid rank (a.allSafe && cand.isEmpty), cand)

/-! The issue -/

/-- What an issue leaves in its braid beside its effect: its place in the history (R365), its lanes' order (R280),
and the count of a debug step. -/
def recordIssue (i : Issue) (what : Fetched) (b : Braid) : Braid :=
  let h : Hist := { pc := i.pc, lanes := i.lanes, path := if b.meld then b.path else 0, second := i.second, meld := b.meld }
  { joinLanes i.uid i.rank i.lanes (accessing b i.lanes what) b with
    hist := (h :: b.hist).take 64, stepIssues := b.stepIssues + 1 }

/-- Begins an issue. -/
def beginIssue (s : State) (i : Issue) (what : Fetched) : State :=
  follyIssue ((enterGroup s i).modBraid i.uid i.rank (recordIssue i what)) i.uid i.rank i.pc.toNat

/-- Ends an issue: its lanes have passed what a resume let them pass (R385), and the log is written (R389). -/
def endIssue (i : Issue) (s : State) : State :=
  writeLog (s.modBraid i.uid i.rank fun b => { b with passed := b.passed &&& ~~~ i.lanes }) i.uid

/-- An outcome's next state, changed. -/
def mapNext (o : Host.Outcome State Fault Refusal) (g : State → State) : Host.Outcome State Fault Refusal :=
  match o with
  | .next s => .next (g s)
  | .fault f => .fault f
  | .refused r => .refused r

/-- The sample of an issue that begins (R383). -/
def sampleIssue (s : State) (i : Issue) : State :=
  match (s.team? i.uid).map fun t => execTraceSample t.core { uid := i.uid, rank := i.rank } s with
  | some (.next s') => s'
  | _ => s

/-- Issues a group: begins, performs what was fetched, and ends. -/
def issueGroup (s : State) (i : Issue) (what : Fetched) : Host.Outcome State Fault Refusal :=
  mapNext (performFetched (sampleIssue (beginIssue s i what) i) what) (endIssue i)

/-- The second group of a cycle issues after the first unless that trapped or faulted, or moved its lanes
(R75, R79). -/
def keepSecond (before : Braid) (c : Cand) (s : State) (i : Issue) : Option Issue :=
  match (s.team? i.uid).bind fun t => t.braids[i.rank]? with
  | none => none
  | some b =>
    if b.stop == .running && b.handler == before.handler
        && (Mask.lanes c.lanes).all fun l => (b.lane l).live && (b.lane l).pc == c.pc then
      some (issueOf i.uid i.rank c.lanes c.pc true)
    else none

/-- Issues the second group of a cycle, where what the first has left lets it (R388). -/
def issueSecond (s : State) (i : Issue) : Host.Outcome State Fault Refusal :=
  match s.team? i.uid with
  | none => .next s
  | some t =>
    let (s, what) := fetch s t i.pc
    match tryGroup s i what with
    | .ready => issueGroup s i what
    | .waits s => .next s
    | .full => .next s

/-! Sides -/

/-- An F64 floating-point instruction, which occupies its side for two clocks (R12). -/
def twoClocks : Fetched → Bool
  | .instr i =>
    match i with
    | .fadd f | .fsub f | .fmul f | .fma f | .fmin f | .fmax f | .fcmp f | .fdiv f | .frcp f | .frsq f | .fsqrt f
    | .fexp2 f | .flog2 f | .fsin f | .fcos f | .frnd f | .fclass f | .red f | .scan f => f.f == 9
    | .cvt f => f.f == 9 || f.h.toNat % 16 == 9
    | _ => false
  | _ => false

/-- The sides that hold a braid of a running team, ascending. -/
def busySides (s : State) : List Nat :=
  (s.teams.filter fun t => t.status == .running).foldl
    (fun ks t => t.braids.foldl (fun ks b => insertNat (sideOf t.core b.slot) ks) ks) []

/-- The braid at a place of a side: position, team and rank. -/
def braidAt (s : State) (side pos : Nat) : Option (Nat × Nat × Nat) :=
  s.teams.findSome? fun t =>
    if t.status == .running && t.core == side / 4 then
      (t.braids.findIdx? fun b => b.slot == 4 * pos + side % 4).map fun r => (pos, t.uid, r)
    else none

/-- The braids of a side in ring order from its pointer (R72). -/
def ringOf (s : State) (side : Nat) : List (Nat × Nat × Nat) :=
  let ptr := tabGet 0 s.pointers side
  (List.range 16).filterMap fun k => braidAt s side ((ptr + k) % 16)

/-- What a side serves: its braid, and the chosen groups among the ready ones. -/
structure Pick where
  side : Nat
  pos : Nat
  uid : Nat
  rank : Nat
  first : Cand
  second : Option Cand
  cand : List Cand

/-- The first braid in ring order that has a ready group. -/
def serveSide (side : Nat) : List (Nat × Nat × Nat) → State → State × Option Pick
  | [], s => (s, none)
  | (pos, uid, rank) :: rest, s =>
    let (s, cand) := considerBraid s uid rank
    match (s.team? uid).bind fun t => t.braids[rank]? with
    | none => serveSide side rest s
    | some b =>
      match selectGroups b cand with
      | none => serveSide side rest s
      | some (first, second) => (s, some { side, pos, uid, rank, first, second, cand })

/-- The place of a pick among those of one clock: within a slot, requests of the deterministic launch go in ascending
logical identifier (R342), after what sends none. -/
def slotKey (s : State) (p : Pick) : Nat :=
  match s.team? p.uid with
  | some t =>
    if s.isDet t && (p.first.what.usesPort || p.second.any (·.what.usesPort)) then 1 + logicalId t.index p.rank else 0
  | none => 0

/-- The side with the lowest place among some that have not had their turn. -/
def lowestSide (s : State) (best : Nat × Nat) (sides : List Nat) : Nat × Nat :=
  sides.foldl (fun best side =>
    if s.served.contains side then best
    else
      match serveSide side (ringOf s side) s with
      | (_, some p) => if slotKey s p < best.1 then (slotKey s p, side) else best
      | (_, none) => best) best

/-- The first side of this clock that has not had its turn and has a braid to serve; sides passed by have had
theirs. -/
def serveSides : List Nat → State → State × Option Pick
  | [], s => (s, none)
  | side :: rest, s =>
    if s.served.contains side then serveSides rest s
    else
      match serveSide side (ringOf s side) s with
      | (s', some p) =>
        if slotKey s' p == 0 then (s', some p)
        else
          let low := (lowestSide s (slotKey s' p, side) rest).2
          if low == side then (s', some p) else serveSide low (ringOf s low) s
      | (s, none) => serveSides rest { s with served := s.served ++ [side] }

/-- An issue cycle (R72, R73): the side's pointer and its occupation, the ages, the first group's issue, and the
second group's turn. -/
def issueCycle (s : State) (p : Pick) : Host.Outcome State Fault Refusal :=
  let chosen := p.first.lanes ||| (p.second.map (·.lanes)).getD 0
  let s := { s with
    pointers := tabPut s.pointers p.side ((p.pos + 1) % 16), served := s.served ++ [p.side] }
  let s := s.modBraid p.uid p.rank (ageGroups p.cand chosen)
  let i := issueOf p.uid p.rank p.first.lanes p.first.pc false
  mapNext (issueGroup s i p.first.what) fun s' =>
    let second := match p.second, (s.team? p.uid).bind fun t => t.braids[p.rank]? with
      | some c, some b => keepSecond b c s' i
      | _, _ => none
    let slow := twoClocks p.first.what || (second.isSome && p.second.any fun c => twoClocks c.what)
    { s' with
      second, issued := s'.issued ++ [(p.side, ({ uid := p.uid, rank := p.rank } : BraidRef))]
      busyNext := if slow then s'.busyNext ++ [p.side] else s'.busyNext }

end Sys2Proof.Machine
end

