-- ==== Sys2Proof/Machine/Clock.lean ====
section
/-! DEFINITION. What happens in a clock beside issue: the steps that units of the device take by themselves, one a
clock, served in turn (R13), and the end of a clock with everything that follows the clock count and the time. -/

namespace Sys2Proof

/-- The step is an event: no encoding of an instruction, and no encoding that is none. -/
def Instr.isEvent (i : Instr) : Bool :=
  match i with
  | .illegalEncoding _ => false
  | i => i.info.isNone

namespace Machine

/-- The state after an event, or as it was where the event stops the machine. -/
def afterEvent (i : Instr) (s : State) : State :=
  match exec i s with
  | .next s' => s'
  | _ => s

/-- Writes the records of every team that has some, as far as they fit (R388). -/
def writeLogs (s : State) : State :=
  (s.teams.filter fun t => !t.logQueue.isEmpty).foldl (fun s t => writeLog s t.uid) s

/-- A step that a unit takes by itself: the event, and the unit and lowest slot that it marks as served. -/
structure Auto where
  i : Instr
  mark : Option (Nat × Nat)

/-- The first of some steps that changes anything and has room for its log. -/
def firstAuto : List Auto → State → Option State
  | [], _ => none
  | a :: rest, s =>
    let s' := writeLogs (afterEvent a.i s)
    let stuck := fun (t : Team) => !t.logQueue.isEmpty && (s.team? t.uid).map (·.logQueue) != some t.logQueue
    if s' == s || s'.teams.any stuck then firstAuto rest s
    else
      some (match a.mark with
        | some (k, v) => { s' with turns := tabPut s'.turns k v }
        | none => s')

/-- The place of a team in the ring in which a unit of its core serves the teams: its lowest slot, and for a team in
held exit, which has released its slots, a place behind every slot (R13, R35, log entry 82). -/
def Team.place (t : Team) : Nat := if t.braids.isEmpty then 64 + t.uid else t.binding % 64

/-- Puts a team among others by its place, counted from just above the one served last. -/
def insertTeam (ring last : Nat) (t : Team) : List Team → List Team
  | [] => [t]
  | u :: us =>
    let key := fun (x : Team) => if last < x.place then x.place else x.place + ring
    if key t < key u then t :: u :: us else u :: insertTeam ring last t us

/-- The teams of a core in the order in which a unit of the core serves them (R13). -/
def servedTeams (s : State) (core unit : Nat) : List Team :=
  let ring := 64 + s.uids
  let last := tabGet ring s.turns (2 * core + unit)
  (s.teams.filter fun t => t.core == core && (t.trackers.any (·.isSome) || !t.nodes.isEmpty)).foldl
    (fun ts t => insertTeam ring last t ts) []

/-- The trackers of a team that are busy, the earliest-issued command first (R13). -/
def busyTrackers (t : Team) : List (Nat × Command) :=
  let busy := (List.range 8).filterMap fun k => (t.trackers.getD k none).map fun c => (k, c)
  busy.foldl (fun acc x => (acc.takeWhile fun y => y.2.order < x.2.order) ++ [x]
    ++ acc.dropWhile fun y => y.2.order < x.2.order) []

/-- The elements of a command that are still clear, and one beyond them for its end. -/
def openElems (c : Command) : List Nat :=
  (List.range (c.count + 1)).filter fun e => e == c.count || !c.bitmap.getLsbD e

/-- A command's element may send requests in this clock (R342): in its braid's slot, and behind no request of a higher
logical identifier. -/
def elementTurn (s : State) (t : Team) (rank : Nat) : Bool :=
  portTurn s t rank && !(s.isDet t && s.issued.any fun x =>
    match s.team? x.2.uid with
    | some u => u.launch == t.launch && logicalId t.index rank < logicalId u.index x.2.rank
    | none => false)

/-- The steps of a core's copy engine, a team's starts of nodes before its elements, and of its matrix array. -/
def engineAutos (s : State) (core : Nat) : List Auto :=
  (servedTeams s core 0).flatMap fun t =>
    let mark := some (2 * core, t.place)
    ((t.nodes.filter fun h => elementTurn s t h.rank).map fun h => { i := .nodeStart t.uid h.off, mark : Auto })
    ++ (busyTrackers t).flatMap fun x =>
      if elementTurn s t x.2.rank then (openElems x.2).map fun e => { i := .engineElementLands t.uid x.1 e, mark : Auto } else []
def arrayAutos (s : State) (core : Nat) : List Auto :=
  (servedTeams s core 1).flatMap fun t =>
    let mark := some (2 * core + 1, t.place)
    (busyTrackers t).flatMap fun x =>
      ({ i := .mmaStep t.uid x.1, mark } : Auto) ::
        if (handleSpaces x.2.inst).isNone || elementTurn s t x.2.rank then
          (openElems x.2).map fun e => { i := .matrixRowStep t.uid x.1 e, mark }
        else []

/-- Cores that hold a team, ascending. -/
def busyCores (s : State) : List Nat := s.teams.foldl (fun ks t => insertNat t.core ks) []

/-- Steps without a place in a unit's order. -/
def plain (is : List Instr) : List Auto := is.map fun i => { i, mark := none }

/-- The steps of a team's exit, work entries, batches and debug stop. A carve-out takes the lowest
place that is free. A held exit with peers on other devices completes by an event from there. -/
def teamAutos (s : State) (t : Team) : List Auto :=
  plain ((t.entries.filter fun w => elementTurn s t w.rank).flatMap (fun w =>
      Instr.workEntryReady t.uid w.num :: w.held.map fun c => .spillRefetch t.uid w.num c.1)
    ++ (List.range t.batches.length).map (fun k => .closeTimeout t.uid k)
    ++ (if peerAbroad s t then [] else [.heldExitComplete t.uid]) ++ [.debugStopComplete t.uid]
    ++ if t.carve.isSome then (List.range Config.usableGranules).map fun b => .carveTakesEffect t.uid b else [])

/-- The steps of a partition's queues and rings. -/
def partAutos (p : Partition) : List Auto :=
  plain ([Instr.faultRecordPost p.num, .traceRecordPost p.num, .launchValidation p.num, .wipeComplete p.num]
    ++ (p.armed.take 1).map fun a => .landingSlotEntersQueue p.num a.2)

/-- The steps of a link. -/
def linkAutos (l : Link) : List Auto := plain [.keyRequest l.num, .linkDown l.num]

/-- A list turned so that it begins elsewhere. -/
def rotate {α : Type} (k : Nat) (xs : List α) : List α :=
  if xs.isEmpty then xs else xs.drop (k % xs.length) ++ xs.take (k % xs.length)

/-- Every unit's steps, each unit's in its own order; which unit comes first changes with the clock. -/
def autos (s : State) : List Auto :=
  (rotate s.clock ((busyCores s).flatMap (fun c => [engineAutos s c, arrayAutos s c]) ++ s.teams.map (teamAutos s)
    ++ s.parts.map partAutos
    ++ [plain ((s.launches.filter fun n => n.phase == .waiting).map fun n => .predecessorPoll n.num)]
    ++ s.links.map linkAutos)).flatten

/-! The end of a clock -/

/-- What falls due with the clock (R211, R387): sleeps and trials. -/
def settleDue (s : State) : State :=
  let s := s.teams.foldl (fun s t => (List.range t.braids.length).foldl
    (fun s r => afterEvent (.sleepExpiry { uid := t.uid, rank := r }) s) s) s
  s.parts.foldl (fun s p => if p.trial.isSome then afterEvent (.follyTrialExpiry p.num) s else s) s

/-- What stops and starts have come to (R340, R345, R348), and bring-up (R401). -/
def settleStops (s : State) : State :=
  let s := settleStarts s
  let s := (s.teams.filter fun t => match t.stop with | .move _ => true | _ => false).foldl
    (fun s t => settleMove s t.uid) s
  let s := s.parts.foldl (fun s p => p.gangs.foldl (fun s g => settlePause s p g) s) s
  settleBoot s

/-- A poisoned line of the L2 goes to DRAM, where the implementation evicts it (R362). -/
def evictPoison (s : State) : State :=
  match s.soft.findIdx? fun e => match e with
    | .poison _ l2 => l2
    | _ => false with
  | none => s
  | some k =>
    let gone := Config.choice s.choices
    { s with
      choices := s.choices + 1
      soft := if gone then s.soft.modify k fun e => match e with
          | .poison line _ => .poison line false
          | e => e
        else s.soft }

/-- What the fabric units and the L2 do by themselves (R248, R362, R373): received accesses that waited are performed,
and messages go out as flits. -/
def settleTraffic (s : State) : State :=
  let s := s.parts.foldl (fun s p =>
    if s.deferred.any fun d => d.part == p.num then takeUpAll p (s.deferred.length + 1) s else s) s
  pumpLinks (evictPoison s)

/-- The IEEE 1588 time after one arithmetic clock of 4/7 ns (R7, R394): an offset is slewed out by one
nanosecond in 17,500 clocks, which is 100 ppm, and the time never decreases. -/
def tickTime (s : State) : State :=
  let f := s.timeFrac + 4
  let inc := f / 7
  let due := s.clock % 17500 == 1 && inc == 1
  if due && 0 < s.slew then { s with time := s.time + inc + 1, timeFrac := f % 7, slew := s.slew - 1 }
  else if due && s.slew < 0 then { s with time := s.time + inc - 1, timeFrac := f % 7, slew := s.slew + 1 }
  else { s with time := s.time + inc, timeFrac := f % 7 }

/-- A new rotor matching begins every 2,000 ns (R368). -/
def settleDwell (before : Nat) (s : State) : State :=
  if before / 2000 == s.time / 2000 then s else afterEvent (.dwellStart s.time) s

/-- The end of a clock. -/
def tick (s : State) : State :=
  let s' := tickTime (follyClock (writeLogs (settleTraffic (settleStops (settleDue s)))))
  settleDwell s.time { s' with
    clock := s'.clock + 1, served := s'.busyNext, busyNext := [], issued := [], autoDone := false }

/-- What follows when no side has a braid to serve: one step of a unit, and then the end of the clock. -/
def clockEnd (s : State) : State :=
  match if s.autoDone then none else firstAuto (autos s) s with
  | some s' => { s' with autoDone := true }
  | none => tick s

end Machine

end Sys2Proof
end

