-- ==== Sys2Proof/Machine/Load.lean ====
section
/-! DEFINITION. Placing one instruction where the machine fetches next: what bring-up, the wipe and Gazebo's bind
record of a supervisor team leave (R324, R335, R401), with the instruction at ENTRY. -/

namespace Sys2Proof.Machine

/-- Where the placed program's tables and code stand in physical memory, and at which address its code is mapped:
context table, level-3 and level-2 table, code object. -/
def loadContexts : Nat := 0x10000
def loadLevel3 : Nat := 0x20000
def loadLevel2 : Nat := 0x30000
def loadCode : Nat := 0x40000

/-- The bytes from a physical address on, stored. -/
def State.place (s : State) (pa : Nat) (bs : List Byte) : State := { s with mem := s.mem.write pa bs }

/-- Context 0 maps the low 2 GiB to themselves (R353, R354). -/
def State.placeTables (s : State) : State :=
  ((s.place loadContexts (leBytes 16 (loadLevel3 + 1))).place loadLevel3 (leBytes 8 (loadLevel2 + 1))).place
    loadLevel2 (leBytes 8 0xF)

/-- The partition after bring-up: every quarter its own, and one context. -/
def Partition.placed (p : Partition) : Partition :=
  { ((p.setReg 0x0002 0 (0xF0 + p.num % 16)).setReg 0x0100 0 loadContexts).setReg 0x0101 0 1 with
    throttle := 0, trial := none, wiping := false }

/-- A supervisor team of one braid on core 0, slot 0, at ENTRY 64 of the placed code (R57, R324). -/
def placedTeam (s : State) : Team :=
  { Team.blank with
    uid := s.uids, status := .running, vblk := 15, scrGran := 1, code := loadCode, entry := 64, codeLen := 96
    braids := [Braid.start 0 64 128 0 []], k := List.replicate 64 0, since := s.clock }

/-- The machine with an instruction of a code object's first block placed, and nothing else to do. -/
def State.placeProgram (s : State) (bytes : List Byte) : State :=
  let s := (s.placeTables).place (loadCode + 64) bytes
  let p := ((s.part? 0).getD (Partition.reset 0)).placed
  { s with
    parts := p :: s.parts.filter fun q => q.num != 0
    teams := [placedTeam s], uids := s.uids + 1, soft := [], held := [], fetched := [], served := [], busyNext := []
    tripped := [], second := none, inputs := [] }

end Sys2Proof.Machine
end

