-- ==== Sys2Proof/Machine/Step.lean ====
section
/-! DEFINITION. One step of the machine: the second group of an issue cycle, the next event of an agent outside the
core, the issue cycle of the next side, a step of a unit, or the end of the clock. -/

namespace Sys2Proof.Machine

/-- One step. -/
def step (s : State) : Host.Outcome State Fault Refusal :=
  match s.second with
  | some i => issueSecond { s with second := none } i
  | none =>
    match s.inputs with
    | i :: rest =>
      if i.isEvent then exec i { s with inputs := rest } else .next { s with inputs := rest }
    | [] =>
      match serveSides (busySides s) s with
      | (s, some p) => issueCycle s p
      | (s, none) => .next (clockEnd s)

/-- The machine with the instruction whose bits are w, numbered from the first word on, where step fetches next. -/
def State.withFetchWord (s : State) (nbits w : Nat) : State := s.placeProgram (leBytes 16 (w % 2 ^ nbits))

end Sys2Proof.Machine
end

