-- ==== Sys2Proof/Safety.lean ====
section
/-! DEFINITION. The terms in which claims are stated: an instruction at its issue and the conditions under which
nothing of R146 stands in its way, what it leaves of its braid, what it leaves alone, the value of an integer
result, and the canonical form of every memory. -/

namespace Sys2Proof.Machine

/-! An instruction at its issue -/

/-- The instruction `i`, whose row of the opcode map is `n`, issues in `s` with environment `e`: `s.cur` names a
braid, and no register of the machine has a parity error pending (R70, R363). -/
structure Issues (i : Instr) (n : Info) (s : State) (e : Env) : Prop where
  info : i.info = some n
  team : s.team? s.cur.uid = some e.t
  braid : e.t.braids[s.cur.rank]? = some e.b
  env : e = mkEnv s e.t e.b i n.fields
  sound : s.soft = []

/-- Some lane is active and orders 3 to 6 of R146 raise nothing before the operands: a privileged instruction
belongs to a supervisor team (R324), M names a register only in a melded region (R133), MELD and UNMELD meet the
meld state they need (R85), a braid-wide instruction has every lane that lives (R78), and every vector register
that a field names exists (R57, R145). -/
structure Performs (i : Instr) (n : Info) (s : State) (e : Env) : Prop extends Issues i n s e where
  active : e.act ≠ 0
  priv : n.cls = .priv → e.t.launch = none
  meld : e.f.m = true → n.vecs.any = true → e.b.meld = true
  nested : ∀ f, i = .meld f → e.b.meld = false
  unmeld : ∀ f, i = .unmeld f → e.b.meld = true
  wide : i.braidWide = true → e.act = e.b.liveMask
  named : ∀ l, l ∈ Mask.lanes e.act →
    (n.vecs.d = true → e.b.vecName e.f l e.f.d < e.t.nv) ∧ (n.vecs.a = true → e.b.vecName e.f l e.f.a < e.t.nv) ∧
    (n.vecs.b = true → e.b.vecName e.f l e.f.b < e.t.nv) ∧ (n.vecs.c = true → e.b.vecName e.f l e.f.c < e.t.nv)

/-- Every checked vector operand has the tag expected of it in every active lane (R59). -/
def Env.tagged (e : Env) (cs : List Check) : Prop :=
  ∀ c ∈ cs, c.vec = true → ∀ l ∈ Mask.lanes e.act, e.srcTag false c.reg l = c.want

/-- `i` completes: D takes these values with these tags, and every participating lane goes on (R157). -/
def Writes (i : Instr) (s : State) (e : Env) (val : Nat → Word) (tag : Nat → Tag) : Prop :=
  exec i s = .next (finish e (.go (e.writeD val tag)))

/-- `i` completes: predicate p takes these values, and every participating lane goes on (R157). -/
def WritesPred (i : Instr) (s : State) (e : Env) (p : Nat) (val : Nat → Bool) : Prop :=
  exec i s = .next (finish e (.go (e.writePred s p val)))

/-- `i` raises the user-level trap `x` and does nothing else (R145, R147). -/
def TrapsWith (i : Instr) (s : State) (e : Env) (x : Trap) : Prop := exec i s = .next (finish e (.trap x))

/-- Wherever `i` performs with its operands tagged, it writes D in every active lane with a tag that `tag` gives, and
every element k that the format t has in lane l is one that `P e l k` allows; what lies above the elements is zero
(R89, R90, R157). -/
def WritesWhere (i : Instr) (t : Tag) (cs : Env → List Check) (tag : Env → Nat → Tag)
    (P : Env → Nat → Nat → Nat → Prop) : Prop :=
  ∀ n s e, Performs i n s e → e.tagged (cs e) →
    ∃ val, Writes i s e val (tag e) ∧ ∀ l ∈ Mask.lanes e.act,
      (val l).toNat < 2 ^ (fmtWidth t * fmtCount t) ∧ ∀ k, k < fmtCount t → P e l k (elemOf (fmtWidth t) k (val l))

/-- The same for one format as tag and width, where `g` gives each element. -/
def WritesElems (i : Instr) (t : Tag) (cs : Env → List Check) (g : Env → Nat → Nat → Nat) : Prop :=
  WritesWhere i t cs (fun _ _ => t) fun e l k x => x = g e l k

/-- The same for integers: `g` gives the value of each element in the format's signedness (R91). -/
def WritesInts (i : Instr) (t : Tag) (cs : Env → List Check) (g : Env → Nat → Nat → Int) : Prop :=
  WritesWhere i t cs (fun _ _ => t) fun e l k x => intVal t x = g e l k

/-- Wherever `i` performs with its operands tagged, it completes in the state that `k` gives, its own effect in
place and every participating lane gone on. -/
def Completes (i : Instr) (cs : Env → List Check) (k : Env → State) : Prop :=
  ∀ n s e, Performs i n s e → e.tagged (cs e) → exec i s = .next (finish e (.go (k e)))

/-- The sources that a statement checks against F (R59, R159). -/
def Env.tagsA (e : Env) : List Check := [e.checkA e.f.f]
def Env.tagsAB (e : Env) : List Check := [e.checkA e.f.f, e.checkB e.f.f]
def Env.tagsABC (e : Env) : List Check := [e.checkA e.f.f, e.checkB e.f.f, e.checkC e.f.f]
/-- No source is checked: each is any tag. -/
def Env.anyTag (_ : Env) : List Check := []

/-- Elements of the sources in a lane, as integers of the format (R91) and as bits. -/
def Env.intA (e : Env) (l k : Nat) : Int := intVal e.f.f (elemOf (fmtWidth e.f.f) k (e.srcA l))
def Env.intB (e : Env) (l k : Nat) : Int := intVal e.f.f (elemOf (fmtWidth e.f.f) k (e.srcB l))
def Env.intC (e : Env) (l k : Nat) : Int := intVal e.f.f (elemOf (fmtWidth e.f.f) k (e.srcC l))
def Env.bitsA (e : Env) (l k : Nat) : Nat := elemOf (fmtWidth e.f.f) k (e.srcA l)
def Env.bitsB (e : Env) (l k : Nat) : Nat := elemOf (fmtWidth e.f.f) k (e.srcB l)

/-- The value modulo 2^w, read in the format's signedness (R92). -/
def wrappedInt (t : Tag) (v : Int) : Int :=
  if isSigned t then Int.bmod v (2 ^ fmtWidth t) else v % 2 ^ fmtWidth t

/-- The value clamped to the format's range (R92). -/
def clampedInt (t : Tag) (v : Int) : Int :=
  if isSigned t then max (-2 ^ (fmtWidth t - 1)) (min (2 ^ (fmtWidth t - 1) - 1) v)
  else max 0 (min (2 ^ fmtWidth t - 1) v)

/-- A result narrowed into F under R92: clamped where the SAT bit of F's nibble stands, else wrapped. -/
def Env.narrowed (e : Env) (v : Int) : Int :=
  if intSat e.b.nmode e.f.f then clampedInt e.f.f v else wrappedInt e.f.f v

/-- The braid of a team in a state. -/
def State.braid? (s : State) (uid rank : Nat) : Option Braid := (s.team? uid).bind fun t => t.braids[rank]?

/-- Every byte of DRAM, far memory and chip scratchpad reads as before, and so does the scratchpad of every team that
both states hold. -/
def SameMemory (s t : State) : Prop :=
  (∀ a, t.mem.get a = s.mem.get a) ∧ (∀ a, t.chip.get a = s.chip.get a) ∧
  ∀ uid x y, s.team? uid = some x → t.team? uid = some y → ∀ a, y.scratch.get a = x.scratch.get a

/-- `i` completes with its effect in `t`, and every participating lane goes on. -/
def Does (i : Instr) (s : State) (e : Env) (t : State) : Prop := exec i s = .next (finish e (.go t))

/-- Every active lane of `i` waits where it stands, and nothing has changed (R188). -/
def Waits (i : Instr) (s : State) (e : Env) (w : WaitAt) : Prop := exec i s = .next (finish e (.wait s e.act w))

/-- After a state, the braid of the issue has in every active lane the predicate p (p0 apart) at a value, and every
other predicate and every register as before. -/
def LeavesPred (e : Env) (t : State) (p : Nat) (v : Bool) : Prop :=
  ∃ b, t.braid? e.t.uid e.rank = some b ∧ ∀ l ∈ Mask.lanes e.act, l < e.b.lanes.length →
    (b.lane l).v = (e.b.lane l).v ∧ (b.lane l).tags = (e.b.lane l).tags ∧
    ∀ k, 0 < k → k < 8 → (b.lane l).pred k = if k = p % 8 then v else (e.b.lane l).pred k

/-- The handle entry that H names can be read, is well formed, names one of these levels, and the tags and alignment
of the accesses are right: orders 6 to 8 of R146 raise nothing (R113, R116, R117, R225). -/
structure HandleReady (e : Env) (spaces : List Nat) (checks : List Check) (offs : List LaneReq) (align : Nat)
    (t : State) (h : Handle) : Prop where
  entry : readHandle e.s e.t e.f.h.toNat = (t, .ok (some h))
  good : handleBad t e.t h = false
  level : h.space ∈ spaces
  tagged : e.tagged checks
  aligned : ∀ r ∈ offs, r.off % Int.ofNat align = 0

/-- Every access of the instruction passes its bound, its translation, the memory model and ECC (R359, R225), and all
lie on this device. -/
structure SpotsReady (e : Env) (t : State) (h : Handle) (n : Nat) (u : Use) (offs : List LaneReq)
    (t' : State) (spots : List (Nat × Spot)) : Prop where
  checked : checkLanes e h e.f.h.toNat n u offs t = (t', spots.map fun x => (x.1, .ok x.2))
  here : peerSpots spots = []

/-- The bytes of a place at its ordering point (R286). -/
def spotBytes (s : State) (e : Env) (sp : Spot) : List Byte := (readSpot s e.t.core e.t.uid e.rank sp true false).2

/-- The place of byte k of a spot, and two spots that share no byte. -/
def Spot.byte (sp : Spot) (k : Nat) : Place :=
  match sp.place with
  | .slice l a => .slice l (a + k)
  | .scratch u a => .scratch u (a + k)
  | .chip a => .chip (a + k)
  | .phys a => .phys (a + k)
  | .peer d r a => .peer d r (a + k)
def Spot.apart (x y : Spot) : Prop := ∀ j k, j < x.n → k < y.n → x.byte j ≠ y.byte k

/-- The byte of a place that is no lane's slice and on no other device. -/
def State.byteAt (s : State) (p : Place) : Option Byte :=
  match p with
  | .scratch u a => (s.team? u).map fun t => t.scratch.get a
  | .chip a => some (s.chip.get a)
  | .phys a => some (s.mem.get a)
  | _ => none

/-- The byte of a place, a slice's in the braid of the issue (R56). -/
def Env.byteAt (e : Env) (s : State) (p : Place) : Option Byte :=
  match p with
  | .slice l a => (s.braid? e.t.uid e.rank).map fun b => (b.lane l).sliceByte a
  | q => s.byteAt q

/-- Every byte outside the spots reads as before: of DRAM, far memory and every scratchpad, and, where `slices` says
so, of the slices of the issuing braid's lanes. -/
def Env.SameOutside (e : Env) (t : State) (spots : List Spot) (slices : Bool) : Prop :=
  ∀ p, (∀ sp ∈ spots, ∀ k, k < sp.n → sp.byte k ≠ p) →
    (∀ l a, p = .slice l a → slices = true ∧ sliceOk e.t a 1 = true) → e.byteAt t p = e.byteAt e.s p

/-- The lanes hold as many bytes as their slices have (R56, R57). -/
def Env.slicesWhole (e : Env) : Prop :=
  ∀ l ∈ Mask.lanes e.act, (e.b.lane l).v.length = e.t.nv ∧ (e.b.lane l).tags.length = e.t.nv ∧
    (e.b.lane l).priv.length = 96 ∧ (e.b.lane l).stack.length = 16

/-- A braid has the registers, tags, predicates, rename tables, call stacks and trap registers of another. -/
def SameRegs (b c : Braid) : Prop :=
  c.s = b.s ∧ c.nmode = b.nmode ∧ c.mt0 = b.mt0 ∧ c.mt1 = b.mt1 ∧ c.meld = b.meld ∧ c.path = b.path ∧
  c.pres = b.pres ∧ c.handler = b.handler ∧ c.lanes.length = b.lanes.length ∧
  ∀ l, (c.lane l).v = (b.lane l).v ∧ (c.lane l).tags = (b.lane l).tags ∧ (c.lane l).preds = (b.lane l).preds ∧
    (c.lane l).stack = (b.lane l).stack ∧ (c.lane l).depth = (b.lane l).depth ∧ (c.lane l).priv = (b.lane l).priv ∧
    (c.lane l).live = (b.lane l).live

/-- Every braid keeps its registers, and every braid but the issuing one does. -/
def KeepsRegs (s t : State) : Prop :=
  ∀ u r b, s.braid? u r = some b → ∃ c, t.braid? u r = some c ∧ SameRegs b c
def Env.OthersKeep (e : Env) (t : State) : Prop :=
  ∀ u r b, (u, r) ≠ (e.t.uid, e.rank) → e.s.braid? u r = some b → ∃ c, t.braid? u r = some c ∧ SameRegs b c

/-- D of the issue holds these values, a scalar's in the lowest active lane, with these tags; every other register, tag
and predicate of the braid is as before, and every participating lane has gone on. -/
def Env.LeavesD (e : Env) (t : State) (scalar : Bool) (val : Nat → Word) (tag : Nat → Tag) : Prop :=
  ∃ b, t.braid? e.t.uid e.rank = some b ∧ b.lanes.length = e.b.lanes.length ∧
    (∀ r, b.sreg r = if scalar = true ∧ r = e.f.d.toNat ∧ r < e.b.s.length then val ((Mask.lanes e.act).headD 0)
      else e.b.sreg r) ∧
    ∀ l, l < e.b.lanes.length → l < 32 → (b.lane l).preds = (e.b.lane l).preds ∧
      (b.lane l).pc = (if e.part.getLsbD l then nextPc (e.b.lane l).pc e.i.bytes else (e.b.lane l).pc) ∧
      ∀ r,
        let dest := scalar = false ∧ e.act.getLsbD l = true ∧ r = e.b.vecName e.f l e.f.d
        (b.lane l).vreg r = (if dest ∧ r < (e.b.lane l).v.length then val l else (e.b.lane l).vreg r) ∧
        (b.lane l).vtag r = (if dest ∧ r < (e.b.lane l).tags.length then tag l else (e.b.lane l).vtag r)

/-- A scalar of the issuing braid holds a value after a state. -/
def Env.LeavesScalar (e : Env) (t : State) (r : BitVec 7) (v : Word) : Prop :=
  ∃ b, t.braid? e.t.uid e.rank = some b ∧
    ∀ k, b.sreg k = if k = r.toNat ∧ k < e.b.s.length then v else e.b.sreg k

/-- What an instruction of the fabric needs (R117, R124, R125, R225, R244): a remote handle, a legal pattern in the
scalar, tags, alignment, bounds, and in a deterministic launch the turn of a write. -/
structure RemoteReady (e : Env) (pat : Word) (legal : Word → Partition → Bool) (checks : List Check)
    (offs : List LaneReq) (n : Nat) (write : Bool) (p : Partition) (t : State) (h : Handle) : Prop
    extends HandleReady e [7] checks offs n t h where
  part : e.s.part? e.t.part = some p
  pattern : patternOk pat p = true
  allowed : legal pat p = true
  bounded : ∀ r ∈ offs, 0 ≤ r.off ∧ r.off + Int.ofNat n ≤ Int.ofNat h.bound
  turn : write = true → e.s.isDet e.t = false ∨ holdsTurn e.s e.t e.rank = true

/-- The trap of operands whose tags differ from those expected (R59, R145): it names the lanes in which any checked
operand fails, the first operand that does, and its tag in the lowest lane that fails. -/
def Env.TagTrap (e : Env) (cs : List Check) (x : Trap) : Prop :=
  let bad := fun (c : Check) (l : Nat) => c.vec = true ∧ e.srcTag false c.reg l ≠ c.want
  x.cause = 5 ∧ x.detail = 0 ∧
  (∀ l, l < 32 → (x.lanes.getLsbD l = true ↔ e.act.getLsbD l = true ∧ ∃ c ∈ cs, bad c l)) ∧
  ∃ c ∈ cs, x.opnd = c.opnd ∧ (∀ d ∈ cs, d.opnd < c.opnd → ∀ l ∈ Mask.lanes e.act, ¬ bad d l) ∧
    ∃ l ∈ Mask.lanes e.act, bad c l ∧ (∀ m ∈ Mask.lanes e.act, m < l → ¬ bad c m) ∧
      x.value = (e.srcTag false c.reg l).toNat

/-- Wherever `i` performs with a checked operand of another tag in some active lane, it raises the trap of R59. -/
def TagChecked (i : Instr) (cs : Env → List Check) : Prop :=
  ∀ n s e, Performs i n s e → ¬ e.tagged (cs e) → ∃ x, TrapsWith i s e x ∧ e.TagTrap (cs e) x

/-- What a lane-wise memory instruction checks and accesses (R117, R225-R229): the checked operands, the offsets of its
active lanes, the size of an access, its use, the accesses, and whether it is one access for all lanes. -/
structure MemForm where
  checks : List Check
  offs : List LaneReq
  n : Nat
  use : Use
  reqs : List LaneReq
  whole : Bool

/-- The form of LD, LDU, ST and ATOM. -/
def Env.memForm (e : Env) (i : Instr) : Option MemForm :=
  match i with
  | .ld f =>
    let offs := laneOffsets e (memSize f)
    some ⟨[], offs, memSize f, if f.x.getLsbD 3 then .syncRead else .load, offs, false⟩
  | .ldu f =>
    let offs := laneOffsets e (memSize f)
    some ⟨[], offs, memSize f, if f.x.getLsbD 3 then .syncRead else .load, offs.take 1, true⟩
  | .st f =>
    let offs := laneOffsets e (memSize f)
    let one := f.x.getLsbD 6 && f.x.getLsbD 7
    some ⟨[], offs, memSize f, if f.x.getLsbD 3 then .syncWrite else .store, if one then offs.take 1 else offs, one⟩
  | .atom f =>
    let n := fmtWidth f.f / 8
    some ⟨atomChecks e, laneOffsets e n, n, .rmw, laneOffsets e n, false⟩
  | _ => none

/-- What an instruction of the fabric checks (R117, R244, R249, R250): its pattern's register and OPND, the patterns it
takes, the checked operands, the immediate, the size of an access, and whether it writes. -/
structure FabForm where
  pat : BitVec 7
  opnd : Nat
  legal : Word → Partition → Bool
  checks : List Check
  imm : Int
  n : Nat
  write : Bool

/-- The form of LDX, STX, ATX and RSTX. -/
def Env.fabForm (e : Env) (i : Instr) : Option FabForm :=
  match i with
  | .ldx f => some ⟨f.c, 4, patternOne, [], memImm f, memSize f, false⟩
  | .stx f => some ⟨f.c, 4, patternMany, [], memImm f, memSize f, true⟩
  | .atx f =>
    some ⟨f.b, 3, if f.x.getLsbD 3 then patternOne else patternMany, atomChecks e, if f.len = 0 then 0 else f.e.toInt,
      fmtWidth f.f / 8, true⟩
  | .rstx f => some ⟨f.c, 4, patternReduce, [], memImm f, fmtWidth f.f / 8, true⟩
  | _ => none

/-- The lanes of a trap are the active ones with a property. -/
def Env.LanesWhere (e : Env) (m : Mask) (P : Nat → Prop) : Prop :=
  ∀ l, l < 32 → (m.getLsbD l = true ↔ e.act.getLsbD l = true ∧ P l)

/-- A command passes the checks of R232 and R258, needs no turn and races with nothing (R45, R276). -/
structure CommandReady (e : Env) (t t' : State) (c : Command) : Prop where
  planned : planCommand e.s e.t e.i (e.b.vals e.i) e.act e.rank e.pc e.b.nmode = (t, .ok c none)
  turn : issueTurn t e.t c e.act = none
  unraced : testNames t e.t e.accessor (granuleUses e.i) = .ok t'

/-- The lowest free tracker of a team (R232). -/
def Team.lowestFree (t : Team) (k : Nat) : Prop :=
  t.trackers[k]? = some none ∧ ∀ j, j < k → ∃ c, t.trackers[j]? = some (some c)

/-- An event of the environment or of a unit is performed, in a state of which Q holds. -/
def Ends (i : Instr) (s : State) (Q : State → Prop) : Prop := ∃ t, exec i s = .next t ∧ Q t

/-- The team that a state holds under a number has a property. -/
def State.teamHas (s : State) (uid : Nat) (Q : Team → Prop) : Prop := ∃ t, s.team? uid = some t ∧ Q t
def State.partHas (s : State) (n : Nat) (Q : Partition → Prop) : Prop := ∃ p, s.part? n = some p ∧ Q p

/-- Every active lane of `i` goes where `target` says, the participating lanes whose guard is false go on, and what
else the lanes hold is as `k` leaves it. -/
def Sends (i : Instr) (target : Env → Nat → Pc) (k : Env → Lane → Lane) (ok : Env → Prop) : Prop :=
  ∀ n s e, Performs i n s e → ok e →
    (e.b.meld = true → e.act = e.b.liveMask ∧ ∀ l ∈ Mask.lanes e.act, ∀ m ∈ Mask.lanes e.act, target e l = target e m) →
    exec i s = .next (finish e (.moved (s.modLanes e.t.uid e.rank e.act fun l x =>
      { k e x with pc := target e l, wait := none, sleepUntil := none })))

/-! What a step leaves -/

/-- Only the issuing braid has changed, and its team's idempotent region may have ended: `b` stands where `e.b`
stood. -/
def OnlyBraid (e : Env) (t : State) (b : Braid) : Prop :=
  ∃ (g : Braid → Braid) (idem : Bool → Bool), g e.b = b ∧
    t = e.s.modTeam e.t.uid fun x => { x.modBraid e.rank g with idem := idem x.idem }

/-- Of a lane, everything but its registers, its predicates and where it stands. -/
def Lane.rest (x : Lane) : Lane := { x with pc := 0, v := [], tags := [], preds := 0, wait := none, sleepUntil := none }

/-- Of a braid, everything but its scalars, its lanes and the mark that it has not yet executed. -/
def Braid.rest (b : Braid) : Braid := { b with s := [], lanes := [], fresh := false }

/-! The canonical form -/

/-- The scratchpad, tiles and operand slots of a team are in canonical form. -/
def Team.memoryOk (t : Team) : Prop :=
  t.scratch.wf = true ∧ (∀ m ∈ t.tiles, m.wf = true) ∧ ∀ x ∈ t.slots, x.2.wf = true

/-- Every memory of the device is in canonical form (R3, R400). -/
def State.memoryOk (s : State) : Prop := s.mem.wf = true ∧ s.chip.wf = true ∧ ∀ t ∈ s.teams, t.memoryOk

/-! A step that issues -/

/-- The issue that a side chose. -/
def Pick.issue (p : Pick) : Issue := issueOf p.uid p.rank p.first.lanes p.first.pc false

/-- What an issue cycle marks before it issues the group that its side chose (R72, R73). -/
def chosenState (s : State) (p : Pick) : State :=
  let s' : State :=
    { s with pointers := tabPut s.pointers p.side ((p.pos + 1) % 16), served := s.served ++ [p.side] }
  s'.modBraid p.uid p.rank (ageGroups p.cand (p.first.lanes ||| (p.second.map (·.lanes)).getD 0))

/-- The state in which the chosen group's instruction has its effect: the issue has begun, and a sample of it is taken
(R365, R383, R389). -/
def begunState (s : State) (p : Pick) : State :=
  sampleIssue (beginIssue (chosenState s p) p.issue p.first.what) p.issue

/-- The second group of the cycle, where it may still issue (R75, R79). -/
def keptSecond (before : State) (p : Pick) (after : State) : Option Issue :=
  match p.second, before.braid? p.uid p.rank with
  | some c, some b => keepSecond b c after p.issue
  | _, _ => none

/-- What an issue cycle marks after the first group's effect: its second group's turn, and the clocks that its side is
busy (R12, R72). -/
def closeCycle (before : State) (p : Pick) (t : State) : State :=
  let second := keptSecond before p t
  let slow := twoClocks p.first.what || (second.isSome && p.second.any fun c => twoClocks c.what)
  { t with
    second, issued := t.issued ++ [(p.side, ({ uid := p.uid, rank := p.rank } : BraidRef))]
    busyNext := if slow then t.busyNext ++ [p.side] else t.busyNext }

end Sys2Proof.Machine
end

