-- ==== Sys2Proof/Certificates/Slice0/Obligations.lean ====
section
/-! DEFINITION. The statements for the provers. -/

open Sys2Proof Sys2Proof.Machine

/-! Encoding -/

/-- R131, R142: decoding the encoding of any well-formed instruction gives it back, with every field at every value
that the encoding admits, from its bits and from its bytes whatever follows them.
The model's choice where the spec leaves it open: log entry 18. -/
def Obligations.DecodeEncode : Prop :=
  ∀ i : Instr, i.encodable = true → i.wellFormed = true →
    decodeBits (encode i) = .ok i ∧
    ∀ rest : List Byte, decode (encodeBytes i ++ rest) = some (.ok (i, rest))

/-- R131, R141: what the decoder accepts is a well-formed instruction with an encoding, and its encoding is the bits
that were read, up to its own length.
The model's choice where the spec leaves it open: log entry 18. -/
def Obligations.EncodeDecode : Prop :=
  ∀ (raw : BitVec 128) (i : Instr), decodeBits raw = .ok i →
    i.encodable = true ∧ i.wellFormed = true ∧ encode i = trimRaw raw

/-- R131, R137-R139, R142: words written out from the encoding tables decode to the instructions they stand for. -/
def Obligations.SpecWords : Prop :=
  let f0 : Fields := { len := 0, s := false, m := false, g := 0, d := 0, a := 0, b := 0, c := 0, f := 0, x := 0, h := 0, e := 0, l := 0 }
  decodeTableWord 64 0x0000300040830100 = some (.add { f0 with d := 3, a := 1, b := 1, f := 3 }) ∧
  decodeTableWord 96 0x000000050000300000010591 = some (.movi { f0 with len := 1, d := 1, f := 3, e := 5 }) ∧
  decodeTableWord 64 0x0402300004820880 = some (.ld { f0 with d := 2, a := 9, f := 3, x := 2, h := 4 }) ∧
  decodeTableWord 64 0x0402300084830890 = some (.st { f0 with d := 3, a := 9, b := 2, f := 3, x := 2, h := 4 }) ∧
  decodeTableWord 96 0x001300030300000000800621 =
    some (.jtb { f0 with len := 1, a := 1, h := 3, e := 0x00130003 }) ∧
  decodeTableWord 64 0x000000000000A660 = some (.exit { f0 with g := 0xA }) ∧
  decodeTableWord 64 0x00000000000200660 = none ∧
  decodeTableWord 64 0x0000C080C1010A20 = some (.mma { f0 with d := 1, a := 2, b := 3, c := 4, f := 12 }) ∧
  decodeTableWord 64 0x1300000000800F10 = some (.swr { f0 with a := 1, h := 0x13 })

/-- R131, R132, R142, R143, R149: LEN = 11, then the guard 0b1000, then an opcode that the map does not assign are
refused in that order, with DETAIL 1, 2 and 3; so is an opcode at a length that its key does not permit, with 4.
The model's choice where the spec leaves it open: log entry 18. -/
def Obligations.IllegalOrder : Prop :=
  ∀ raw : BitVec 128,
    (lenOf raw = 3 → decodeBits raw = .error ⟨trimRaw raw, 1, 0⟩) ∧
    (lenOf raw ≠ 3 → raw.extractLsb' 12 4 = 8 → decodeBits raw = .error ⟨trimRaw raw, 2, 7⟩) ∧
    (lenOf raw ≠ 3 → raw.extractLsb' 12 4 ≠ 8 →
      ((opOf raw).toNat = 0 ∨ (0x02 ≤ (opOf raw).toNat ∧ (opOf raw).toNat ≤ 0x0F) ∨
        (0x2D ≤ (opOf raw).toNat ∧ (opOf raw).toNat ≤ 0x2F) ∨ (0x41 ≤ (opOf raw).toNat ∧ (opOf raw).toNat ≤ 0x47) ∨
        (opOf raw).toNat = 0x4F ∨ (opOf raw).toNat = 0x57 ∨ (0x5C ≤ (opOf raw).toNat ∧ (opOf raw).toNat ≤ 0x5F) ∨
        (opOf raw).toNat = 0x67 ∨ (0x6B ≤ (opOf raw).toNat ∧ (opOf raw).toNat ≤ 0x6F) ∨
        (0x7C ≤ (opOf raw).toNat ∧ (opOf raw).toNat ≤ 0x7F) ∨ (0x85 ≤ (opOf raw).toNat ∧ (opOf raw).toNat ≤ 0x87) ∨
        (0x8D ≤ (opOf raw).toNat ∧ (opOf raw).toNat ≤ 0x8F) ∨ (0x95 ≤ (opOf raw).toNat ∧ (opOf raw).toNat ≤ 0x97) ∨
        (0x9D ≤ (opOf raw).toNat ∧ (opOf raw).toNat ≤ 0x9F) ∨ (0xAA ≤ (opOf raw).toNat ∧ (opOf raw).toNat ≤ 0xAF) ∨
        (0xB4 ≤ (opOf raw).toNat ∧ (opOf raw).toNat ≤ 0xB7) ∨ (0xBE ≤ (opOf raw).toNat ∧ (opOf raw).toNat ≤ 0xEF) ∨
        0xF6 ≤ (opOf raw).toNat) →
      decodeBits raw = .error ⟨trimRaw raw, 3, 0⟩) ∧
    (∀ (i : Instr) (n : Info), raw.extractLsb' 12 4 ≠ 8 → lenOf raw ≠ 3 → assemble (opOf raw).toNat (fieldsOf raw) = some i →
      i.info = some n → n.shape.lens.contains (lenOf raw) = false → decodeBits raw = .error ⟨trimRaw raw, 4, 0⟩)

/-! The step -/

/-- R70-R73, R135: when no second group and no event is due, and a side has chosen a group whose bytes decode to the
instruction i, a step is exec of i for that group, with what the issue marks before it and after it; the instruction of
a group that may be chosen is what a fetch yields at its program counter for its team, in the state in which the group
is considered, which for a braid in one group is the state of the step itself; an event at the head of the inputs is
performed; and a fetch whose checks pass yields the
instruction that the bytes there decode to.
The model's choice where the spec leaves it open: log entries 1, 2, 3, 14, 24, 100. -/
def Obligations.StepRunsDecoded : Prop :=
  (∀ (s s' : State) (p : Pick) (i : Instr), s.second = none → s.inputs = [] →
    serveSides (busySides s) s = (s', some p) → p.first.what = .instr i →
    step s = mapNext (exec i (begunState s' p)) (fun t => closeCycle (chosenState s' p) p (endIssue p.issue t))) ∧
  (∀ (s : State) (x : Instr) (rest : List Instr), s.second = none → s.inputs = x :: rest → x.isEvent = true →
    step s = exec x { s with inputs := rest }) ∧
  (∀ (a : Considered) (uid rank : Nat) (g : Pc × Mask) (c : Cand), c ∈ (considerGroup uid rank a g).cand → c ∈ a.cand ∨
    ∃ t, a.s.team? uid = some t ∧ c.pc = g.1 ∧ c.lanes = g.2 ∧ c.what = (fetch a.s t g.1).2) ∧
  (∀ (s : State) (uid rank : Nat) (t : Team) (b : Braid), s.team? uid = some t → t.braids[rank]? = some b →
    t.replay = none →
    (∀ c ∈ (considerBraid s uid rank).2,
      c ∈ (b.groups.foldl (considerGroup uid rank) { s, cand := [], allSafe := !b.groups.isEmpty }).cand) ∧
    ∀ g, b.groups = [g] → ∀ c ∈ (considerBraid s uid rank).2,
      c.pc = g.1 ∧ c.lanes = g.2 ∧ c.what = (fetch s t g.1).2) ∧
  (∀ (s s' : State) (t : Team) (pc : Pc) (bs : List Byte) (i : Instr), codeBytes s t pc.toNat = (s', .ok bs) →
    fetchCheck t.codeLen pc.toNat (BitVec.ofNat 128 (leNat bs)) = 0 →
    decodeBits (BitVec.ofNat 128 (leNat bs)) = .ok i → fetch s t pc = (s', .instr i))

/-- R326, R337, R352, R367, R381, R386, R388, R391, R401: after reset every memory is in canonical form, no memory lists
a byte, no team is bound, no link is up, and every system register of a partition, at every index, holds its reset
value: fqlen 16, closeto 1,000, detslots 16, trlen 64, rampslope 40, pwrcap 4,500, thermhi 760, tellen 64, and every
other one zero. That devid reads 1 and lcstate 2, which the spec says are fixed in the device, is the model's choice.
The model's choice where the spec leaves it open: log entries 5, 6, 7, 8. -/
def Obligations.ResetState : Prop :=
  State.reset.memoryOk ∧ (∀ a, State.reset.mem.get a = 0) ∧ (∀ a, State.reset.chip.get a = 0) ∧
  State.reset.teams = [] ∧ State.reset.launches = [] ∧ State.reset.bootstage = 0 ∧ State.reset.clock = 0 ∧
  State.reset.links = [] ∧ State.reset.inputs = [] ∧ State.reset.fabOut = [] ∧ State.reset.hostOut = [] ∧
  (∃ p, State.reset.parts = [p]) ∧
  (∀ p ∈ State.reset.parts, ∀ idx, idx < 65536 →
    (∀ num ∈ [0x0002, 0x0010, 0x0012, 0x0013, 0x0014, 0x0020, 0x0021, 0x0030, 0x0031, 0x0050, 0x0060,
        0x0100, 0x0101, 0x0102, 0x0110, 0x0111, 0x0112, 0x0120, 0x0121, 0x0122, 0x0123,
        0x0200, 0x0201, 0x0202, 0x0203, 0x0204, 0x0205, 0x0206, 0x0207,
        0x0300, 0x0301, 0x0308, 0x0309, 0x0310, 0x0312, 0x0313, 0x0314, 0x0315,
        0x0320, 0x0321, 0x0322, 0x0330, 0x0331, 0x0332, 0x0333, 0x0334,
        0x0401, 0x0412, 0x0420, 0x0422,
        0x0500, 0x0501, 0x0510, 0x0511, 0x0512, 0x0513, 0x0520, 0x0521],
      State.reset.sysRead p num idx = 0) ∧
    (∀ x ∈ [(0x0001, 0x01), (0x0011, 16), (0x0040, 1000), (0x0311, 64), (0x0400, 2), (0x0410, 40), (0x0411, 4500),
        (0x0413, 760), (0x0421, 64), (0x0530, 16)],
      State.reset.sysRead p x.1 idx = BitVec.ofNat 64 x.2)) ∧
  (∀ p ∈ State.reset.parts, ∀ k, k < 24 → State.reset.sysRead p 0x0402 k = 0) ∧
  (∀ p ∈ State.reset.parts, State.reset.sysRead p 0x0430 0 = 0)

/-- R400: every step keeps every memory in the model's canonical form: addresses rise, and no listed byte is zero.
The model's choice where the spec leaves it open: log entry 6. -/
def Obligations.StepKeepsMemoryForm : Prop :=
  ∀ s t : State, s.memoryOk → step s = .next t → t.memoryOk

/-- R142, R144, R146: every row of the opcode map has its meaning, an encoding that is none has the trap of cause 0x01, and
every event its effect: no instruction and no event is ever refused; and an instruction whose
issue names a braid of a bound team never stops the machine: it ends in a next state. -/
def Obligations.GoesOn : Prop :=
  (∀ (i : Instr) (s : State) (r : Refusal), exec i s ≠ .refused r) ∧
  (∀ (i : Instr) (n : Info) (s : State) (e : Env), Issues i n s e → ∃ t, exec i s = .next t)

/-! Traps -/

/-- R78, R145, R157, R187: an issue with no active lane changes nothing but the program counters of its participating
lanes, for every instruction that may run at all. -/
def Obligations.NoActiveLane : Prop :=
  ∀ i n s e, Issues i n s e → e.act = 0 → (n.cls = .priv → e.t.launch = none) → exec i s = .next (finish e (.go s))

/-- R57, R59, R78, R81, R85, R133, R143, R145, R146, R324: the checks before an effect. A privileged instruction of a braid
that belongs to no supervisor team raises cause 0x03, in its participating lanes where none is active; a braid-wide one
without all living lanes cause 0x06 where no condition of an earlier order holds; M = 1 with a vector field outside a
melded region, and UNMELD there, cause 0x0A, and MELD inside one cause 0x09; a vector field that names a register at or
above nv cause 0x04, for the first field in order that does, in every active lane, or where R81 translates the field, in
the lanes whose translation names such a register; and, for every instruction with checked operands, an operand of
another tag cause 0x05, whose emask names every active lane in which any checked operand fails.
The model's choice where the spec leaves it open: log entries 17, 81, 125. -/
def Obligations.CheckTraps : Prop :=
  (∀ i n s e, Issues i n s e → n.cls = .priv → e.t.launch ≠ none →
     TrapsWith i s e { cause := 3, lanes := if e.act = 0 then e.part else e.act }) ∧
  (∀ i n s e, Issues i n s e → i.braidWide = true → e.act ≠ 0 → e.act ≠ e.b.liveMask →
     (e.f.m = true → n.vecs.any = true → e.b.meld = true) →
     (∀ f, i = .meld f → e.b.meld = false) → (∀ f, i = .unmeld f → e.b.meld = true) →
     TrapsWith i s e { cause := 6, lanes := e.act }) ∧
  (∀ i n s e, Issues i n s e → e.act ≠ 0 → (n.cls = .priv → e.t.launch = none) →
     (e.b.meld = false → ((e.f.m = true ∧ n.vecs.any = true) ∨ ∃ f, i = .unmeld f) →
       TrapsWith i s e { cause := 10, lanes := e.act }) ∧
     (e.b.meld = true → (∃ f, i = .meld f) → TrapsWith i s e { cause := 9, lanes := e.act })) ∧
  (∀ i n s e, Issues i n s e → e.act ≠ 0 → (n.cls = .priv → e.t.launch = none) →
     (e.f.m = true → n.vecs.any = true → e.b.meld = true) → (∀ f, i = .meld f → e.b.meld = false) →
     (∀ f, i = .unmeld f → e.b.meld = true) → (i.braidWide = true → e.act = e.b.liveMask) →
     let fields := [(n.vecs.d, e.f.d, 1), (n.vecs.a, e.f.a, 2), (n.vecs.b, e.f.b, 3), (n.vecs.c, e.f.c, 4)]
     let beyond := fun (v : BitVec 7) (l : Nat) => e.t.nv ≤ e.b.vecName e.f l v
     ∀ v k, (true, v, k) ∈ fields → (∃ l ∈ Mask.lanes e.act, beyond v l) →
       (∀ y ∈ fields, y.1 = true → y.2.2 < k → ∀ l ∈ Mask.lanes e.act, ¬ beyond y.2.1 l) →
       ∃ x, TrapsWith i s e x ∧ x.cause = 4 ∧ x.opnd = k ∧
         e.LanesWhere x.lanes (fun l => e.f.m = true → e.b.meld = true → 112 ≤ v.toNat → beyond v l) ∧
         ∃ l ∈ Mask.lanes e.act, beyond v l ∧ x.value = e.b.vecName e.f l v ∧ ∀ m ∈ Mask.lanes e.act, beyond v m → l ≤ m) ∧
  (∀ f : Fields,
     TagChecked (.add f) Env.tagsAB ∧ TagChecked (.sub f) Env.tagsAB ∧ TagChecked (.mul f) Env.tagsAB ∧
     TagChecked (.mulh f) Env.tagsAB ∧ TagChecked (.mad f) Env.tagsABC ∧ TagChecked (.div f) Env.tagsAB ∧
     TagChecked (.rem f) Env.tagsAB ∧ TagChecked (.min f) Env.tagsAB ∧ TagChecked (.max f) Env.tagsAB ∧
     TagChecked (.abs f) Env.tagsA ∧ TagChecked (.neg f) Env.tagsA ∧
     TagChecked (.addc f) (fun e => [e.checkA 8, e.checkB 8]) ∧ TagChecked (.subb f) (fun e => [e.checkA 8, e.checkB 8]) ∧
     TagChecked (.bfx f) Env.tagsA ∧ TagChecked (.bfi f) Env.tagsAB ∧ TagChecked (.popc f) Env.tagsA ∧
     TagChecked (.clz f) Env.tagsA ∧ TagChecked (.cmp f) Env.tagsAB ∧ TagChecked (.lea f) Env.tagsAB) ∧
  (∀ f : Fields,
     TagChecked (.fadd f) Env.tagsAB ∧ TagChecked (.fsub f) Env.tagsAB ∧ TagChecked (.fmul f) Env.tagsAB ∧
     TagChecked (.fma f) Env.tagsABC ∧ TagChecked (.fmin f) Env.tagsAB ∧ TagChecked (.fmax f) Env.tagsAB ∧
     TagChecked (.fcmp f) Env.tagsAB ∧ TagChecked (.fdiv f) Env.tagsAB ∧ TagChecked (.frcp f) Env.tagsA ∧
     TagChecked (.frsq f) Env.tagsA ∧ TagChecked (.fsqrt f) Env.tagsA ∧ TagChecked (.fexp2 f) Env.tagsA ∧
     TagChecked (.flog2 f) Env.tagsA ∧ TagChecked (.fsin f) Env.tagsA ∧ TagChecked (.fcos f) Env.tagsA ∧
     TagChecked (.frnd f) Env.tagsA ∧ TagChecked (.fclass f) Env.tagsA) ∧
  (∀ f : Fields,
     TagChecked (.cvt f) (fun e => [e.checkA (BitVec.ofNat 4 (f.h.toNat % 16))]) ∧
     TagChecked (.pack f) Env.tagsAB ∧ TagChecked (.unpk f) Env.tagsA ∧
     TagChecked (.qnt f) (fun e => (if f.x.toNat % 8 = 0 then [] else [e.checkD f.f]) ++ [e.checkA 10]) ∧
     TagChecked (.qntDerive f) (fun e => [e.checkA 10]) ∧ TagChecked (.dqnt f) Env.tagsA ∧
     TagChecked (.matchLanes f) Env.tagsA ∧ TagChecked (.red f) Env.tagsA ∧ TagChecked (.scan f) Env.tagsA)

/-- R147, R149, R327, R328: a user-level trap outside a handler, with EMUL_VEC set, writes the presentation registers, eop with
the header's fields and eregs with each lane's register names after translation among them; the
lanes concerned, or every lane of a melded region, go to EMUL_VEC; the others stay; and nothing else changes:
registers, tags, predicates, call depth and stack, scalars, NMODE, rename tables, meld state and memory. Without a
handler, or inside one, a trap of a user team is a system fault of cause 0x07 that holds ecause in INFO and the lanes
concerned; its record waits for the fault queue of the partition, and the braid stops where it stands.
The model's choice where the spec leaves it open: log entries 15, 16. -/
def Obligations.TrapEntry : Prop :=
  (∀ i n s e (x : Trap), Issues i n s e → e.b.handler = none → e.t.emulVec ≠ 0 →
     let entered := if e.b.meld then e.b.liveMask else x.lanes
     let t := finish e (.trap x)
     SameMemory s t ∧ ∃ b, t.braid? e.t.uid e.rank = some b ∧ OnlyBraid e t b ∧
       b.handler = some entered ∧
       b.pres.ecause.toNat = x.cause % 256 + 256 * (x.detail % 256) + 65536 * (x.opnd % 256) ∧
       b.pres.epc.toNat = s.cur.pc.toNat ∧ b.pres.emask.toNat = x.lanes.toNat ∧
       b.pres.einst0.toNat + 2 ^ 64 * b.pres.einst1.toNat = (encode i).toNat ∧
       b.pres.evalue = word x.value ∧ b.pres.eregs.length = 32 ∧
       (let w := (encode i).toNat
        b.pres.eop.toNat = bitsOf w 11 4 + 2 ^ 8 * bitsOf w 15 12 + 2 ^ 12 * bitsOf w 47 44 + 2 ^ 16 * bitsOf w 55 48 +
          2 ^ 24 * bitsOf w 63 56 + 2 ^ 32 * bitsOf w 1 0 + 2 ^ 34 * bitsOf w 2 2 + 2 ^ 35 * bitsOf w 3 3) ∧
       (∀ l, l < 32 →
         let h := fieldsOf (encode i)
         let name := fun (vec : Bool) (v : BitVec 7) => if vec then e.b.vecName h l v else v.toNat
         b.pres.eregs.getD l 0 = word (name n.vecs.d h.d + 2 ^ 8 * name n.vecs.a h.a + 2 ^ 16 * name n.vecs.b h.b +
           2 ^ 24 * name n.vecs.c h.c)) ∧
       b.pres.enext.toNat = (nextPc s.cur.pc (lenBytes (lenOf (encode i)))).toNat ∧
       b.s = e.b.s ∧ b.nmode = e.b.nmode ∧ b.mt0 = e.b.mt0 ∧ b.mt1 = e.b.mt1 ∧ b.meld = e.b.meld ∧ b.path = e.b.path ∧
       b.lanes.length = e.b.lanes.length ∧
       ∀ l, l < e.b.lanes.length →
         (b.lane l).pc = (if entered.getLsbD l then BitVec.ofNat 32 e.t.emulVec else (e.b.lane l).pc) ∧
         (b.lane l).v = (e.b.lane l).v ∧ (b.lane l).tags = (e.b.lane l).tags ∧ (b.lane l).preds = (e.b.lane l).preds ∧
         (b.lane l).depth = (e.b.lane l).depth ∧ (b.lane l).stack = (e.b.lane l).stack ∧
         (b.lane l).priv = (e.b.lane l).priv ∧ (b.lane l).live = (e.b.lane l).live) ∧
  (∀ i n s e (x : Trap) (p : Partition), Issues i n s e → (e.b.handler ≠ none ∨ e.t.emulVec = 0) → e.t.launch ≠ none →
     s.part? e.t.part = some p →
     ∃ (r : FaultRec) (q : Partition) (b : Braid), (finish e (.trap x)).part? e.t.part = some q ∧
       q.faultWait = p.faultWait ++ [r] ∧ r.cause = 7 ∧ r.info = word x.ecause ∧ r.lanes = x.lanes ∧
       r.pc = s.cur.pc.toNat ∧ r.rank = s.cur.rank ∧ r.team = e.t.index ∧
       (finish e (.trap x)).braid? e.t.uid e.rank = some b ∧ b.stop = .fault r.id ∧ b.lanes = e.b.lanes ∧
       (e.b.handler ≠ none → b.pres = e.b.pres))

/-! Integer and bit instructions -/

/-- R92, R160, R161: ADD, SUB, MUL, MAD, ABS and NEG form the exact result in every element of every active lane and
narrow it: clamped or wrapped as SAT of F's nibble says, and wrapped with X[0]; MULH gives the floor of a · b / 2^w, MIN
the lesser and MAX the greater operand, in F's signedness; LEA gives (a + b · 2^sh) mod 2^64 with sh = H[2:0]. -/
def Obligations.IntegerArithmetic : Prop :=
  (∀ f : Fields,
     let nar := fun (e : Env) (v : Int) => if f.x.getLsbD 0 then wrappedInt f.f v else e.narrowed v
     WritesInts (.add f) f.f Env.tagsAB (fun e l k => nar e (e.intA l k + e.intB l k)) ∧
     WritesInts (.sub f) f.f Env.tagsAB (fun e l k => nar e (e.intA l k - e.intB l k)) ∧
     WritesInts (.mul f) f.f Env.tagsAB (fun e l k => nar e (e.intA l k * e.intB l k)) ∧
     WritesInts (.mad f) f.f Env.tagsABC (fun e l k => nar e (e.intA l k * e.intB l k + e.intC l k)) ∧
     WritesInts (.abs f) f.f Env.tagsA (fun e l k => nar e ((e.intA l k).natAbs : Int)) ∧
     WritesInts (.neg f) f.f Env.tagsA (fun e l k => nar e (-e.intA l k))) ∧
  (∀ f : Fields,
     WritesInts (.mulh f) f.f Env.tagsAB (fun e l k => Int.fdiv (e.intA l k * e.intB l k) (2 ^ fmtWidth f.f)) ∧
     WritesInts (.min f) f.f Env.tagsAB (fun e l k => min (e.intA l k) (e.intB l k)) ∧
     WritesInts (.max f) f.f Env.tagsAB (fun e l k => max (e.intA l k) (e.intB l k))) ∧
  (∀ (f : Fields) n s e, Performs (.lea f) n s e → e.tagged e.tagsAB →
     ∃ val, Writes (.lea f) s e val (fun _ => f.f) ∧ ∀ l ∈ Mask.lanes e.act,
       (val l).toNat = ((e.srcA l).toNat + (e.srcB l).toNat * 2 ^ (f.h.toNat % 8)) % 2 ^ 64)

/-- R163: DIV truncates the exact quotient toward zero and narrows it under R92, so that only min / -1 leaves the
range; REM gives a - b · trunc(a / b), with the sign of a; and a divisor of zero gives the row of the table, with no
trap. -/
def Obligations.Division : Prop :=
  ∀ f : Fields,
    WritesInts (.div f) f.f Env.tagsAB (fun e l k =>
      if e.intB l k = 0 then
        (if isSigned f.f then (if 0 ≤ e.intA l k then 2 ^ (fmtWidth f.f - 1) - 1 else -2 ^ (fmtWidth f.f - 1))
         else 2 ^ fmtWidth f.f - 1)
      else e.narrowed (Int.tdiv (e.intA l k) (e.intB l k))) ∧
    WritesInts (.rem f) f.f Env.tagsAB (fun e l k =>
      if e.intB l k = 0 then e.intA l k
      else e.intA l k - e.intB l k * Int.tdiv (e.intA l k) (e.intB l k))

/-- R162: ADDC forms a + b + pC and SUBB a - b - pC on whole registers: D takes it modulo 2^64, and the predicate that
H names takes t ≥ 2^64 or t < 0 in every active lane. NMODE plays no part, H[7:3] and the kind bit of C are zero, a
carry-out named p0 is discarded, and the immediate of the 96-bit form is sign-extended. -/
def Obligations.Carries : Prop :=
  ∀ f : Fields,
    (∀ n s e, Performs (.addc f) n s e → e.tagged [e.checkA 8, e.checkB 8] →
      ∃ val out, exec (.addc f) s
          = .next (finish e (.go (e.writePred (e.writeD val fun _ => 8) (f.h.toNat % 8) out))) ∧
        ∀ l ∈ Mask.lanes e.act,
          let t := (e.srcA l).toNat + (e.srcB l).toNat + (if (e.b.lane l).pred f.c.toNat then 1 else 0)
          (val l).toNat = t % 2 ^ 64 ∧ (out l = true ↔ 2 ^ 64 ≤ t)) ∧
    (∀ n s e, Performs (.subb f) n s e → e.tagged [e.checkA 8, e.checkB 8] →
      ∃ val out, exec (.subb f) s
          = .next (finish e (.go (e.writePred (e.writeD val fun _ => 8) (f.h.toNat % 8) out))) ∧
        ∀ l ∈ Mask.lanes e.act,
          let t := ((e.srcA l).toNat : Int) - (e.srcB l).toNat - (if (e.b.lane l).pred f.c.toNat then 1 else 0)
          ((val l).toNat : Int) = t % 2 ^ 64 ∧ (out l = true ↔ t < 0)) ∧
    (((Instr.addc f).wellFormed = true ∨ (Instr.subb f).wellFormed = true) →
      f.f = 8 ∧ f.h.toNat < 8 ∧ f.c.toNat < 8 ∧ f.kindC = false) ∧
    (∀ (x : Lane) (v : Bool), x.setPred 0 v = x) ∧
    (∀ (e : Env) (l : Nat), e.f.len = 1 → e.f.f = 8 → e.srcB l = e.f.e.signExtend 64)

/-- R60, R160, R165, R166, R176: AND, OR, XOR, NOT and SEL work on whole registers whatever their tags, MOV copies A, and
each lane's result has the tag of A in that lane; TAG keeps the bits and sets the tag F. The shifts and BREV work on
elements of the width of F, n is element b unsigned, and the result has the tag of A. BFX takes the field of element a
that the control names, zero- or sign-extended; BFI replaces that field by the low bits of b; POPC counts one bits and
CLZ leading zeros. -/
def Obligations.BitInstructions : Prop :=
  (∀ f : Fields,
     Completes (.and f) Env.anyTag (fun e => e.writeD (fun l => e.srcA l &&& e.srcB l) e.tagA) ∧
     Completes (.or f) Env.anyTag (fun e => e.writeD (fun l => e.srcA l ||| e.srcB l) e.tagA) ∧
     Completes (.xor f) Env.anyTag (fun e => e.writeD (fun l => e.srcA l ^^^ e.srcB l) e.tagA) ∧
     Completes (.not f) Env.anyTag (fun e => e.writeD (fun l => ~~~ e.srcA l) e.tagA) ∧
     Completes (.sel f) Env.anyTag (fun e =>
       e.writeD (fun l => if (e.b.lane l).pred f.c.toNat then e.srcA l else e.srcB l) e.tagA) ∧
     Completes (.mov f) Env.anyTag (fun e => e.writeD e.srcA e.tagA) ∧
     Completes (.tag f) Env.anyTag (fun e => e.writeD e.srcA fun _ => f.f)) ∧
  (∀ f : Fields,
     let w := fmtWidth f.f
     WritesWhere (.shl f) f.f Env.anyTag (fun e => e.tagA) (fun e l k x =>
       x = if w ≤ e.bitsB l k then 0 else e.bitsA l k * 2 ^ e.bitsB l k % 2 ^ w) ∧
     WritesWhere (.shr f) f.f Env.anyTag (fun e => e.tagA) (fun e l k x =>
       x = if w ≤ e.bitsB l k then 0 else e.bitsA l k / 2 ^ e.bitsB l k) ∧
     WritesWhere (.sar f) f.f Env.anyTag (fun e => e.tagA) (fun e l k x =>
       signed w x = if w ≤ e.bitsB l k then (if signed w (e.bitsA l k) < 0 then -1 else 0)
         else Int.fdiv (signed w (e.bitsA l k)) (2 ^ e.bitsB l k)) ∧
     WritesWhere (.rot f) f.f Env.anyTag (fun e => e.tagA) (fun e l k x =>
       ∀ j, j < w → x.testBit ((j + e.bitsB l k) % w) = (e.bitsA l k).testBit j) ∧
     WritesWhere (.brev f) f.f Env.anyTag (fun e => e.tagA) (fun e l k x =>
       ∀ j, j < w → x.testBit j = (e.bitsA l k).testBit (w - 1 - j))) ∧
  (∀ f : Fields,
     let w := fmtWidth f.f
     let size := fun (k : Word) =>
       if k.toNat / 256 % 128 = 0 then 0 else min (k.toNat % 128 + k.toNat / 256 % 128) w - k.toNat % 128
     WritesWhere (.bfx f) f.f Env.tagsA (fun _ _ => f.f) (fun e l k x =>
       let c := if f.len = 1 then f.e.signExtend 64 else e.srcB l
       let pos := c.toNat % 128
       (size c = 0 → x = 0) ∧ ∀ j, j < w → size c ≠ 0 →
         x.testBit j = if j < size c then (e.bitsA l k).testBit (pos + j)
           else f.x.getLsbD 0 && (e.bitsA l k).testBit (pos + size c - 1)) ∧
     WritesWhere (.bfi f) f.f Env.tagsAB (fun _ _ => f.f) (fun e l k x =>
       let pos := (e.srcC l).toNat % 128
       ∀ j, j < w → x.testBit j = if pos ≤ j ∧ j < pos + size (e.srcC l) then (e.bitsB l k).testBit (j - pos)
         else (e.bitsA l k).testBit j) ∧
     WritesWhere (.popc f) f.f Env.tagsA (fun _ _ => f.f) (fun e l k x =>
       x = ((List.range w).filter fun j => (e.bitsA l k).testBit j).length) ∧
     WritesWhere (.clz f) f.f Env.tagsA (fun _ _ => f.f) (fun e l k x =>
       x ≤ w ∧ (∀ j, w - x ≤ j → (e.bitsA l k).testBit j = false) ∧
         (e.bitsA l k = 0 → x = w) ∧ (e.bitsA l k ≠ 0 → (e.bitsA l k).testBit (w - 1 - x) = true)))

/-- R164, R169: CMP and FCMP compare one element of A and B, named by H[3:0], and write the predicate D in every active
lane: eq, ne, lt, le, gt and ge; FCMP also ord and uno, with -0 equal to +0 and NaN unordered. -/
def Obligations.Comparisons : Prop :=
  ∀ f : Fields,
    (∀ n s e, Performs (.cmp f) n s e → e.tagged e.tagsAB → f.x.toNat % 8 < 6 →
      ∃ val, WritesPred (.cmp f) s e f.d.toNat val ∧ ∀ l ∈ Mask.lanes e.act,
        let a := e.intA l (f.h.toNat % 16)
        let b := e.intB l (f.h.toNat % 16)
        some (val l) = [decide (a = b), decide (a ≠ b), decide (a < b), decide (a ≤ b), decide (b < a), decide (b ≤ a)][f.x.toNat % 8]?) ∧
    (∀ n s e, Performs (.fcmp f) n s e → e.tagged e.tagsAB →
      ∃ val, WritesPred (.fcmp f) s e f.d.toNat val ∧ ∀ l ∈ Mask.lanes e.act,
        let a := elemValue f.f (elemOf (fmtWidth f.f) (f.h.toNat % 16) (e.srcA l))
        let b := elemValue f.f (elemOf (fmtWidth f.f) (f.h.toNat % 16) (e.srcB l))
        let un := a.isNan || b.isNan
        some (val l) = [a.eq b, !a.eq b, a.lt b, a.lt b || a.eq b, b.lt a, b.lt a || a.eq b, !un, un][f.x.toNat % 8]? ∧
        (un = true → a.eq b = false ∧ a.lt b = false ∧ b.lt a = false))

/-! Floating point and conversion -/

/-- R158, R167, R168: FADD, FSUB, FMUL, FMA, FDIV, FRCP, FRSQ and FSQRT form the exact value of their column and round it
once into F, under NMODE's nibble of F or the code of X, with the draw of R101; so do FEXP2, FLOG2, FSIN and FCOS with
2^a, log2 a, sin(pi a) and cos(pi a), whose special cases are exact: FEXP2 of ±0 is 1, FLOG2 of ±0 is -∞ and of a
negative value is NaN, FSIN of an integer is a zero with its sign, FCOS of a half-integer is +0, and FSIN and FCOS of
an infinity are NaN.
The model's choice where the spec leaves it open: log entry 29. -/
def Obligations.FloatArithmetic : Prop :=
  (∀ f : Fields,
     let rounded := fun (e : Env) (l k : Nat) (v : Val) =>
       roundTo f.f v (e.rnd f.f) (e.draw (e.rnd f.f).code l k (e.bitsA l k)) % 2 ^ fmtWidth f.f
     let a := fun (e : Env) (l k : Nat) => elemValue f.f (e.bitsA l k)
     let b := fun (e : Env) (l k : Nat) => elemValue f.f (e.bitsB l k)
     let c := fun (e : Env) (l k : Nat) => elemValue f.f (elemOf (fmtWidth f.f) k (e.srcC l))
     let down := fun (e : Env) => (e.rnd f.f).code == 2
     WritesElems (.fadd f) f.f Env.tagsAB (fun e l k => rounded e l k ((a e l k).add (b e l k) (down e))) ∧
     WritesElems (.fsub f) f.f Env.tagsAB (fun e l k => rounded e l k ((a e l k).add (b e l k).neg (down e))) ∧
     WritesElems (.fmul f) f.f Env.tagsAB (fun e l k => rounded e l k ((a e l k).mul (b e l k))) ∧
     WritesElems (.fma f) f.f Env.tagsABC (fun e l k =>
       rounded e l k (((a e l k).mul (b e l k)).add (c e l k) (down e))) ∧
     WritesElems (.fdiv f) f.f Env.tagsAB (fun e l k => rounded e l k ((a e l k).div (b e l k))) ∧
     WritesElems (.frcp f) f.f Env.tagsA (fun e l k => rounded e l k ((Val.num false 1 1).div (a e l k))) ∧
     WritesElems (.frsq f) f.f Env.tagsA (fun e l k => rounded e l k (a e l k).rsqrt) ∧
     WritesElems (.fsqrt f) f.f Env.tagsA (fun e l k => rounded e l k (a e l k).sqrt)) ∧
  ((∀ f : Fields,
     let rounded := fun (e : Env) (l k : Nat) (v : Val) =>
       roundTo f.f v (e.rnd f.f) (e.draw (e.rnd f.f).code l k (e.bitsA l k)) % 2 ^ fmtWidth f.f
     let a := fun (e : Env) (l k : Nat) => elemValue f.f (e.bitsA l k)
     WritesElems (.fexp2 f) f.f Env.tagsA (fun e l k => rounded e l k (a e l k).exp2) ∧
     WritesElems (.flog2 f) f.f Env.tagsA (fun e l k => rounded e l k (a e l k).log2) ∧
     WritesElems (.fsin f) f.f Env.tagsA (fun e l k => rounded e l k (a e l k).sinPi) ∧
     WritesElems (.fcos f) f.f Env.tagsA (fun e l k => rounded e l k (a e l k).cosPi)) ∧
   (∀ (s : Bool) (n d : Nat), 0 < d →
     (Val.num s 0 d).exp2 = .num false 1 1 ∧ (Val.num s 0 d).log2 = .inf true ∧
     (0 < n → (Val.num true n d).log2 = .nan) ∧
     (Val.num s (n * d) d).sinPi = .num s 0 1 ∧
     (Val.num s ((2 * n + 1) * d) (2 * d)).cosPi = .num false 0 1 ∧
     (Val.inf s).sinPi = .nan ∧ (Val.inf s).cosPi = .nan))

/-- R168, R170: FMIN and FMAX give one operand exactly, with -0 below +0 and NaN for a NaN operand; FRND gives one of the two
integral neighbours of a, the one its code names, with the sign of a, an integral a itself, and NaN and the infinities as
they are; FCLASS sets exactly one bit of its mask, tagged N64, N32 or N16.
The model's choice where the spec leaves it open: log entry 89. -/
def Obligations.FloatSelections : Prop :=
  ∀ f : Fields, 9 ≤ f.f.toNat → f.f.toNat ≤ 12 →
    let value := fun (x : Nat) => elemValue f.f x
    let nan := (floatFmt f.f).nan
    WritesWhere (.fmin f) f.f Env.tagsAB (fun _ _ => f.f) (fun e l k x =>
      let a := e.bitsA l k
      let b := e.bitsB l k
      if (value a).isNan || (value b).isNan then x = nan
      else (x = a ∨ x = b) ∧ (value a).lt (value x) = false ∧ (value b).lt (value x) = false ∧
        ((value a).eq (value b) = true → (value x).isNeg = ((value a).isNeg || (value b).isNeg))) ∧
    WritesWhere (.fmax f) f.f Env.tagsAB (fun _ _ => f.f) (fun e l k x =>
      let a := e.bitsA l k
      let b := e.bitsB l k
      if (value a).isNan || (value b).isNan then x = nan
      else (x = a ∨ x = b) ∧ (value x).lt (value a) = false ∧ (value x).lt (value b) = false ∧
        ((value a).eq (value b) = true → (value x).isNeg = ((value a).isNeg && (value b).isNeg))) ∧
    WritesWhere (.frnd f) f.f Env.tagsA (fun _ _ => f.f) (fun e l k x =>
      let a := e.bitsA l k
      let code := (e.rnd f.f).code
      x = roundIntegral f.f a code (e.draw code l k a) % 2 ^ fmtWidth f.f ∧
      (value a = .nan → x = nan) ∧ (∀ neg, value a = .inf neg → x = a) ∧
      ∀ neg n d, value a = .num neg n d → ∃ m d', value x = .num neg (m * d') d' ∧ 0 < d' ∧
        (m = n / d ∨ m = n / d + 1) ∧ (n % d = 0 → m = n / d) ∧
        (code = 0 → (2 * (n % d) < d → m = n / d) ∧ (d < 2 * (n % d) → m = n / d + 1)) ∧ (code = 1 → m = n / d) ∧
        (code = 2 → n % d ≠ 0 → m = if neg then n / d + 1 else n / d) ∧
        (code = 3 → n % d ≠ 0 → m = if neg then n / d else n / d + 1) ∧
        (code = 4 → n % d ≠ 0 → (m = n / d + 1 ↔ d ≤ 2 * (n % d)))) ∧
    WritesWhere (.fclass f) f.f Env.tagsA
      (fun _ _ => if f.f = 9 then 8 else if f.f = 10 then 7 else 6) (fun e l k x =>
        let v := value (e.bitsA l k)
        ∃ c, c ≤ 8 ∧ x = 2 ^ c ∧ (c = 8 ↔ v = .nan) ∧ (c = 0 ↔ v = .inf true) ∧ (c = 7 ↔ v = .inf false) ∧
          ((c = 3 ∨ c = 4) ↔ v.isZero = true) ∧ (c = 1 ∨ c = 2 ∨ c = 3 → v.isNeg = true) ∧
          (c = 4 ∨ c = 5 ∨ c = 6 → v.isNeg = false))

/-- R171-R174: CVT converts element j · nd + i of A, or writes 0 beyond the source; PACK and UNPK move a half of each
source; QNT applies a block scale to two F32 elements, rounds and narrows a finite value for I8, and keeps or clears the
other elements; QNT.derive finds the scale of
the active lanes of one half; DQNT widens two elements under a scale.
The model's choice where the spec leaves it open: log entries 28, 90. -/
def Obligations.Conversions : Prop :=
  ∀ f : Fields,
    let w := fmtWidth f.f
    let n := fmtCount f.f
    let src : Tag := BitVec.ofNat 4 (f.h.toNat % 16)
    let j := f.x.toNat % 8
    WritesElems (.cvt f) f.f (fun e => [e.checkA src]) (fun e l k =>
      if f.h.toNat / 16 * n + k < fmtCount src then
        let x := elemOf (fmtWidth src) (f.h.toNat / 16 * n + k) (e.srcA l)
        convertElem src f.f e.b.nmode (e.rnd f.f) (e.draw (e.rnd f.f).code l k x) x % 2 ^ w
      else 0) ∧
    (n % 2 = 0 →
      let o := if f.x.getLsbD 0 then n / 2 else 0
      WritesElems (.pack f) f.f Env.tagsAB (fun e l k =>
        if k < n / 2 then e.bitsA l (o + k) else e.bitsB l (o + (k - n / 2))) ∧
      WritesElems (.unpk f) f.f Env.tagsA (fun e l k => if k < n / 2 then e.bitsA l (o + k) else 0)) ∧
    WritesElems (.qnt f) f.f (fun e => (if j = 0 then [] else [e.checkD f.f]) ++ [e.checkA 10]) (fun e l k =>
      if k / 2 = j then
        let x := elemOf 32 (k % 2) (e.srcA l)
        let b := e.scaleByte l
        let r := nmodeRnd e.b.nmode f.f
        let u := e.draw r.code l k x
        let v := if b = 0xFF then Val.nan else (valueF32 x).scale (127 - (b : Int))
        (if isInt f.f then
          match roundInt v r.code u with
          | some i => narrowInt f.f i r.sat
          | none => floatToInt f.f v r u
        else roundTo f.f v r u) % 2 ^ w
      else if j = 0 then 0 else elemOf w k (e.src f.kindD f.d l)) ∧
    Completes (.qntDerive f) (fun e => [e.checkA 10]) (fun e =>
      e.writeD (fun _ => word (deriveScale f.f (((Mask.lanes e.act).filter fun l => l / 16 == f.h.toNat % 2).flatMap
        fun l => [valueF32 (elemOf 32 0 (e.srcA l)), valueF32 (elemOf 32 1 (e.srcA l))]))) fun _ => 0) ∧
    WritesWhere (.dqnt f) 10 Env.tagsA (fun _ _ => 10) (fun e l k x =>
      x = if n ≤ 2 * j + k then 0
        else if e.scaleByte l = 0xFF then (floatFmt 10).nan
        else roundF32 ((elemValue f.f (e.bitsA l (2 * j + k))).scale ((e.scaleByte l : Int) - 127)) % 2 ^ 32)

/-! Cross-lane instructions -/

/-- R60, R177-R180: XLR takes each element from the lane and position that its index word names, where that lane is active
and that position exists, and from C in its own lane otherwise; XLB broadcasts the register of a named, the lowest or
the highest active lane, and XLS shifts or rotates registers within segments of 2^s lanes; a lane whose source is not
active takes C with its tag; and a scalar amount of XLB or XLS with a bit above bit 4 raises cause 0x04 for operand B. -/
def Obligations.LaneMoves : Prop :=
  (∀ f : Fields,
     let idx := fun (e : Env) (l : Nat) => if f.len = 0 then (e.src f.kindB f.b l).toNat % 2 ^ 32 else f.e.toNat
     let lane := fun (e : Env) (l : Nat) =>
       let q := (idx e l % 32 : Int)
       match idx e l / 32 % 4 with
       | 0 => q
       | 1 => ((l ^^^ (idx e l % 32) : Nat) : Int)
       | 2 => l - q
       | _ => l + q
     let pos := fun (e : Env) (l k : Nat) =>
       let q := idx e l / 256 % 16
       match idx e l / 4096 % 4 with
       | 0 => k
       | 1 => q
       | _ => k ^^^ q
     let usable := fun (e : Env) (l k : Nat) =>
       0 ≤ lane e l ∧ lane e l < 32 ∧ e.act.getLsbD (lane e l).toNat = true ∧ pos e l k < fmtCount f.f
     ∀ n s e, Performs (.xlr f) n s e →
       (∀ l ∈ Mask.lanes e.act, idx e l < 2 ^ 14 ∧ idx e l / 128 % 2 = 0 ∧ idx e l / 4096 ≠ 3) →
       ∃ val tag, Writes (.xlr f) s e val tag ∧ ∀ l ∈ Mask.lanes e.act,
         (∀ k, k < fmtCount f.f →
           (usable e l k → elemOf (fmtWidth f.f) k (val l) = e.bitsA (lane e l).toNat (pos e l k)) ∧
           (¬ usable e l k → elemOf (fmtWidth f.f) k (val l) = elemOf (fmtWidth f.f) k (e.srcC l))) ∧
         (usable e l 0 → tag l = e.tagA (lane e l).toNat) ∧ (¬ usable e l 0 → tag l = e.tagC l)) ∧
  (∀ f : Fields,
     let amount := fun (e : Env) => if f.len = 0 then (e.b.sreg f.b.toNat).toNat else f.e.toNat
     let moved := fun (e : Env) (from_ : Nat → Int) =>
       let ok := fun (l : Nat) => decide (0 ≤ from_ l) && decide (from_ l < 32) && e.act.getLsbD (from_ l).toNat
       e.writeD (fun l => if ok l then e.srcA (from_ l).toNat else e.srcC l)
         (fun l => if ok l then e.tagA (from_ l).toNat else e.tagC l)
     (∀ n s e, Performs (.xlb f) n s e → f.variant ≤ 2 → (f.variant = 0 → f.len = 0 → amount e < 32) →
       exec (.xlb f) s = .next (finish e (.go (moved e fun _ =>
         if f.variant = 1 then (((Mask.lanes e.act).headD 0 : Nat) : Int)
         else if f.variant = 2 then (((Mask.lanes e.act).getLastD 0 : Nat) : Int) else (amount e : Int))))) ∧
     (∀ n s e, Performs (.xls f) n s e → f.variant ≤ 2 → (f.len = 0 → amount e < 32) →
       let z := 2 ^ (f.h.toNat % 8)
       exec (.xls f) s = .next (finish e (.go (moved e fun l =>
         let o := l % z
         let base := ((l - o : Nat) : Int)
         if f.variant = 0 then (if amount e ≤ o then base + (o - amount e : Nat) else -1)
         else if f.variant = 1 then (if o + amount e < z then base + (o + amount e : Nat) else -1)
         else base + ((o : Int) - amount e) % (z : Int)))))) ∧
  (∀ (f : Fields) n s e, f.len = 0 → 32 ≤ (e.b.sreg f.b.toNat).toNat →
     let x : Trap := { cause := 4, opnd := 3, lanes := e.act, value := (e.b.sreg f.b.toNat).toNat }
     (Performs (.xlb f) n s e → f.variant = 0 → TrapsWith (.xlb f) s e x) ∧
     (Performs (.xls f) n s e → TrapsWith (.xls f) s e x))

/-- R181, R182: with P the active lanes in which pA holds, VOTE writes whether P is all of ACT, is non-empty or is empty
or all, or its mask; MATCH gives each active lane the mask of the active lanes whose A equals its own, or a predicate
that holds exactly when all are equal. -/
def Obligations.VoteAndMatch : Prop :=
  ∀ (f : Fields) n s e,
    ((Instr.vote f).wellFormed = true → f.f = 0 ∧ f.a.toNat < 8 ∧ f.kindA = false) ∧
    (Performs (.vote f) n s e → f.variant ≤ 3 →
      let p := fun (l : Nat) => e.act.getLsbD l && (e.b.lane l).pred f.a.toNat
      (f.variant < 3 → ∃ val, WritesPred (.vote f) s e f.d.toNat val ∧ ∀ l ∈ Mask.lanes e.act, (val l = true ↔
        (f.variant = 0 ∧ ∀ k ∈ Mask.lanes e.act, p k = true) ∨ (f.variant = 1 ∧ ∃ k ∈ Mask.lanes e.act, p k = true) ∨
        (f.variant = 2 ∧ ((∀ k ∈ Mask.lanes e.act, p k = true) ∨ ∀ k ∈ Mask.lanes e.act, p k = false)))) ∧
      (f.variant = 3 → ∃ val, Writes (.vote f) s e val (fun _ => 8) ∧
        ∀ l k, k < 64 → (val l).getLsbD k = (decide (k < 32) && p k))) ∧
    (Performs (.matchLanes f) n s e → e.tagged e.tagsA → f.variant ≤ 1 →
      (f.variant = 0 → ∃ val, Writes (.matchLanes f) s e val (fun _ => 8) ∧
        ∀ l ∈ Mask.lanes e.act, ∀ k, k < 64 → (val l).getLsbD k
          = (decide (k < 32) && e.act.getLsbD k && (e.srcA k == e.srcA l))) ∧
      (f.variant = 1 → ∃ val, WritesPred (.matchLanes f) s e f.d.toNat val ∧ ∀ l ∈ Mask.lanes e.act,
        (val l = true ↔ ∀ j ∈ Mask.lanes e.act, ∀ k ∈ Mask.lanes e.act, e.srcA j = e.srcA k)))

/-- R183, R184: the integer operations of RED and SCAN, add, min, max, and, or and xor, fold every element position over the active lanes, up to the
lane itself for SCAN, from the identity, and narrow a sum once under R92; the floating-point ones follow the fixed
tree of distances 1, 2, 4, 8 and 16, with inactive lanes at the identity.
The model's choice where the spec leaves it open: log entries 30, 91. -/
def Obligations.Reductions : Prop :=
  ∀ f : Fields,
    let sum := fun (e : Env) (k n : Nat) =>
      (((Mask.lanes e.act).filter fun l => decide (l < n)).map fun l => e.intA l k).foldl (· + ·) 0
    let least := fun (e : Env) (k n : Nat) =>
      (((Mask.lanes e.act).filter fun l => decide (l < n)).map fun l => e.intA l k).foldl min (intMax f.f)
    let greatest := fun (e : Env) (k n : Nat) =>
      (((Mask.lanes e.act).filter fun l => decide (l < n)).map fun l => e.intA l k).foldl max (intMin f.f)
    let upto := fun (l : Nat) => if f.h.getLsbD 0 then l else l + 1
    let bits := fun (e : Env) (k n : Nat) =>
      ((Mask.lanes e.act).filter fun l => decide (l < n)).map fun l => e.bitsA l k
    (f.variant = 0 → WritesInts (.red f) f.f Env.tagsA (fun e _ k => e.narrowed (sum e k 32)) ∧
      WritesInts (.scan f) f.f Env.tagsA (fun e l k => e.narrowed (sum e k (upto l)))) ∧
    (f.variant = 1 → WritesInts (.red f) f.f Env.tagsA (fun e _ k => least e k 32) ∧
      WritesInts (.scan f) f.f Env.tagsA (fun e l k => least e k (upto l))) ∧
    (f.variant = 2 → WritesInts (.red f) f.f Env.tagsA (fun e _ k => greatest e k 32) ∧
      WritesInts (.scan f) f.f Env.tagsA (fun e l k => greatest e k (upto l))) ∧
    (f.variant = 3 → WritesElems (.red f) f.f Env.tagsA (fun e _ k =>
      ((Mask.lanes e.act).map fun l => e.bitsA l k).foldl (· &&& ·) (2 ^ fmtWidth f.f - 1)) ∧
      WritesElems (.scan f) f.f Env.tagsA (fun e l k => (bits e k (upto l)).foldl (· &&& ·) (2 ^ fmtWidth f.f - 1))) ∧
    (f.variant = 4 → WritesElems (.red f) f.f Env.tagsA (fun e _ k =>
      ((Mask.lanes e.act).map fun l => e.bitsA l k).foldl (· ||| ·) 0) ∧
      WritesElems (.scan f) f.f Env.tagsA (fun e l k => (bits e k (upto l)).foldl (· ||| ·) 0)) ∧
    (f.variant = 5 → WritesElems (.red f) f.f Env.tagsA (fun e _ k =>
      ((Mask.lanes e.act).map fun l => e.bitsA l k).foldl (· ^^^ ·) 0) ∧
      WritesElems (.scan f) f.f Env.tagsA (fun e l k => (bits e k (upto l)).foldl (· ^^^ ·) 0)) ∧
    (8 ≤ f.variant → WritesElems (.red f) f.f Env.tagsA (fun e _ k =>
        (redTree f.variant f.f (redStart e k)).getD 0 0 % 2 ^ fmtWidth f.f) ∧
      WritesElems (.scan f) f.f Env.tagsA (fun e l k =>
        (if f.h.getLsbD 0 then (if l = 0 then redFloatId f.variant f.f
            else (scanTree f.variant f.f (redStart e k)).getD (l - 1) 0)
          else (scanTree f.variant f.f (redStart e k)).getD l 0) % 2 ^ fmtWidth f.f))

/-! Moves and special registers -/

/-- R62, R63, R111, R139, R149, R185, R220-R222: MOVI writes the immediate operand of its form; MFS writes a listed special
register, tagged N64, with its value in each lane (core and pmask in the state that logs the value), and traps on another
number; MTS writes NMODE from the lowest active
lane and nothing else, and traps on another number or a reserved value; RNG gives the keyed generator's word at counter
STREAM_BASE + B, and traps where B is not below STREAM_COUNT; CLK gives the clock or the time; PROG counts in the
partition's running trial.
The model's choice where the spec leaves it open: log entries 10, 26. -/
def Obligations.MovesAndSpecials : Prop :=
  (∀ f : Fields,
     Completes (.movi f) Env.anyTag (fun e => e.writeD (fun _ => immOperand f) fun _ => f.f) ∧
     (f.len = 2 → (immOperand f).toNat = f.l.toNat * 2 ^ 32 + f.e.toNat) ∧
     (f.len ≠ 2 → f.f = 9 → immOperand f = word ((floatFmt 9).round (valueF32 f.e.toNat) ⟨0, false⟩ 0)) ∧
     (f.len ≠ 2 → f.f ≠ 9 → fmtWidth f.f = 64 → immOperand f = f.e.signExtend 64) ∧
     (f.len ≠ 2 → fmtWidth f.f < 64 → ∀ k, k < fmtCount f.f →
       elemOf (fmtWidth f.f) k (immOperand f) = f.e.toNat % 2 ^ fmtWidth f.f)) ∧
  (∀ (f : Fields) n s e,
     (Performs (.mfs f) n s e →
       let num := f.h.toNat
       let listed := num ≤ 0x12 ∨ (0x20 ≤ num ∧ num ≤ 0x22) ∨ (0x30 ≤ num ∧ num ≤ 0x47)
       let reads := fun (val : Nat → Word) => Writes (.mfs f) s e val fun _ => 8
       (¬ listed → TrapsWith (.mfs f) s e { cause := 4, opnd := 5, lanes := e.act, value := num }) ∧
       (num = 0x00 → reads fun l => word (e.rank * 32 + l)) ∧ (num = 0x01 → reads fun l => word l) ∧
       (num = 0x02 → reads fun _ => word e.rank) ∧ (num = 0x03 → reads fun _ => word e.t.braids.length) ∧
       (num = 0x07 → reads fun _ => word e.t.index) ∧
       (∀ l0, s.launchOf e.t = some l0 →
         let groups := l0.groups.filter fun g => g.members.contains e.t.index
         (num = 0x04 → reads fun _ => word (e.t.index % l0.gridX)) ∧
         (num = 0x05 → reads fun _ => word (e.t.index / l0.gridX % l0.gridY)) ∧
         (num = 0x06 → reads fun _ => word (e.t.index / (l0.gridX * l0.gridY))) ∧
         (num = 0x08 → reads fun _ => word l0.gridX) ∧ (num = 0x09 → reads fun _ => word l0.gridY) ∧
         (num = 0x0A → reads fun _ => word l0.gridZ) ∧
         (num = 0x0D → (∀ g ∈ groups, g.index < 256) → ∃ v : Nat, reads (fun _ => word v) ∧ ∀ k, k < 4 →
           bitsOf v (16 * k + 15) (16 * k) = match groups[k]? with
             | some g => 256 + g.index
             | none => 0) ∧
         (0x0E ≤ num → num ≤ 0x11 → reads fun _ => match groups[num - 0x0E]? with
           | some g => word (g.rank (s.coordOf e.t) e.t.index)
           | none => BitVec.allOnes 64)) ∧
       (∀ p, s.part? e.t.part = some p → num = 0x0C → reads fun _ => word (p.reg 0x0200 0 % 2 ^ 30)) ∧
       (num = 0x12 → e.t.vblk < 16 → e.t.scrGran < 1024 → e.t.phTiles.length < 16 → ∃ v : Nat, reads (fun _ => word v) ∧
         bitsOf v 3 0 = e.t.vblk ∧ bitsOf v 13 4 = e.t.scrGran ∧ bitsOf v 17 14 = e.t.phTiles.length ∧
         (bitAt v 18 = true ↔ e.t.carve ≠ none) ∧ v < 2 ^ 19) ∧
       (num = 0x20 → reads fun _ => e.b.nmode) ∧ (num = 0x21 → reads fun _ => word e.b.path.toNat) ∧
       (num = 0x30 → reads fun _ => e.b.pres.ecause) ∧ (num = 0x31 → reads fun _ => e.b.pres.epc) ∧
       (num = 0x32 → reads fun _ => e.b.pres.emask) ∧ (num = 0x33 → reads fun _ => e.b.pres.einst0) ∧
       (num = 0x34 → reads fun _ => e.b.pres.einst1) ∧ (num = 0x35 → reads fun _ => e.b.pres.eop) ∧
       (num = 0x36 → reads fun l => e.b.pres.eregs.getD l 0) ∧ (num = 0x37 → reads fun _ => e.b.pres.evalue) ∧
       (num = 0x38 → reads fun _ => e.b.pres.enext) ∧ (0x39 ≤ num → num ≤ 0x3F → reads fun _ => 0) ∧
       (∀ k c, num = 0x40 + k → k < 8 → e.t.trackers.getD k none = some c → reads fun _ => c.bitmap) ∧
       (num = 0x0B ∨ num = 0x22 → e.t.replay = none → ∃ q t, exec (.mfs f) s = .next (finish e (.go t)) ∧
         t = (e.writeD (fun _ => if num = 0x0B then word e.t.core else word e.act.toNat) fun _ => 8).modTeam e.t.uid
           fun u => { u with logQueue := u.logQueue ++ q })) ∧
     (Performs (.mts f) n s e →
       let v := e.srcA ((Mask.lanes e.act).headD 0)
       let reserved := 2 ^ 44 ≤ v.toNat ∨ ∃ k, k < 11 ∧ 6 ≤ elemOf 4 k v % 8
       (f.h.toNat = 0x20 → ¬ reserved →
         exec (.mts f) s = .next (finish e (.go (s.modBraid e.t.uid e.rank fun b => { b with nmode := v })))) ∧
       (f.h.toNat = 0x20 → reserved →
         TrapsWith (.mts f) s e { cause := 4, opnd := 2, lanes := e.act, value := v.toNat }) ∧
       (f.h.toNat ≠ 0x20 → TrapsWith (.mts f) s e { cause := 4, opnd := 5, lanes := e.act, value := f.h.toNat }))) ∧
  (∀ (f : Fields) n s e (l0 : Launch),
     (Performs (.rng f) n s e → s.launchOf e.t = some l0 →
       (∀ l ∈ Mask.lanes e.act, (e.src f.kindB f.b l).toNat < l0.streamCount) →
       Writes (.rng f) s e
         (fun l => word (keyedGen l0.streamKey.toNat ((l0.streamBase + (e.src f.kindB f.b l).toNat) % 2 ^ 64))) fun _ => 8) ∧
     (Performs (.rng f) n s e → s.launchOf e.t = some l0 → f.kindB = true → l0.streamCount ≤ (e.b.sreg f.b.toNat).toNat →
       TrapsWith (.rng f) s e { cause := 4, opnd := 3, lanes := e.act, value := (e.b.sreg f.b.toNat).toNat }) ∧
     (Performs (.clk f) n s e → e.t.replay = none → ∃ t,
       exec (.clk f) s = .next (finish e (.go t)) ∧
       ∃ q, t = (e.writeD (fun _ => word (if f.x.getLsbD 0 then s.time else s.clock)) fun _ => 8).modTeam e.t.uid
         fun u => { u with logQueue := u.logQueue ++ q }) ∧
     (Performs (.prog f) n s e → ∃ g : Partition → Partition,
       exec (.prog f) s = .next (finish e (.go (s.modPart e.t.part g))) ∧
       ∀ p, (p.trial.any (fun x => some x.launch == e.t.launch) = true →
           g p = p.bump 0x0322 (f.h.toNat % 16) (if f.x.getLsbD 0 then (Mask.lanes e.act).length else 1)) ∧
         (p.trial.any (fun x => some x.launch == e.t.launch) = false → g p = p)))

/-- R57, R60, R81, R157: a completed write of D leaves in each active lane, under D's name in that lane, the value and the
tag, a scalar D the lowest active lane's value; a completed write of a predicate leaves it in each active lane, unless
it is p0, which reads 1; every participating lane goes on to the next instruction; and every other register, tag, scalar
and predicate, the rest of the braid, every other braid and all memory are as before. -/
def Obligations.Writes : Prop :=
  (∀ i n s e val tag, Performs i n s e →
     let t := finish e (.go (e.writeD val tag))
     SameMemory s t ∧ ∃ b, t.braid? e.t.uid e.rank = some b ∧ OnlyBraid e t b ∧ b.rest = e.b.rest ∧
       b.lanes.length = e.b.lanes.length ∧
       (∀ r, b.sreg r = if e.f.kindD = true ∧ r = e.f.d.toNat ∧ r < e.b.s.length then val ((Mask.lanes e.act).headD 0)
         else e.b.sreg r) ∧
       ∀ l, l < e.b.lanes.length → l < 32 →
         (b.lane l).rest = (e.b.lane l).rest ∧ (b.lane l).preds = (e.b.lane l).preds ∧
         (b.lane l).pc = (if e.part.getLsbD l then nextPc (e.b.lane l).pc i.bytes else (e.b.lane l).pc) ∧
         ∀ r,
           let dest := e.f.kindD = false ∧ e.act.getLsbD l = true ∧ r = e.b.vecName e.f l e.f.d
           (b.lane l).vreg r = (if dest ∧ r < (e.b.lane l).v.length then val l else (e.b.lane l).vreg r) ∧
           (b.lane l).vtag r = (if dest ∧ r < (e.b.lane l).tags.length then tag l else (e.b.lane l).vtag r)) ∧
  (∀ i n s e (p : Nat) (val : Nat → Bool), Performs i n s e → p < 8 →
     let t := finish e (.go (e.writePred s p val))
     SameMemory s t ∧ ∃ b, t.braid? e.t.uid e.rank = some b ∧ OnlyBraid e t b ∧ b.rest = e.b.rest ∧ b.s = e.b.s ∧
       b.lanes.length = e.b.lanes.length ∧
       ∀ l, l < e.b.lanes.length → l < 32 →
         (b.lane l).rest = (e.b.lane l).rest ∧ (b.lane l).v = (e.b.lane l).v ∧ (b.lane l).tags = (e.b.lane l).tags ∧
         (b.lane l).pc = (if e.part.getLsbD l then nextPc (e.b.lane l).pc i.bytes else (e.b.lane l).pc) ∧
         (b.lane l).pred 0 = true ∧
         ∀ k, 0 < k → k < 8 → (b.lane l).pred k = if e.act.getLsbD l = true ∧ k = p then val l else (e.b.lane l).pred k)

/-- R59, R74, R137, R157: the frame of the lane-arithmetic and cross-lane classes, HADQ apart: whenever an instruction of
them goes on without a trap, memory, every other braid, every scalar and register other than D, every predicate other
than the one it names, call stacks, rename tables and presentation registers are unchanged; MTS alone writes NMODE. -/
def Obligations.LaneClassFrame : Prop :=
  ∀ i n s e t, Performs i n s e → (n.cls = .lane ∨ n.cls = .xlane) → (∀ f, i ≠ .hadq f) → exec i s = .next t →
    (∃ x, TrapsWith i s e x) ∨
    (SameMemory s t ∧ ∃ b, t.braid? e.t.uid e.rank = some b ∧ OnlyBraid e t b ∧
      { b.rest with nmode := e.b.nmode } = e.b.rest ∧ ((∀ f, i ≠ .mts f) → b.nmode = e.b.nmode) ∧
      (∀ r, r ≠ e.f.d.toNat ∨ e.f.kindD = false → b.sreg r = e.b.sreg r) ∧
      ∀ l, l < e.b.lanes.length → l < 32 →
        (b.lane l).rest = (e.b.lane l).rest ∧
        (∀ r, r ≠ e.b.vecName e.f l e.f.d ∨ e.f.kindD = true ∨ e.act.getLsbD l = false →
          (b.lane l).vreg r = (e.b.lane l).vreg r ∧ (b.lane l).vtag r = (e.b.lane l).vtag r) ∧
        ∀ k, k < 8 → ¬ (n.shape.d = .pred ∧ k = e.f.d.toNat % 8) →
          ¬ ((∃ f, i = .addc f ∨ i = .subb f) ∧ k = e.f.h.toNat % 8) →
          (b.lane l).pred k = (e.b.lane l).pred k)

/-! Control flow and the Splice -/

/-- R77, R85, R187, R189-R191, R193: NOP changes nothing except the program counter, at each of its lengths; BR sends each
active lane to pc + 4 · sext(E), and BRM to the target of the first of its pairs whose predicate holds, or to the next
instruction; JTB, in its 64-bit and its 128-bit form, reads the 32-bit entry that a lane's index names from the code
object, a lane whose index is not below n goes to the default target, a table that does not lie in the code object raises
cause 0x04, and an entry that cannot be read is a fault of the lanes concerned.
The model's choice where the spec leaves it open: log entry 88. -/
def Obligations.Branches : Prop :=
  (∀ f : Fields, Completes (.nop f) Env.anyTag (fun e => e.s) ∧
     (∀ n s e b, Issues (.nop f) n s e → (finish e (.go s)).braid? e.t.uid e.rank = some b →
       ∀ l, e.part.getLsbD l = true → (b.lane l).pc = nextPc (e.b.lane l).pc (lenBytes f.len))) ∧
  (∀ f : Fields,
     let target := fun (pc : Pc) (off : Int) => (BitVec.ofInt 32 (pc.toNat + 4 * off) : Pc)
     Sends (.br f) (fun e _ => target e.pc f.e.toInt) (fun _ x => x) (fun _ => True) ∧
     (let pairs := [(f.d, (f.e.extractLsb' 0 16).toInt), (f.a, (f.e.extractLsb' 16 16).toInt),
         (f.b, (f.l.extractLsb' 0 16).toInt), (f.c, (f.l.extractLsb' 16 16).toInt)].take (f.x.toNat % 4 + 1)
       let holds := fun (x : Lane) (v : BitVec 7) => if v.getLsbD 3 then !x.pred (v.toNat % 8) else x.pred (v.toNat % 8)
       Sends (.brm f) (fun e l =>
         match pairs.find? fun p => holds (e.b.lane l) p.1 with
         | some p => target e.pc p.2
         | none => nextPc e.pc 16) (fun _ x => x) (fun _ => True)) ∧
     (f.h = 0 → Sends (.jtb f) (fun e _ =>
       target e.pc (if f.len = 1 then (f.e.extractLsb' 0 16).toInt else f.e.toInt)) (fun _ x => x) (fun _ => True))) ∧
  (∀ (f : Fields) n s e, Performs (.jtb f) n s e → e.b.meld = false →
     let short := f.len = 1
     let at_ : Int := e.pc.toNat + 4 * (if short then (f.e.extractLsb' 16 16).toInt else f.l.toInt)
     let dflt : Pc := BitVec.ofInt 32 (e.pc.toNat + 4 * (if short then (f.e.extractLsb' 0 16).toInt else f.e.toInt))
     (f.h.toNat ≠ 0 → (at_ < 64 ∨ (e.t.codeLen : Int) < at_ + 4 * f.h.toNat) →
       TrapsWith (.jtb f) s e { cause := 4, opnd := if short then 6 else 10, lanes := e.act
                                value := if short then f.e.toNat else f.l.toNat }) ∧
     (f.h.toNat ≠ 0 → 64 ≤ at_ → at_ + 4 * f.h.toNat ≤ e.t.codeLen →
       let r := jtbEntries e at_.toNat f.h.toNat (Mask.lanes e.act) s
       (∀ x ∈ r.2, ∀ d, x.2 = .error d → (∀ y ∈ r.2, ∀ d', y.2 = .error d' → x.1 ≤ y.1) →
         ∃ t lanes, exec (.jtb f) s = .next (finish e (.fault t { d with lanes })) ∧
           e.LanesWhere lanes fun l => ∃ d', (l, .error d') ∈ r.2 ∧ d'.cause = d.cause ∧ d'.detail = d.detail ∧
             d.samePage d' = true) ∧
       ((∀ x ∈ r.2, ∃ v, x.2 = .ok v) →
       exec (.jtb f) s = .next (finish e (.moved (r.1.modLanes e.t.uid e.rank e.act fun l x => { x with
         wait := none, sleepUntil := none, pc :=
           match r.2.find? fun y => y.1 == l with
           | some (_, .ok v) => BitVec.ofInt 32 (e.pc.toNat + 4 * v)
           | _ => dflt })))) ∧
       ∀ x ∈ r.2, (e.src f.kindA f.a x.1).toNat < f.h.toNat))

/-- R54, R55, R85, R189: CALL and CALLI push next_pc at the lane's call depth and go to pc + 4 · sext(E) or to A[31:0]; RET
takes the entry below the depth; each only where every active lane has room or an entry, else cause 0x0B or 0x0C in the
lanes concerned; a CALLI target with an upper bit raises cause 0x04; and in a melded region a branch of some lanes
raises cause 0x08.
The model's choice where the spec leaves it open: log entry 109. -/
def Obligations.Calls : Prop :=
  (∀ f : Fields,
     let push := fun (e : Env) (x : Lane) =>
       { x with stack := x.stack.set x.depth (nextPc e.pc (lenBytes f.len)), depth := x.depth + 1 }
     let room := fun (e : Env) => ∀ l ∈ Mask.lanes e.act, (e.b.lane l).depth < 16
     Sends (.call f) (fun e _ => BitVec.ofInt 32 (e.pc.toNat + 4 * f.e.toInt)) push room ∧
     Sends (.calli f) (fun e l => BitVec.ofNat 32 (e.src f.kindA f.a l).toNat) push
       (fun e => room e ∧ ∀ l ∈ Mask.lanes e.act, (e.src f.kindA f.a l).toNat < 2 ^ 32) ∧
     Sends (.ret f) (fun e l => (e.b.lane l).stack.getD ((e.b.lane l).depth - 1) 0)
       (fun _ x => { x with depth := x.depth - 1 }) (fun e => ∀ l ∈ Mask.lanes e.act, 0 < (e.b.lane l).depth)) ∧
  (∀ (f : Fields) n s e,
     (Performs (.call f) n s e → e.b.meld = false → (∃ l ∈ Mask.lanes e.act, 16 ≤ (e.b.lane l).depth) →
       ∃ m : Mask, TrapsWith (.call f) s e { cause := 0x0B, lanes := m } ∧
         ∀ l, l < 32 → (m.getLsbD l = true ↔ e.act.getLsbD l = true ∧ 16 ≤ (e.b.lane l).depth)) ∧
     (Performs (.ret f) n s e → e.b.meld = false → (∃ l ∈ Mask.lanes e.act, (e.b.lane l).depth = 0) →
       ∃ m : Mask, TrapsWith (.ret f) s e { cause := 0x0C, lanes := m } ∧
         ∀ l, l < 32 → (m.getLsbD l = true ↔ e.act.getLsbD l = true ∧ (e.b.lane l).depth = 0)) ∧
     (Performs (.calli f) n s e → f.kindA = true → 2 ^ 32 ≤ (e.b.sreg f.a.toNat).toNat →
       TrapsWith (.calli f) s e { cause := 4, opnd := 2, lanes := e.act, value := (e.b.sreg f.a.toNat).toNat }) ∧
     (Performs (.br f) n s e → e.b.meld = true → e.act ≠ e.b.liveMask →
       TrapsWith (.br f) s e { cause := 8, lanes := e.act }))

/-- R80, R83, R84, R194, R195: MELD sets the path bits of the living lanes to its predicate and melds the braid; UNMELD
clears both and leaves the rename tables; MAPT writes consecutive entries of one table from D, A, B and C. -/
def Obligations.Splice : Prop :=
  ∀ f : Fields,
    (∀ n s e, Performs (.meld f) n s e → ∃ path : Mask,
      (∀ l, l < 32 → path.getLsbD l = ((e.b.lane l).live && (e.b.lane l).pred f.a.toNat)) ∧
      ∃ g : Braid → Braid, exec (.meld f) s = .next (finish e (.go (s.modBraid e.t.uid e.rank g))) ∧
        g e.b = { e.b with meld := true, path := path }) ∧
    (∀ n s e, Performs (.unmeld f) n s e →
      exec (.unmeld f) s
        = .next (finish e (.go (s.modBraid e.t.uid e.rank fun b => { b with meld := false, path := 0 })))) ∧
    (∀ n s e, Performs (.mapt f) n s e → f.h.toNat % 16 + f.x.toNat % 4 + 1 ≤ 16 →
      e.b.mt0.length = 16 → e.b.mt1.length = 16 → ∃ g : Braid → Braid,
        exec (.mapt f) s = .next (finish e (.go (s.modBraid e.t.uid e.rank g))) ∧
        ∃ m : List Nat, g e.b = (if f.h.getLsbD 4 then { e.b with mt1 := m } else { e.b with mt0 := m }) ∧
          m.length = 16 ∧ ∀ k, k < 16 → m.getD k 0 =
            if f.h.toNat % 16 ≤ k ∧ k ≤ f.h.toNat % 16 + f.x.toNat % 4 then
              ([f.d, f.a, f.b, f.c].getD (k - f.h.toNat % 16) 0).toNat
            else (if f.h.getLsbD 4 then e.b.mt1 else e.b.mt0).getD k 0)

/-! Traps and debug instructions -/

/-- R143-R145, R148, R149, R218, R219: TRAP raises cause 0x10 with its code; where debug stops are on BKPT asks for one with
its code, and where they are off BKPT.trap raises cause 0x11 and BKPT only goes on; EMRET sends every lane that entered
the handler and lives to epc, or to enext, and the handler ends; EMRET outside a handler raises cause 0x04; and a fetched
encoding that is no instruction raises cause 0x01 with the decoder's DETAIL and OPND and the value of the field that OPND names.
The model's choice where the spec leaves it open: log entries 23, 95. -/
def Obligations.TrapInstructions : Prop :=
  (∀ (f : Fields) n s e,
     (Performs (.trap f) n s e → TrapsWith (.trap f) s e { cause := 0x10, detail := f.h.toNat, lanes := e.act }) ∧
     (Performs (.bkpt f) n s e → s.dbgFlag e.t 0 = false → f.x.getLsbD 0 = true →
       TrapsWith (.bkpt f) s e { cause := 0x11, detail := f.h.toNat, lanes := e.act }) ∧
     (Performs (.bkpt f) n s e → s.dbgFlag e.t 0 = false → f.x.getLsbD 0 = false →
       exec (.bkpt f) s = .next (finish e (.go s))) ∧
     (Performs (.bkpt f) n s e → s.dbgFlag e.t 0 = true → e.act &&& ~~~ e.b.passed ≠ 0 → f.s = false →
       exec (.bkpt f) s = .next (finish e (.go (requestStop s e.t.uid 2 f.h.toNat e.rank e.pc e.act)))) ∧
     (∀ m, Performs (.emret f) n s e → e.b.handler = some m → ∃ b,
       exec (.emret f) s = .next (finish e (.jumped (s.trapReturn e.t.uid e.rank m
         (BitVec.ofNat 32 (if f.x.getLsbD 0 then e.b.pres.enext else e.b.pres.epc).toNat)))) ∧
       (s.trapReturn e.t.uid e.rank m
         (BitVec.ofNat 32 (if f.x.getLsbD 0 then e.b.pres.enext else e.b.pres.epc).toNat)).braid? e.t.uid e.rank = some b ∧
       b.handler = none ∧ b.pres = e.b.pres ∧ ∀ l, l < e.b.lanes.length →
         (b.lane l).pc = if m.getLsbD l = true ∧ (e.b.lane l).live = true ∧ l < 32 then
             BitVec.ofNat 32 (if f.x.getLsbD 0 then e.b.pres.enext else e.b.pres.epc).toNat
           else (e.b.lane l).pc) ∧
     (Performs (.emret f) n s e → e.b.handler = none →
       TrapsWith (.emret f) s e { cause := 4, lanes := e.act })) ∧
  (∀ (x : Illegal) (s : State) (t : Team) (b : Braid), s.team? s.cur.uid = some t → t.braids[s.cur.rank]? = some b →
     let e := mkEnv s t b (.illegalEncoding x) (fieldsOf x.raw)
     exec (.illegalEncoding x) s = .next (finish e (.trap
       { cause := 1, detail := x.detail, opnd := x.opnd, value := fieldAt x.raw x.opnd
         lanes := if e.act = 0 then e.part else e.act })) ∧
     (x.opnd = 7 → fieldAt x.raw x.opnd = (x.raw.extractLsb' 12 4).toNat))

/-! Synchronisation -/

/-- R188, R196-R198: at the team barrier, BAR.ARV makes each active lane arrive for the current phase, or waits in lanes that
have arrived for it already; BAR.WAIT writes 0 to pD where the phase of the last arrival has completed, and waits where
it has not; a phase completes exactly when some lane has arrived and every living lane has. At a group barrier BAR.ARV
records an arrival for the group's current phase; once it is broken BAR.ARV has no effect and BAR.WAIT writes 1 at once;
and a group without a barrier raises cause 0x04 for H. -/
def Obligations.Barriers : Prop :=
  ((∀ (f : Fields) n s e, f.h.toNat % 8 = 1 → e.t.replay = none →
     (Performs (.barArv f) n s e → (∀ l ∈ Mask.lanes e.act, (e.b.lane l).wait ≠ some .ended) →
       (∀ l ∈ Mask.lanes e.act, (e.b.lane l).arrTeam ≠ some e.t.barPhase) →
       ∃ rel : Release, Does (.barArv f) s e (settleBarriers
         ((s.modLanes e.t.uid e.rank e.act fun _ x => { x with arrTeam := some e.t.barPhase }).modTeam e.t.uid
           fun t => { t with barRel := t.barRel ++ [(e.t.barPhase, rel)] }) e.t.uid)) ∧
     (Performs (.barArv f) n s e → (∀ l ∈ Mask.lanes e.act, (e.b.lane l).wait ≠ some .ended) →
       (∀ l ∈ Mask.lanes e.act, (e.b.lane l).arrTeam = some e.t.barPhase) →
       Waits (.barArv f) s e .plain) ∧
     (Performs (.barWait f) n s e → (∀ l ∈ Mask.lanes e.act, ∀ p, (e.b.lane l).arrTeam = some p → p < e.t.barPhase) →
       ∃ t, Does (.barWait f) s e t ∧ LeavesPred e t f.d.toNat false) ∧
     (Performs (.barWait f) n s e →
       (∀ l ∈ Mask.lanes e.act, ∃ p, (e.b.lane l).arrTeam = some p ∧ e.t.barPhase ≤ p) →
       Waits (.barWait f) s e .plain)) ∧
   (∀ (s : State) (t : Team), s.team? t.uid = some t → t.carve = none →
     ∃ u, (settleTeamBarrier s t.uid).team? t.uid = some u ∧ u.barPhase =
       if (∃ b ∈ t.braids, ∃ x ∈ b.lanes, x.arrTeam = some t.barPhase) ∧
           (∀ b ∈ t.braids, ∀ x ∈ b.lanes, x.live = true → x.arrTeam = some t.barPhase) then t.barPhase + 1
       else t.barPhase)) ∧
  (∀ (f : Fields) n s e (l0 : Launch) (g : Group), f.h.toNat % 8 = 2 → e.t.replay = none →
     s.launchOf e.t = some l0 → s.groupAt e.t (f.h.toNat / 8 % 4) = some g →
     (Performs (.barArv f) n s e → g.b = true → g.bar.broken = false →
       (∀ l ∈ Mask.lanes e.act, (e.b.lane l).wait ≠ some .ended) →
       (∀ l ∈ Mask.lanes e.act, (e.b.lane l).lastGroup g.index ≠ some g.bar.phase) →
       ∃ t, Does (.barArv f) s e t ∧ ∃ b, t.braid? e.t.uid e.rank = some b ∧
         ∀ l ∈ Mask.lanes e.act, (b.lane l).lastGroup g.index = some g.bar.phase) ∧
     (Performs (.barArv f) n s e → g.b = true → g.bar.broken = true → Does (.barArv f) s e s) ∧
     (Performs (.barWait f) n s e → g.b = true → (g.bar.broken = true ∨
         ∀ l ∈ Mask.lanes e.act, ∀ p, (e.b.lane l).lastGroup g.index = some p → p < g.bar.phase) →
       ∃ t, Does (.barWait f) s e t ∧ LeavesPred e t f.d.toNat g.bar.broken) ∧
     (Performs (.barWait f) n s e → g.b = true → g.bar.broken = false →
       (∀ l ∈ Mask.lanes e.act, ∃ p, (e.b.lane l).lastGroup g.index = some p ∧ g.bar.phase ≤ p) →
       Waits (.barWait f) s e .plain) ∧
     (g.b = false →
       (Performs (.barArv f) n s e → TrapsWith (.barArv f) s e
         { cause := 4, opnd := 5, lanes := e.act, value := f.h.toNat / 8 % 4 }) ∧
       (Performs (.barWait f) n s e → TrapsWith (.barWait f) s e
         { cause := 4, opnd := 5, lanes := e.act, value := f.h.toNat / 8 % 4 })))

/-- R200-R202: an arrival for phase b counts for the current phase or the next, a phase with nothing owed ends and the next
one starts with INIT and what it was credited, an object with INIT 0 or a reserved bit breaks, a broken one does not
change, and an arrival for any other phase is refused with detail 1 ahead and 2 behind. PHARR updates the object that
its scalar operands address for phase sB[15:0], with one arrival per active lane, one arrival, or one that expects sC
bytes, or raises cause 0x0F; PHWAIT writes BROKEN to pD where the phase has completed or the object is broken, waits
where it is the current phase or the next, and raises cause 0x0F further ahead. -/
def Obligations.PhaseObjects : Prop :=
  (∀ (o : PhaseObj) (b : Nat) (add sub : Int), o.ph < 65536 →
     let d := (b % 65536 + 65536 - o.ph) % 65536
     let in32 := fun (v : Int) => -(2 ^ 31) ≤ v ∧ v < 2 ^ 31
     (2 ≤ d → d < 0x8000 → phaseUpdate o b add sub = .error 1) ∧
     (0x8000 ≤ d → phaseUpdate o b add sub = .error 2) ∧
     (d < 2 → o.broken = true → phaseUpdate o b add sub = .ok o) ∧
     (d < 2 → o.broken = false → (o.init = 0 ∨ o.rsv ≠ 0) → phaseUpdate o b add sub = .ok { o with broken := true }) ∧
     (o.broken = false → 0 < o.init → o.rsv = 0 → d = 0 → 0 < o.pend + add - sub → in32 (o.pend + add - sub) → in32 o.next →
       phaseUpdate o b add sub = .ok { o with pend := o.pend + add - sub }) ∧
     (o.broken = false → 0 < o.init → o.rsv = 0 → d = 0 → o.pend + add - sub = 0 → 0 < (o.init : Int) + o.next →
       in32 ((o.init : Int) + o.next) →
       phaseUpdate o b add sub = .ok { o with ph := (o.ph + 1) % 65536, pend := o.init + o.next, next := 0 }) ∧
     (o.broken = false → 0 < o.init → o.rsv = 0 → d = 1 → 0 < o.pend → in32 o.pend → in32 (o.next + add - sub) →
       phaseUpdate o b add sub = .ok { o with next := o.next + add - sub }) ∧
     (o.broken = false → 0 < o.init → o.rsv = 0 → d = 0 → o.pend + add - sub < 0 →
       phaseUpdate o b add sub = .ok { o with pend := o.pend + add - sub, broken := true })) ∧
  (∀ (f : Fields) n s e (t : State) (h : Handle) (sp : Spot), e.t.replay = none →
     HandleReady e [2, 3, 4] [] [] 1 t h →
     let off := (e.b.sreg f.a.toNat).toInt + f.e.toInt
     let ph := (e.b.sreg f.b.toNat).toNat % 65536
     let dist := (ph + 65536 - (phaseAt t sp).ph) % 65536
     let c := (e.b.sreg f.c.toNat).toNat
     let add : Int := if f.variant = 2 then c else 0
     let sub : Int := if f.variant = 0 then ((Mask.lanes e.act).length : Int) else 1
     off % 16 = 0 → phaseSpot t e.t h f.h.toNat off = .ok sp → (∀ x y z, sp.place ≠ .peer x y z) → f.variant ≤ 2 →
     (f.variant = 2 → c < 2 ^ 32) →
     (Performs (.pharr f) n s e →
       (∀ d, phaseUpdate (phaseAt t sp) ph add sub = .error d →
         exec (.pharr f) s = .next (finish e (.trapAt t { cause := 0x0F, detail := d, lanes := e.act }))) ∧
       (∀ o t1 t2, phaseUpdate (phaseAt t sp) ph add sub = .ok o →
         checkModel t e.t e.accessor .rmw sp true = (t1, .ok ()) → probe t1 e.t.part .rmw sp = (t2, .ok ()) →
         phaseAt t2 sp = phaseAt t sp →
         ∃ u rels, arrivePhase t2 sp ph add sub rels = .ok u ∧ Does (.pharr f) s e u)) ∧
     (Performs (.phwait f) n s e →
       (2 ≤ dist → dist < 0x8000 →
         exec (.phwait f) s = .next (finish e (.trapAt t { cause := 0x0F, detail := 1, lanes := e.act }))) ∧
       (∀ t1 t2, checkModel t e.t e.accessor .syncRead sp true = (t1, .ok ()) →
         probe t1 e.t.part .syncRead sp = (t2, .ok ()) → t2.team? e.t.uid = s.team? e.t.uid →
         ((0x8000 ≤ dist ∨ (dist < 2 ∧ (phaseAt t sp).broken = true)) →
           ∃ u, Does (.phwait f) s e u ∧ LeavesPred e u f.d.toNat (phaseAt t sp).broken) ∧
         (dist < 2 → (phaseAt t sp).broken = false →
           ∃ w, exec (.phwait f) s = .next (finish e (.wait t2 e.act w))))))

/-- R45, R204-R207: TKT.TAKE passes the team's ticket, at its rank: served now, it moves NOW on over the ranks passed in
advance, else it is marked passed; one already passed raises cause 0x0D. TKT.WAIT goes on, with POISON in pD, once NOW
has reached the rank, and else waits. In a launch without DET, HITCH.WAIT and HITCH.PASS have no effect; with it,
HITCH.WAIT waits until the braid's turn is served, then holds it, and traps where the turn is spent; HITCH.PASS ends it. -/
def Obligations.TicketsAndHitch : Prop :=
  ((∀ (f : Fields) n s e (l0 : Launch) (g : Group) (q : TicketSeq), e.t.replay = none →
     s.launchOf e.t = some l0 → s.groupAt e.t (f.h.toNat / 8 % 4) = some g → g.span = false →
     g.tickets[f.e.toNat % 4]? = some q →
     let r := g.rank 0 e.t.index
     (Performs (.tktTake f) n s e →
       (q.pass.contains r = true ∨ r < q.now → TrapsWith (.tktTake f) s e { cause := 0x0D, lanes := e.act }) ∧
       (q.pass.contains r = false → q.now ≤ r → ∃ q' rels, q.take r false = some q' ∧
         Does (.tktTake f) s e (s.modGroup l0.num g.index fun x =>
           { x with tickets := x.tickets.set (f.e.toNat % 4) { q' with rels := rels } }))) ∧
     (Performs (.tktWait f) n s e →
       (r ≤ q.now → ∃ t, Does (.tktWait f) s e t ∧ LeavesPred e t f.d.toNat q.poison) ∧
       (q.now < r → Waits (.tktWait f) s e .plain))) ∧
   (∀ (q : TicketSeq) (r : Nat) (bad : Bool), q.pass.contains r = false → q.now ≤ r → ∃ q', q.take r bad = some q' ∧
     (q.now < r → q'.now = q.now ∧ q'.pass.contains r = true ∧ q'.poison = q.poison ∧
       (q'.poisonAt.contains r = (bad || q.poisonAt.contains r))) ∧
     (q.now = r → q.now < q'.now ∧ q'.pass.contains q'.now = false ∧
       (∀ k, r < k → k < q'.now → q.pass.contains k = true) ∧ (bad = true → q'.poison = true)))) ∧
  (∀ (f : Fields) n s e (l0 : Launch), e.t.replay = none → s.launchOf e.t = some l0 →
     let id := e.t.index * 32 + e.rank
     (l0.det = false → (Performs (.hitchWait f) n s e → Does (.hitchWait f) s e s) ∧
       (Performs (.hitchPass f) n s e → Does (.hitchPass f) s e s)) ∧
     (l0.det = true →
       (Performs (.hitchWait f) n s e →
         (l0.turnSpent id = true → TrapsWith (.hitchWait f) s e { cause := 0x0D, lanes := e.act }) ∧
         (l0.turnSpent id = false → l0.hitchNow ≠ id → Waits (.hitchWait f) s e .plain) ∧
         (l0.turnSpent id = false → l0.hitchNow = id → ∃ t l1, Does (.hitchWait f) s e t ∧
           LeavesPred e t f.d.toNat l0.hitchPoison ∧ t.launch? l0.num = some l1 ∧ l1.hitchHeld = true)) ∧
       (Performs (.hitchPass f) n s e → ∃ t l1, Does (.hitchPass f) s e t ∧ t.launch? l0.num = some l1 ∧
         l1.turnSpent id = true)))

/-- R208, R210, R211, R281, R287: a release FENCE adds to what each active lane's later synchronising writes publish its
clocks at that scope, and at fabric scope waits for the lane's remote stores and atomics; an acquire FENCE orders after
each release that an earlier synchronising read of the lane met and that it synchronises with, and at group scope or
wider discards the core's copies; a group without a barrier raises cause 0x04. YIELD marks its active lanes, and a PC
group with a marked lane is not chosen. SLEEP with 0 clocks goes on, and with more lets its active lanes wait at it, an
sB of 2^24 or more raises cause 0x04, and the expiry sends each lane whose clocks have passed to the next instruction
and leaves the others, or in a melded region all lanes together once the last one's have passed.
The model's choice where the spec leaves it open: log entry 35. -/
def Obligations.FenceYieldSleep : Prop :=
  (∀ (f : Fields) n s e, Performs (.fence f) n s e →
    let scope := f.h.toNat % 8
    let rel := f.x.getLsbD 1
    let acq := f.x.getLsbD 0
    let busy := ∃ x ∈ s.txs, x.uid = e.t.uid ∧ x.rank = e.rank ∧ e.act.getLsbD x.lane = true
    (scope = 2 → (∀ g, s.groupAt e.t (f.h.toNat / 8 % 4) = some g → g.b = false) → TrapsWith (.fence f) s e
      { cause := 4, opnd := 5, lanes := e.act, value := f.h.toNat / 8 % 4 }) ∧
    (scope = 4 → rel = true → e.t.replay = none → busy → Waits (.fence f) s e .plain) ∧
    (∀ group, (scope = 2 → ∃ l0 g, s.launchOf e.t = some l0 ∧ s.groupAt e.t (f.h.toNat / 8 % 4) = some g ∧ g.b = true ∧
        group = g.index) → (scope ≠ 2 → group = 0) → (scope = 4 → rel = true → ¬ busy) →
      ∃ t, Does (.fence f) s e t ∧ SameMemory s t ∧ KeepsRegs s t ∧
        (acq = true → 2 ≤ scope → ∀ line, t.copyOf e.t.core line = none) ∧
        ∃ b, t.braid? e.t.uid e.rank = some b ∧ ∀ l ∈ Mask.lanes e.act,
          let vc := if rel = true ∧ scope = 4 then remoteClocks e.t.uid e.rank l (e.b.lane l).vc else (e.b.lane l).vc
          (rel = true → (b.lane l).fences = (e.b.lane l).fences ++ [mkRelease e.t e.rank vc scope group]) ∧
          (rel = false → (b.lane l).fences = (e.b.lane l).fences) ∧
          (∀ p, tabGet 0 vc p ≤ tabGet 0 (b.lane l).vc p) ∧
          (acq = true → ∀ r ∈ (e.b.lane l).seen, syncs s r scope group e.t e.rank = true →
            ∀ p, tabGet 0 r.vc p ≤ tabGet 0 (b.lane l).vc p) ∧
          (acq = false → (b.lane l).vc = vc))) ∧
  (∀ (f : Fields) n s e, Performs (.yield f) n s e →
    Does (.yield f) s e (s.modLanes e.t.uid e.rank e.act fun _ x => { x with yielded := true })) ∧
  (∀ (uid rank : Nat) (a : Considered) (g : Pc × Mask) (t : Team) (b : Braid), a.s.team? uid = some t →
    t.braids[rank]? = some b → (∃ l ∈ Mask.lanes g.2, (b.lane l).yielded = true) →
    (considerGroup uid rank a g).cand = a.cand) ∧
  (∀ (f : Fields) n s e, Performs (.sleep f) n s e →
    let clocks := if f.len = 0 then (e.b.sreg f.b.toNat).toNat else f.e.toNat
    (f.len = 0 → 2 ^ 24 ≤ clocks → TrapsWith (.sleep f) s e { cause := 4, opnd := 3, lanes := e.act, value := clocks }) ∧
    (clocks < 2 ^ 24 → (∀ l ∈ Mask.lanes e.act, (e.b.lane l).sleepUntil = none) →
      (clocks = 0 → Does (.sleep f) s e s) ∧
      (0 < clocks → exec (.sleep f) s = .next (finish e (.wait (s.modLanes e.t.uid e.rank e.act fun _ x =>
        { x with sleepUntil := some (s.clock + clocks, nextPc x.pc (lenBytes f.len)) }) e.act .plain))))) ∧
  (∀ (r : BraidRef) (s : State) (b : Braid), s.braid? r.uid r.rank = some b →
    let late := fun (l : Nat) => (b.lane l).live = true ∧ ∃ clk pc, (b.lane l).sleepUntil = some (clk, pc) ∧ s.clock < clk
    ∃ t b', exec (.sleepExpiry r) s = .next t ∧ t.braid? r.uid r.rank = some b' ∧ SameMemory s t ∧
      (b.meld = true → (∃ l, l < 32 ∧ late l) → b' = b) ∧
      ((b.meld = true → ∀ l, l < 32 → ¬ late l) → ∀ l, l < b.lanes.length → l < 32 → ∀ clk pc, (b.lane l).live = true →
        (b.lane l).sleepUntil = some (clk, pc) →
        (clk ≤ s.clock → (b'.lane l).pc = pc ∧ (b'.lane l).wait = none ∧ (b'.lane l).sleepUntil = none) ∧
        (s.clock < clk → b'.lane l = b.lane l)))

/-! Teams and launches -/

/-- R35, R36, R38, R41, R42, R85, R192, R209, R344: EXIT ends each active lane and no other; a team begins its exit once
its last lane has exited, which leaves it in held exit or on its way to retirement; TRIG counts its team in TRIGGERED
once; a held exit is complete once no peer is attached, and not before; a kill takes a team away and poisons its launch,
also a team that was pending; and a kill of a launch takes away every team of it but those whose exit is complete.
The model's choice where the spec leaves it open: log entry 53. -/
def Obligations.TeamEnds : Prop :=
  ((∀ (f : Fields) n s e, Performs (.exit f) n s e → ∃ u, exec (.exit f) s = .next (finish e (.moved (exitIfDone (settleBarriers u e.t.uid) e.t.uid))) ∧
       SameMemory s u ∧ ∃ b, u.braid? e.t.uid e.rank = some b ∧ b.s = e.b.s ∧
         ∀ l, l < e.b.lanes.length → l < 32 →
           (b.lane l).live = ((e.b.lane l).live && !e.act.getLsbD l) ∧ (b.lane l).pc = (e.b.lane l).pc) ∧
   (∀ (s : State) (uid : Nat) (t : Team), s.team? uid = some t →
     ((∃ b ∈ t.braids, ∃ x ∈ b.lanes, x.live = true) → exitIfDone s uid = s) ∧
     (t.status = .running → t.launch ≠ none → (∀ b ∈ t.braids, ∀ x ∈ b.lanes, x.live = false) →
       ∀ u, (exitIfDone s uid).team? uid = some u →
         u.exited = true ∧ (u.status = .heldExit ∨ u.status = .exiting ∨ u.status = .retiring))) ∧
   (∀ (f : Fields) n s e (l0 : Launch), Performs (.trig f) n s e → e.t.replay = none → s.launchOf e.t = some l0 →
     (e.t.triggered = true → ∃ rels, Does (.trig f) s e (s.modLaunch l0.num fun x => { x with trigRel := x.trigRel ++ rels })) ∧
     (e.t.triggered = false → ∃ rels, Does (.trig f) s e (settleLaunch
       (((s.modLaunch l0.num fun x => { x with trigRel := x.trigRel ++ rels }).modTeam e.t.uid fun t =>
         { t with triggered := true }).modLaunch l0.num (·.count e.t.index)) l0))) ∧
   (∀ (x : Launch) (k : Nat), x.prefixN ≤ k → x.counted.contains k = false →
     (x.count k).triggered = x.triggered + 1 ∧ ((x.count k).count k) = x.count k)) ∧
  ((∀ (s : State) (uid : Nat) (t : Team), s.team? uid = some t → t.status = .heldExit →
     (peerAttached s t = true → exec (.heldExitComplete uid) s = .next s) ∧
     (peerAttached s t = false → Ends (.heldExitComplete uid) s fun r =>
       ∀ u, r.team? uid = some u → u.exited = true ∧ (u.status = .exiting ∨ u.status = .retiring))) ∧
   (∀ (s : State) (launch index : Nat) (n : Launch), s.launch? launch = some n →
     (∀ t, s.member? launch index = some t → s.team? t.uid = some t → t.killable = true → Ends (.teamKill launch index) s fun r =>
       (∀ u ∈ r.teams, u.uid ≠ t.uid) ∧ ∀ m, r.launch? launch = some m → m.poison = true) ∧
     (s.member? launch index = none → n.phase ≠ .ended → index < n.grid → index ∉ n.started →
       Ends (.teamKill launch index) s fun r => ∃ m, r.launch? launch = some m ∧ m.poison = true ∧ index ∈ m.started)) ∧
   (∀ (s : State) (part : Nat) (rec_ : Word) (n : Launch), killTarget s part rec_.toNat = some n →
     Ends (.launchKill part rec_) s fun r =>
       (∀ u ∈ r.teams, u.launch = some n.num → u.status = .exiting ∨ u.status = .retiring) ∧
       ∃ m, r.launch? n.num = some m ∧ m.killed = true ∧ m.poison = true))

/-- R48, R213: LAUNCH queues a child for each active lane's record, in lane order, and LAUNCH.UNI one for the lowest
active lane's, as long as the launch queue of the partition has room; D receives 0 where the child was queued and 1
where the queue was full, in every active lane the one status for LAUNCH.UNI; each entry names the record's address
and context and carries what its lane had seen; a child of a deterministic launch stands behind the queued children of
braids of no higher logical identifier and before those of higher ones; and nothing else changes.
The model's choice where the spec leaves it open: log entries 52, 105. -/
def Obligations.LaunchChildren : Prop :=
  (∀ (f : Fields) n s e (t : State) (p : Partition) (h : Handle),
    let off := fun (l : Nat) => (e.src f.kindA f.a l).toInt + f.e.toInt
    let parent := (s.launchOf e.t).bind fun l0 => if l0.det then some (l0.num, e.t.index * 32 + e.rank) else none
    let child := fun (l : Nat) =>
      ({ addr := h.base + (off l).toNat, ctx := e.t.ctx, vc := (e.b.lane l).vc, parent := parent } : QueueEntry)
    let room := Config.queueLength - p.queue.length
    let creates := fun (i : Instr) (lanes : List Nat) (queued : Nat → Prop) => e.t.replay = none →
      HandleReady e [5, 6] [] (lanes.map fun l => ⟨l, off l⟩) 64 t h →
      (∀ l ∈ lanes, 0 ≤ off l ∧ off l + 128 ≤ h.bound) → t.part? e.t.part = some p →
      ∃ r q val, exec i s = .next r ∧ SameMemory s r ∧ e.OthersKeep r ∧ e.LeavesD r f.kindD val (fun _ => 8) ∧
        (∀ l ∈ Mask.lanes e.act, (queued l → val l = 0) ∧ (¬ queued l → val l = 1)) ∧
        r.part? e.t.part = some q ∧ q.queue = (lanes.take room).foldl (fun k l => enqueue k (child l)) p.queue ∧
        (parent = none → q.queue = p.queue ++ (lanes.take room).map child)
    (Performs (.launch f) n s e →
      creates (.launch f) (Mask.lanes e.act) fun l => (Mask.lanes e.act).findIdx (· == l) < room) ∧
    (Performs (.launchUni f) n s e → creates (.launchUni f) [(Mask.lanes e.act).headD 0] fun _ => 0 < room)) ∧
  (∀ (q : List QueueEntry) (x : QueueEntry) (m id : Nat), x.parent = some (m, id) → ∃ a b, q = a ++ b ∧
    enqueue q x = a ++ x :: b ∧ (∀ y ∈ a, ∀ k, y.parent = some (m, k) → k ≤ id) ∧
    ∀ y, b.head? = some y → ∃ k, y.parent = some (m, k) ∧ id < k)

/-- R22, R23, R39, R41, R338, R339: the slot armed first enters the launch queue while it has room; the oldest record,
unless it waits for a deterministic launch to end, leaves the queue and becomes a launch of its own number where no
cause of R23 holds and no share of its gangs has failed elsewhere, and no launch where a cause holds; and a launch that
waits is admitted once its predecessor's STATE meets its condition.
The model's choice where the spec leaves it open: log entries 10, 50, 51, 104. -/
def Obligations.LaunchEvents : Prop :=
  (∀ (s : State) (part area : Nat) (p : Partition), s.part? part = some p →
    (∀ clk rest, p.armed = (clk, area) :: rest → p.queue.length < Config.queueLength →
      Ends (.landingSlotEntersQueue part area) s fun r => SameMemory s r ∧ KeepsRegs s r ∧ r.partHas part fun q =>
        q.armed = rest ∧ q.reg 0x0513 area = (p.reg 0x0513 area + 1) % 2 ^ 64 ∧ ∃ x, q.queue = p.queue ++ [x] ∧
          x.addr = p.reg 0x0510 area + 128 * (p.reg 0x0513 area % (p.reg 0x0511 area / 128)) ∧
          x.ctx = p.reg 0x0102 area ∧ x.parent = none) ∧
    (((∀ clk, p.armed.head? ≠ some (clk, area)) ∨ Config.queueLength ≤ p.queue.length) →
      exec (.landingSlotEntersQueue part area) s = .next s)) ∧
  (∀ (s u v : State) (part : Nat) (p : Partition) (q : QueueEntry) (rest : List QueueEntry) (bs : List Byte) (x : Reads),
    s.part? part = some p → nextRecord s p = some (q, rest) → p.wiping = false → s.lcstate ≠ 3 →
    look (s.modPart part fun y => { y with queue := rest }) part q.ctx q.addr 128 .read = (u, some bs) →
    readAll u part q.ctx (parseLaunch (leNat bs)) = (v, x) →
    let raw := leNat bs
    let n := launchOfRec v.launchNums part q.ctx q.vc (parseLaunch raw) (x.code.getD (parseCode 0 0))
      ((x.spt.getD []).map (· % 2 ^ 32)) ((x.trellis.getD []).map (·.group))
    (firstCause p (parseLaunch raw) x n = none → (∀ g ∈ p.gangs, g.failed = false) → Ends (.launchValidation part) s fun r =>
      r.launchNums = s.launchNums + 1 ∧ r.teams = s.teams ∧ (r.partHas part fun y => y.queue = rest) ∧
      ∃ m ∈ r.launches, m.num = s.launchNums ∧ m.part = part ∧ m.ctx = q.ctx ∧ m.gridX = raw / 2 ^ 96 % 2 ^ 32 ∧
        m.doneRec = raw / 2 ^ 640 % 2 ^ 64 ∧ m.braids = raw / 2 ^ 192 % 32 + 1 ∧ m.entry = raw / 2 ^ 64 % 2 ^ 32 ∧
        m.handles = raw / 2 ^ 320 % 2 ^ 64 ∧ m.started = [] ∧ (raw / 2 ^ 768 % 4 = 0 → m.phase = .admitted)) ∧
    (∀ c, firstCause p (parseLaunch raw) x n = some c → Ends (.launchValidation part) s fun r =>
      r.launches = s.launches ∧ r.teams = s.teams ∧ r.partHas part fun y => y.queue = rest)) ∧
  (∀ (s : State) (p : Partition) (q : QueueEntry) (rest : List QueueEntry), p.queue = q :: rest →
    detWaits s p.num q = false → nextRecord s p = some (q, rest)) ∧
  (∀ (s u : State) (launch : Nat) (n : Launch) (ok : Bool) (vc : Clocks), s.launch? launch = some n → n.phase = .waiting →
    readPred s n = (u, .ok (ok, vc)) → Ends (.predecessorPoll launch) s fun r => SameMemory s r ∧ KeepsRegs s r ∧
      ∃ m, r.launch? launch = some m ∧ m.phase = (if ok then .admitted else .waiting)) ∧
  (∀ cond st, predReached cond st = true ↔ cond = 0 ∨ (cond = 1 ∧ 2 ≤ st ∧ st ≤ 5) ∨ (2 ≤ cond ∧ 3 ≤ st ∧ st ≤ 5))

/-- R34, R65, R66, R214-R217: CARVE notes a new carve-out in place of any earlier one, or traps on a word out of its
limits; the carve-out takes effect once its barrier has been reached, no command touches the scratchpad and there is
room, and keeps the registers and bytes that both sizes have, with zeros for the new ones. DETACH takes the team out
of a window group once, after its braid's accesses to that group on other devices. IDEM.BEGIN goes on as the first
instruction at ENTRY and traps elsewhere; a team whose code begins with it is in an idempotent region from binding; and
IDEM.END, every instruction of R217 and a first instruction that is no IDEM.BEGIN end the region.
The model's choice where the spec leaves it open: log entries 54, 55. -/
def Obligations.CarveDetachIdem : Prop :=
  (∀ (f : Fields) n s e, Performs (.carve f) n s e →
    let w := if f.len = 0 then (e.b.sreg f.a.toNat).toNat else f.e.toNat
    let gran := w / 16 % 1024
    let bad := (f.len = 0 ∧ 2 ^ 14 ≤ w) ∨ 768 < gran ∨ 736 < footprint e.t.braids.length (w % 16) gran ∨
      gran < windowGran s e.t
    (bad → TrapsWith (.carve f) s e { cause := 4, opnd := 2, lanes := e.act, value := w }) ∧
    (¬ bad → Does (.carve f) s e (s.modTeam e.t.uid fun t => { t with carve := some (w % 16, gran) }))) ∧
  (∀ (uid base : Nat) (s : State) (t : Team) (vblk gran : Nat), s.team? uid = some t → t.carve = some (vblk, gran) →
    t.status = .running → t.carveDue = true → (∀ o ∈ t.trackers, ∀ c, o = some c → touchesScratch c = false) →
    granulesFree s t.core base (footprint t.braids.length vblk gran) uid = true →
    granulesUsed s t.core uid + footprint t.braids.length vblk gran ≤ 736 →
    let u := t.carved vblk gran base
    exec (.carveTakesEffect uid base) s = .next (settleBarriers (s.modTeam uid (·.carved vblk gran base)) uid) ∧
    u.vblk = vblk ∧ u.scrGran = gran ∧ u.base = base ∧ u.carve = none ∧ u.carveDue = false ∧
    (∀ a, u.scratch.get a = if 4096 * gran ≤ a ∧ a < 4096 * max gran t.scrGran then 0 else t.scratch.get a) ∧
    ∀ (r : Nat) (b : Braid), t.braids[r]? = some b → ∃ c, u.braids[r]? = some c ∧ c.s = b.s ∧ c.mt0 = b.mt0 ∧ c.mt1 = b.mt1 ∧
      ∀ l, l < b.lanes.length → (c.lane l).pc = (b.lane l).pc ∧ ∀ k, k < 8 * (vblk + 1) →
        (c.lane l).vreg k = (if k < (b.lane l).v.length then (b.lane l).vreg k else 0) ∧
        (c.lane l).vtag k = (if k < (b.lane l).tags.length then (b.lane l).vtag k else 0)) ∧
  (∀ (f : Fields) n s e, Performs (.detach f) n s e → e.t.replay = none →
    let slot := f.h.toNat / 8 % 4
    ((∀ g, s.groupAt e.t slot = some g → g.w = false ∨ e.t.detached.contains g.index = true) → TrapsWith (.detach f) s e
      { cause := 4, opnd := 5, lanes := e.act, value := slot }) ∧
    ∀ l0 g, s.launchOf e.t = some l0 → s.groupAt e.t slot = some g → g.w = true → e.t.detached.contains g.index = false →
      let out := ∃ x ∈ e.b.pendX, x.reply = none ∧ ∃ y ∈ s.txs, y.tag = x.tag ∧ y.record.peerH = windowPeer ∧ y.record.gang = g.gang
      (out → Waits (.detach f) s e .plain) ∧
      (¬ out → Does (.detach f) s e
        ((s.modTeam e.t.uid fun t => { t with detached := insertNat g.index t.detached }).modGroup l0.num g.index fun x =>
          { x with left := insertNat e.t.index x.left }))) ∧
  (∀ (f : Fields) n s e, Performs (.idemBegin f) n s e →
    (e.b.fresh = true → e.pc.toNat = e.t.entry → Does (.idemBegin f) s e s) ∧
    ((e.b.fresh = false ∨ e.pc.toNat ≠ e.t.entry) → TrapsWith (.idemBegin f) s e { cause := 4, lanes := e.act })) ∧
  (∀ (f : Fields) n s e, Performs (.idemEnd f) n s e →
    Does (.idemEnd f) s e (s.modTeam e.t.uid fun t => { t with idem := false })) ∧
  (∀ s n r, (bindTeam s n r).idem = opensIdem s n.part n.ctx n.code n.entry) ∧
  (∀ i n s e t u, Issues i n s e → (e.act ≠ 0 ∧ endsIdem i = true) ∨ (e.b.fresh = true ∧ ∀ f, i ≠ .idemBegin f) →
    (finish e (.go t)).team? e.t.uid = some u → u.idem = false) ∧
  (∀ i, endsIdem i = true ↔ ∃ f, i = .atom f ∨ i = .atx f ∨ i = .rstx f ∨ i = .bclose f ∨ i = .launch f ∨
    i = .launchUni f ∨ i = .carve f ∨ i = .detach f ∨ i = .trig f ∨ i = .barArv f ∨ i = .pharr f ∨ i = .tktTake f ∨
    i = .hitchWait f ∨ i = .hitchPass f ∨ i = .qpwPost f ∨ i = .qpwArm f ∨ i = .cntAdd f)

/-- R30, R31, R334-R337, R343, R345, R348: a refused record answers its code in bindstat and changes no team, and an
accepted one answers 0: a bind makes a team with the zero state and marks its launch running, prepare gives a saved team
a binding, stop asks a unit to save, discards one in an idempotent region, or asks the coordinators of its gangs to
pause; move asks for a new base, which the team takes once it has stopped; start lets a restored team run; and release
frees a supervisor team or a prepared binding. A bound team of one unit alone and a restored one start at once where
no other launch stands and their turn has come, and else wait for the unit and the turn.
The model's choice where the spec leaves it open: log entries 57, 98, 124. -/
def Obligations.BindRecords : Prop :=
  (∀ (s : State) (r : BindRec) (x : SupParams) (p : Partition), r.opc = 0 → s.part? r.part = some p →
    (r.sup = true → supCode s p r x = 0 → Ends (.bind r x) s fun u => SameMemory s u ∧ KeepsRegs s u ∧
      (u.partHas r.part fun q => q.reg 0x0501 0 % 2 ^ 32 = 0) ∧ ∃ t ∈ u.teams, t.uid = s.uids ∧ t.launch = none ∧
        t.core = r.core ∧ t.base = r.base ∧ t.entry = x.entry ∧ t.handles = x.handles ∧ t.status = .running) ∧
    (r.sup = true → supCode s p r x ≠ 0 → Ends (.bind r x) s fun u => u.teams = s.teams ∧ u.launches = s.launches ∧
      u.partHas r.part fun q => q.reg 0x0501 0 % 2 ^ 32 = supCode s p r x) ∧
    (r.sup = false → bindCode s p r ≠ 0 → Ends (.bind r x) s fun u => u.teams = s.teams ∧ u.launches = s.launches ∧
      u.partHas r.part fun q => q.reg 0x0501 0 % 2 ^ 32 = bindCode s p r) ∧
    (∀ n, r.sup = false → recLaunch s r = some n → s.launch? n.num = some n → bindCode s p r = 0 →
      Ends (.bind r x) s fun u => KeepsRegs s u ∧ (n.st ≠ 0 → SameMemory s u) ∧
        (∃ m, u.launch? n.num = some m ∧ m.st = max 1 n.st ∧ r.team ∈ m.started) ∧
        (u.partHas r.part fun q => q.reg 0x0501 0 % 2 ^ 32 = 0) ∧
        ∃ t ∈ u.teams, t.uid = s.uids ∧ t.launch = some n.num ∧ t.index = r.team ∧ t.core = r.core ∧ t.base = r.base ∧
          (t.status = .bound ∨ t.status = .running) ∧
          (s.launches = [n] → unitOf n r.team = [r.team] → unitGangs n r.team = [] → firstGap n.started = r.team →
            p.head = none → n.part = r.part → (∀ v ∈ s.teams, v.launch = some n.num → v.status = .running ∧ v.index ≠ r.team) →
            t.status = .running) ∧
          t.braids.length = n.braids ∧ ∀ b ∈ t.braids, b.s = List.replicate 64 0 ∧ b.nmode = 0 ∧ b.meld = false ∧
            ∀ l, l < 32 → (b.lane l).live = true ∧ (b.lane l).pc = BitVec.ofNat 32 n.entry ∧ (b.lane l).depth = 0 ∧
              ∀ k, (b.lane l).vreg k = 0 ∧ (b.lane l).vtag k = 0)) ∧
  (∀ (s : State) (r : BindRec) (p : Partition) (t : Team), s.part? r.part = some p → recTeam s r = some t →
    s.team? t.uid = some t →
    let accepted := fun (i : Instr) (Q : State → Prop) => Ends i s fun u => SameMemory s u ∧
      (u.partHas r.part fun q => q.reg 0x0501 0 % 2 ^ 32 = 0) ∧ Q u
    let refused := fun (i : Instr) (c : Nat) => Ends i s fun u => u.teams = s.teams ∧ u.launches = s.launches ∧
      u.partHas r.part fun q => q.reg 0x0501 0 % 2 ^ 32 = c
    (shapeCode p r t ≠ 0 →
      (r.opc = 1 → refused (.prepareForRestore r) (shapeCode p r t)) ∧ (r.opc = 2 → refused (.stop r) (shapeCode p r t)) ∧
      (r.opc = 3 → refused (.move r) (shapeCode p r t)) ∧ (r.opc = 4 → refused (.start r) (shapeCode p r t)) ∧
      (r.opc = 5 → refused (.releaseBinding r) (shapeCode p r t))) ∧
    (shapeCode p r t = 0 →
      (r.opc = 1 → t.status = .saved → placeCode s p r t.uid
          (if t.braids.isEmpty then t.scrGran else footprint t.braids.length t.vblk t.scrGran) = 0 →
        accepted (.prepareForRestore r) fun u => KeepsRegs s u ∧ u.teamHas t.uid fun v => v.status = .prepared ∧
          v.core = r.core ∧ v.base = r.base ∧ v.braids.length = t.braids.length) ∧
      (r.opc = 2 → t.isSup = true ∨ t.status ≠ .running ∨ t.stopping = true → refused (.stop r) 6) ∧
      (r.opc = 2 → t.isSup = false → t.status = .running → t.stopping = false → ∀ n, s.launchOf t = some n →
        (unitGangs n t.index = [] → allIdem s n (unitOf n t.index) = false → accepted (.stop r) fun u => KeepsRegs s u ∧
          u.teamHas t.uid fun v => v.stopping = true ∧ (t.stop = .none → v.stop = .save ∧ v.stopSince = s.clock)) ∧
        (unitGangs n t.index = [] → allIdem s n (unitOf n t.index) = true →
          accepted (.stop r) fun u => ∀ v ∈ u.teams, v.uid ≠ t.uid) ∧
        (t.part = r.part → ∀ g ∈ unitGangs n t.index, accepted (.stop r) fun u => u.teams = s.teams ∧
          let m : GangMsg := { part := p.num, gang := g, src := p.coord, count := 0, idem := false }
          (gangHeadOf s p g = p.coord → .pauseRequest m ∈ u.inputs) ∧
          (gangHeadOf s p g ≠ p.coord → (p.num, .control (gangHeadOf s p g) 1 m) ∈ u.fabOut))) ∧
      (r.opc = 3 → r.core = t.core → granulesFree s t.core r.base t.gran t.uid = true → t.isSup = false →
        t.status = .running → t.stopping = false → accepted (.move r) fun u => KeepsRegs s u ∧
          u.teamHas t.uid fun v => v.stopping = true ∧ (t.stop = .none → v.stop = .move r.base) ∧ v.base = t.base) ∧
      (r.opc = 4 → t.status = .restored → accepted (.start r) fun u => KeepsRegs s u ∧ u.teamHas t.uid fun v =>
        (v.status = .starting ∨ (v.status = (if t.exited then .heldExit else .running) ∧ v.since = s.clock ∧
          (t.dbgStopped = false → ∀ b ∈ v.braids, b.stop ≠ .safePoint))) ∧
        (∀ n, recLaunch s r = some n → s.launches = [n] → unitOf n t.index = [t.index] → unitGangs n t.index = [] →
          p.head = none → n.part = r.part → n.phase = .admitted → n.killed = false → r.sup = false →
          (∀ w ∈ s.teams, w.launch = some n.num → w.status = .saved ∨ w.status = .prepared ∨ w.status = .restored ∨
            w.status = .starting → t.index ≤ w.index) → v.status ≠ .starting)) ∧
      (r.opc = 4 → t.status ≠ .restored →
        (t.status = .bound → ∀ n, s.launchOf t = some n → unitGangs n t.index = []) → refused (.start r) 6) ∧
      (r.opc = 5 → t.isSup = true → accepted (.releaseBinding r) fun u => ∀ v ∈ u.teams, v.uid ≠ t.uid) ∧
      (r.opc = 5 → t.isSup = false → t.status = .prepared → accepted (.releaseBinding r) fun u =>
        u.teamHas t.uid fun v => v.status = .saved ∧ v.phTiles = []))) ∧
  (∀ (s : State) (uid base : Nat) (t : Team), s.team? uid = some t → t.stop = .move base → t.stopped = true →
    (∀ b ∈ t.braids, ∀ k, b.stop ≠ .fault k) → (∀ c, some c ∈ t.trackers → c.fault = none) →
    (∀ w ∈ t.entries, w.fault = none) →
    (settleMove s uid).teamHas uid fun u => u.base = base ∧ u.stop = t.wantStop ∧
      (t.dbgStopped = false → ∀ b ∈ u.braids, b.stop = .running))

/-- R30, R34, R65, R208, R210, R211, R213-R216, R335: what these forms do where nothing traps or waits. FENCE, YIELD, SLEEP
with 0 clocks, LAUNCH, LAUNCH.UNI, CARVE, DETACH, IDEM.BEGIN and IDEM.END complete and send their participating lanes to
the next instruction; SLEEP of more clocks completes at its expiry, in a braid that is not melded for each lane whose
clocks have passed; a carve-out gives the team its new sizes; and a bind, prepare, stop, move, start or release record
whose checks pass changes its team.
The model's choice where the spec leaves it open: log entries 55, 57, 98, 124. -/
def Obligations.OwnEffects : Prop :=
  (∀ (f : Fields) n s e,
    let goesOn := fun (i : Instr) (Q : State → Prop) => ∃ r, exec i s = .next r ∧ SameMemory s r ∧ Q r ∧
      ∃ b, r.braid? e.t.uid e.rank = some b ∧ ∀ l ∈ Mask.lanes e.part, (b.lane l).pc = nextPc (e.b.lane l).pc e.i.bytes
    let sleeps := if f.len = 0 then (e.b.sreg f.b.toNat).toNat else f.e.toNat
    let w := if f.len = 0 then (e.b.sreg f.a.toNat).toNat else f.e.toNat
    (Performs (.fence f) n s e → f.h.toNat % 8 ≠ 2 → (f.h.toNat % 8 = 4 → f.x.getLsbD 1 = false) →
      goesOn (.fence f) (KeepsRegs s)) ∧
    (Performs (.yield f) n s e → goesOn (.yield f) fun r => KeepsRegs s r ∧
      ∃ b, r.braid? e.t.uid e.rank = some b ∧ ∀ l ∈ Mask.lanes e.act, (b.lane l).yielded = true) ∧
    (Performs (.sleep f) n s e → sleeps = 0 → (∀ l ∈ Mask.lanes e.act, (e.b.lane l).sleepUntil = none) →
      goesOn (.sleep f) (KeepsRegs s)) ∧
    (Performs (.sleep f) n s e → 0 < sleeps → sleeps < 2 ^ 24 → (∀ l ∈ Mask.lanes e.act, (e.b.lane l).sleepUntil = none) →
      ∃ r b, exec (.sleep f) s = .next r ∧ SameMemory s r ∧ KeepsRegs s r ∧ r.braid? e.t.uid e.rank = some b ∧
        ∀ l ∈ Mask.lanes e.act, (b.lane l).wait = some .plain ∧
          (b.lane l).sleepUntil = some (s.clock + sleeps, nextPc (e.b.lane l).pc e.i.bytes)) ∧
    (∀ t h p, e.t.replay = none → t.part? e.t.part = some p →
      let off := fun (l : Nat) => (e.src f.kindA f.a l).toInt + f.e.toInt
      let queues := fun (i : Instr) (lanes : List Nat) => HandleReady e [5, 6] [] (lanes.map fun l => ⟨l, off l⟩) 64 t h →
        (∀ l ∈ lanes, 0 ≤ off l ∧ off l + 128 ≤ h.bound) → goesOn i fun r => ∃ q, r.part? e.t.part = some q ∧
          q.queue.length = p.queue.length + min lanes.length (Config.queueLength - p.queue.length)
      (Performs (.launch f) n s e → queues (.launch f) (Mask.lanes e.act)) ∧
      (Performs (.launchUni f) n s e → queues (.launchUni f) [(Mask.lanes e.act).headD 0])) ∧
    (Performs (.carve f) n s e → w < 2 ^ 14 → footprint e.t.braids.length (w % 16) (w / 16 % 1024) ≤ 736 →
      w / 16 % 1024 ≤ 768 → windowGran s e.t ≤ w / 16 % 1024 → goesOn (.carve f) fun r => KeepsRegs s r ∧
        r.teamHas e.t.uid fun u => u.carve = some (w % 16, w / 16 % 1024) ∧ u.vblk = e.t.vblk ∧ u.scrGran = e.t.scrGran) ∧
    (∀ l0 g, Performs (.detach f) n s e → e.t.replay = none → e.b.pendX = [] → s.launchOf e.t = some l0 →
      s.groupAt e.t (f.h.toNat / 8 % 4) = some g → g.w = true → g.index ∉ e.t.detached →
      goesOn (.detach f) fun r => KeepsRegs s r ∧ r.teamHas e.t.uid fun u => g.index ∈ u.detached) ∧
    (Performs (.idemBegin f) n s e → e.b.fresh = true → e.pc.toNat = e.t.entry → goesOn (.idemBegin f) fun r =>
      KeepsRegs s r ∧ r.teamHas e.t.uid fun u => u.idem = e.t.idem) ∧
    (Performs (.idemEnd f) n s e → goesOn (.idemEnd f) fun r => KeepsRegs s r ∧ r.teamHas e.t.uid fun u => u.idem = false)) ∧
  (∀ (r : BraidRef) (s : State) (b : Braid), s.braid? r.uid r.rank = some b → b.meld = false →
    Ends (.sleepExpiry r) s fun t => SameMemory s t ∧ KeepsRegs s t ∧ ∃ c, t.braid? r.uid r.rank = some c ∧
      ∀ l clk pc, l < b.lanes.length → l < 32 → (b.lane l).live = true → (b.lane l).sleepUntil = some (clk, pc) →
        clk ≤ s.clock → (c.lane l).pc = pc ∧ (c.lane l).wait = none) ∧
  (∀ (uid base : Nat) (s : State) (t : Team) (vblk gran : Nat), s.team? uid = some t → t.carve = some (vblk, gran) →
    t.status = .running → t.carveDue = true → (∀ o ∈ t.trackers, o = none) →
    granulesFree s t.core base (footprint t.braids.length vblk gran) uid = true →
    granulesUsed s t.core uid + footprint t.braids.length vblk gran ≤ 736 →
    Ends (.carveTakesEffect uid base) s fun r => r.teamHas uid fun u =>
      u.vblk = vblk ∧ u.scrGran = gran ∧ u.base = base ∧ u.carve = none ∧ u.k = t.k) ∧
  (∀ (s : State) (r : BindRec) (x : SupParams) (p : Partition), s.part? r.part = some p →
    (r.opc = 0 → (r.sup = true ∧ supCode s p r x = 0) ∨ (r.sup = false ∧ bindCode s p r = 0) → Ends (.bind r x) s fun u =>
      ∃ t ∈ u.teams, t.uid = s.uids ∧ t.core = r.core ∧ t.base = r.base ∧ ∀ b ∈ t.braids, ∀ l, l < 32 → (b.lane l).live = true) ∧
    (∀ t, recTeam s r = some t → s.team? t.uid = some t → shapeCode p r t = 0 →
      (r.opc = 1 → t.status = .saved → placeCode s p r t.uid
          (if t.braids.isEmpty then t.scrGran else footprint t.braids.length t.vblk t.scrGran) = 0 →
        Ends (.prepareForRestore r) s fun u => u.teamHas t.uid fun v => v.status = .prepared ∧ v.core = r.core) ∧
      (∀ n, r.opc = 2 → t.isSup = false → t.status = .running → t.stopping = false → s.launchOf t = some n →
        unitGangs n t.index = [] → allIdem s n (unitOf n t.index) = false →
        Ends (.stop r) s fun u => u.teamHas t.uid fun v => v.stopping = true) ∧
      (r.opc = 3 → r.core = t.core → granulesFree s t.core r.base t.gran t.uid = true → t.isSup = false →
        t.status = .running → t.stopping = false → Ends (.move r) s fun u => u.teamHas t.uid fun v => v.stopping = true) ∧
      (r.opc = 4 → t.status = .restored → Ends (.start r) s fun u => u.teamHas t.uid fun v =>
        v.status = .starting ∨ v.status = (if t.exited then .heldExit else .running)) ∧
      (r.opc = 5 → t.isSup = false → t.status = .prepared → Ends (.releaseBinding r) s fun u =>
        u.teamHas t.uid fun v => v.status = .saved)))

/-- R67-R69, R331, R332, R340, R341, R343: CTXSV and the save engine write the image of a stopped team, and CTXSV answers 3
where a fault record of a command is outstanding and 1 where the team has not stopped; CTXLD and the save engine restore
a prepared one from its image, to be started by a record or by START; a unit whose turn it is and that finds no place is
noted as the head, and the team that comes first in the order of R341, which may be pre-empted, is asked to stop where
Gazebo names it; and a stop that takes 10 ms is reported.
The model's choice where the spec leaves it open: log entries 56, 60, 61, 64, 83. -/
def Obligations.SavesAndRestores : Prop :=
  (∀ (f : Fields) n s e (t : State) (h : Handle), HandleReady e [5, 6] [] [] 1 t h →
    let off := (e.b.sreg f.a.toNat).toNat
    let binding := (e.b.sreg f.b.toNat).toNat
    off % 64 = 0 →
    (Performs (.ctxsv f) n s e →
      (teamAt t e.t.part binding = none → Ends (.ctxsv f) s fun r => SameMemory s r ∧ e.LeavesScalar r f.d 1) ∧
      (∀ u, teamAt t e.t.part binding = some u →
        ((∃ c, some c ∈ u.trackers ∧ c.fault ≠ none) → Ends (.ctxsv f) s fun r => SameMemory s r ∧ e.LeavesScalar r f.d 3) ∧
        ((∀ o ∈ u.trackers, ∀ c, o = some c → c.fault = none) → teamStands t u = false →
          Ends (.ctxsv f) s fun r => SameMemory s r ∧ e.LeavesScalar r f.d 1)) ∧
      (∀ u w, teamAt t e.t.part binding = some u → u.stopped = true → u.status = .running → u.isSup = false →
        u.savable = true → u.uid ≠ e.t.uid → s.team? u.uid = some u → off + (imageBytes t u).length ≤ h.bound →
        writeBytes t e.t.part e.t.ctx (h.base + off) (imageBytes t u) = (w, .ok ()) →
        Ends (.ctxsv f) s fun r => (∀ p, r.byteAt p = w.byteAt p) ∧ e.LeavesScalar r f.d 0 ∧
          r.teamHas u.uid fun v => v.status = (if f.x.getLsbD 0 then .saved else .running) ∧ v.scratch = u.scratch)) ∧
    (Performs (.ctxld f) n s e →
      let found := t.teams.find? fun u => u.part == e.t.part && u.status == .prepared && u.binding == binding
      (found = none → Ends (.ctxld f) s fun r => SameMemory s r ∧ e.LeavesScalar r f.d 1) ∧
      (∀ u w s1 s2 area bytes slots, found = some u → u.uid ≠ e.t.uid → s.team? u.uid = some u → off + 4096 ≤ h.bound →
        readBytes t e.t.part e.t.ctx (h.base + off) 4096 .read = (s1, .ok area) →
        imageFits (Memory.write [] 0 area) u (s1.doneRecOf u) = true →
        slots = (setBits 64 (bitsOf (leNat area) 0x20FF 0x20C0)).length → off + imageLen u slots ≤ h.bound →
        readBytes s1 e.t.part e.t.ctx (h.base + off) (imageLen u slots) .read = (s2, .ok bytes) →
        restoreTeam s2 u bytes = .done w →
        Ends (.ctxld f) s fun r => e.LeavesScalar r f.d 0 ∧ r.teamHas u.uid fun v =>
          (f.x.getLsbD 0 = false → v.status = .restored) ∧
          (f.x.getLsbD 0 = true → v.status = .starting ∨ v.status = .running ∨ v.status = .heldExit) ∧
          v.scratch = w.scratch ∧ v.tiles = w.tiles ∧ v.braids.map (·.lanes) = w.braids.map (·.lanes)))) ∧
  (∀ (s u : State) (uid off : Nat) (t : Team) (p : Partition), s.team? uid = some t → t.uid = uid →
    s.part? t.part = some p → s.soft = [] → (t.stop = .save ∨ t.stop = .held) → (t.status = .running ∨ t.status = .heldExit) →
    gangPausing s t = false → (∀ x ∈ unitTeams s t, (x.status = .running ∨ x.status = .heldExit) → x.savable = true) →
    let held := askStop s ((unitTeams s t).filter fun x => x.status == .running || x.status == .heldExit) .held
    let bytes := imageBytes held t
    (saveRoom held p off bytes.length = true → writeBytes held p.num 0 (p.reg 0x0520 0 + off) bytes = (u, .ok ()) →
      Ends (.teamSaved uid off) s fun r => (∀ q, r.byteAt q = u.byteAt q) ∧ KeepsRegs s r ∧
        (r.partHas t.part fun q => (uid, off) ∈ q.images) ∧
        r.teamHas uid fun v => v.status = .saved ∧ v.stop = .none ∧ v.locks = [] ∧ v.phTiles = []) ∧
    (saveRoom held p off bytes.length = false → Ends (.teamSaved uid off) s fun r => SameMemory s r ∧ KeepsRegs s r ∧
      (saveFull held p bytes.length = true → t.shortTold = false → .saveShort p.num uid ∈ r.gazebo ∧
        r.teamHas uid fun v => v.shortTold = true))) ∧
  (∀ (s u : State) (uid off : Nat) (t w : Team) (p : Partition) (bytes : List Byte), s.team? uid = some t → t.uid = uid →
    s.part? t.part = some p → t.status = .prepared → (uid, off) ∈ p.images →
    readBytes s p.num 0 (p.reg 0x0520 0 + off) (imageLen t t.slots.length) .read = (u, .ok bytes) →
    restoreTeam u t bytes = .done w → Ends (.saveEngineRestore uid off) s fun r =>
      (r.partHas t.part fun q => ∀ x ∈ q.images, x.1 ≠ uid) ∧
      r.teamHas uid fun v => v.status = .restored ∧ v.scratch = w.scratch ∧ v.tiles = w.tiles ∧ v.braids = w.braids) ∧
  (∀ (s : State) (part launch index : Nat) (victims : List Nat) (p : Partition) (n : Launch), s.part? part = some p →
    s.launch? launch = some n →
    let i : Instr := .headWaitExpiry part launch index victims
    let turn := n.part = part ∧ wanted s n ≠ [] ∧ ((nextUnit s n).getD []).head? = some index ∧
      (∀ m ∈ s.launches, m.part = part → m.before n = true → wanted s m = []) ∧ fitCount s p n (needGran s n (wanted s n)) < (wanted s n).length
    let order := (s.teams.filter fun t => t.part == part && t.status == .running && mayPreempt s n.prio t).foldl
      (fun ts t => insertVictim s t ts) []
    (¬ turn → exec i s = .next s) ∧
    (turn → Ends i s fun r => SameMemory s r ∧ .headBlocked part launch index ∈ r.gazebo ∧
      (r.partHas part fun q => q.head = some (launch, index)) ∧
      (order = [] ∨ victims = [] → r.teams = s.teams) ∧
      ∀ t ts, order = t :: ts → victims = [t.uid] → s.team? t.uid = some t →
        (∀ u ∈ ts, ∀ a b, s.launchOf t = some a → s.launchOf u = some b → a.prio < b.prio ∨ (a.prio = b.prio ∧ b.num ≤ a.num)) ∧
        ∀ a, s.launchOf t = some a → unitGangs a t.index = [] → allIdem s a (unitOf a t.index) = false →
          KeepsRegs s r ∧ r.teamHas t.uid fun v => v.stopping = true)) ∧
  (∀ (s : State) (uid : Nat) (t : Team), s.team? uid = some t →
    let saving := fun (x : StopReq) => x = .save ∨ x = .held
    let since := if saving t.stop then t.stopSince else t.wantSince
    (saving t.stop ∨ saving t.wantStop → t.lateTold = false → since + 10 * msClocks ≤ s.clock →
      Ends (.stopReportExpiry uid) s fun r => SameMemory s r ∧ KeepsRegs s r ∧ r.gazebo = s.gazebo ++ [.stopLate uid] ∧
        r.teamHas uid fun u => u = { t with lateTold := true }) ∧
    (¬ (saving t.stop ∨ saving t.wantStop) ∨ t.lateTold = true ∨ s.clock < since + 10 * msClocks →
      exec (.stopReportExpiry uid) s = .next s))

/-- R343-R346: a pause request makes the coordinator send PAUSE to every device of the gang, and is absorbed during a
pause; PAUSE stops the gang's members here; the last PAUSED makes the coordinator send SAVE, which ends the pause and
discards the members where every member everywhere was in an idempotent region; the last READY makes it send GO, which
submits start records for the restored members, or during a pause lets them go on; FAIL is passed on and gives up every
other device's share, at once or once its launch is known; VALIDATED is kept, passed on, tells the launch the ranks of
the other devices' members, and lets it be placed once every device has reported, and a second one is kept for later.
The model's choice where the spec leaves it open: log entries 58, 59, 102. -/
def Obligations.Gangs : Prop :=
  ∀ (s : State) (m : GangMsg) (p : Partition), s.part? m.part = some p →
    let devs := gangPeersOf s p m.gang
    let old := (p.gang? m.gang).getD (GangState.new m.gang)
    let tells := fun (r : State) (to_ : List Nat) (code : Nat) (i : GangMsg → Instr) (x : GangMsg) =>
      ∀ d ∈ to_, (d = p.coord → i x ∈ r.inputs) ∧ (d ≠ p.coord → (p.num, .control d code { x with job := p.reg 0x0202 0 }) ∈ r.fabOut)
    let msg : GangMsg := { part := m.part, gang := m.gang, src := p.coord, count := 0, idem := false }
    let quiet := fun (i : Instr) (Q : State → Prop) => Ends i s fun r => SameMemory s r ∧ KeepsRegs s r ∧ Q r
    let holds := fun (r : State) (Q : GangState → Prop) => r.partHas m.part fun q => ∃ g, q.gang? m.gang = some g ∧ Q g
    (devs.headD p.coord = p.coord → (gangLaunch s m.part m.gang).isSome = true →
      (old.paused = [] → old.pausing = false → quiet (.pauseRequest m) fun r => r.teams = s.teams ∧
        holds r (fun g => g.pausing = true ∧ g.paused = []) ∧ tells r devs 2 .pause msg) ∧
      (old.pausing = true → exec (.pauseRequest m) s = .next s)) ∧
    (quiet (.pause m) fun r => holds r (fun g => g.pausing = true ∧ g.stopping = true) ∧
      ∀ t ∈ gangTeams s m.part m.gang, s.team? t.uid = some t → t.status = .running ∨ t.status = .heldExit →
        r.teamHas t.uid fun u => u.stopping = true ∧ (t.stop = .none → u.stop = .save ∧ u.stopSince = s.clock)) ∧
    (devs.headD p.coord = p.coord →
      (old.pausing = false → exec (.paused m) s = .next s) ∧
      (old.pausing = true →
       let paused := insertNat m.src old.paused
       let idem := if m.idem then insertNat m.src old.idem else old.idem
       ((∀ d ∈ devs, d ∈ paused) → quiet (.paused m) fun r => r.teams = s.teams ∧ holds r (fun g => g.paused = []) ∧
          ∀ i, (i = true ↔ ∀ d ∈ devs, d ∈ idem) → tells r devs 4 .save { msg with idem := i }) ∧
       ((∃ d ∈ devs, d ∉ paused) → quiet (.paused m) fun r => r.teams = s.teams ∧ r.inputs = s.inputs ∧
          r.fabOut = s.fabOut ∧ holds r (fun g => g.paused = paused ∧ g.idem = idem))) ∧
      (let ready := insertNat m.src old.ready
       ((∀ d ∈ devs, d ∈ ready) → old.pausing = false → quiet (.ready m) fun r => r.teams = s.teams ∧
          tells r devs 6 .go msg) ∧
       ((∃ d ∈ devs, d ∉ ready) ∨ old.pausing = true → quiet (.ready m) fun r => r.teams = s.teams ∧
          r.inputs = s.inputs ∧ r.fabOut = s.fabOut ∧ holds r fun g => g.ready = ready))) ∧
    (old.pausing = false → exec (.save m) s = .next s) ∧
    (old.pausing = true → Ends (.save m) s fun r => SameMemory s r ∧
      holds r (fun g => g.pausing = false ∧ g.stopping = false) ∧
      (m.idem = true → ∀ t ∈ gangTeams s m.part m.gang, ∀ u ∈ r.teams, u.uid ≠ t.uid) ∧
      (m.idem = false → r.teams = s.teams)) ∧
    (old.pausing = true → quiet (.go m) fun r => holds r (fun g => g.pausing = false ∧ g.stopping = false) ∧
      ∀ t ∈ gangTeams s m.part m.gang, s.team? t.uid = some t → (t.stop = .save ∨ t.stop = .held) → t.wantStop = .none →
        r.teamHas t.uid fun u => u.stop = .none ∧ ∀ b ∈ u.braids, b.stop ≠ .safePoint) ∧
    (old.pausing = false → quiet (.go m) fun r => ∀ t ∈ gangTeams s m.part m.gang, s.team? t.uid = some t →
      recTeam s (startRecord s t) = some t → startCode s (startRecord s t) p = 0 →
      r.teamHas t.uid fun u => u.status = .starting ∨ u.status = .running ∨ u.status = .heldExit) ∧
    (let known := gangDevices p m.peers
     Ends (.fail m) s fun r =>
       (known.headD p.coord = p.coord → tells r (known.filter fun d => d != p.coord && d != m.src) 7 .fail m) ∧
       (m.src = p.coord → r.teams = s.teams ∧ r.launches = s.launches) ∧
       (m.src ≠ p.coord → gangLaunch s m.part m.gang = none → r.teams = s.teams ∧ holds r (fun g => g.failed = true)) ∧
       (∀ n, m.src ≠ p.coord → gangLaunch s m.part m.gang = some n → s.launch? n.num = some n → n.killed = false →
         ∃ x, r.launch? n.num = some x ∧ ∀ i, i < n.grid → m.gang ∈ unitGangs n i →
           x.poison = true ∧ i ∈ x.started ∧ i ∈ x.barred ∧ ∀ u ∈ r.teams, u.launch = some n.num → u.index ≠ i)) ∧
    (let kept := tabPut old.validated m.src m.count
     ((∀ v ∈ old.validated, v.1 ≠ m.src) → ∀ n, gangLaunch s m.part m.gang = some n → s.launch? n.num = some n →
       quiet (.validated m) fun r => r.teams = s.teams ∧ holds r (fun g => g.validated = kept) ∧
         (devs.headD p.coord = p.coord →
           (m.src ≠ p.coord → tells r (devs.filter (· != p.coord)) 8 .validated m) ∧
           (m.src = p.coord → ∀ v ∈ kept, tells r (devs.filter (· != p.coord)) 8 .validated { m with src := v.1, count := v.2 })) ∧
         ∃ x, r.launch? n.num = some x ∧
           (∀ g ∈ x.groups, g.gang = m.gang → g.remote = kept.filter fun v => v.1 != p.coord) ∧
           ((∀ d ∈ gangDevices p (n.gangPeers m.gang), ∃ v ∈ kept, v.1 = d) → m.gang ∈ x.gangReady) ∧
           ((∃ d ∈ gangDevices p (n.gangPeers m.gang), ∀ v ∈ kept, v.1 ≠ d) → x.gangReady = n.gangReady)) ∧
     ((∃ v ∈ old.validated, v.1 = m.src) → quiet (.validated m) fun r => r.teams = s.teams ∧ r.launches = s.launches ∧
       holds r fun g => g.validated = old.validated ∧ g.early = tabPut old.early m.src m.count))

/-! Memory -/

/-- R117, R225-R228, R287: LD loads each active lane's bytes, at the ordering point or for data in a cached level from a copy
of the core, and extends them, LDU loads once for all lanes, and ST stores the low bytes of D at each active lane's
address in ascending lane order, once where D and the base are scalars; every byte outside the stored ones reads as
before, and every register but D does. PF reads and writes no register and no byte, and a well-formed handle never makes
it trap or fault; under SPACE 5 and 6 it fetches the line of an address into a cached level, with LK = 01 locks the line
for the team, which holds at most 16, and with LK = 10 unlocks it; and under another SPACE it locks nothing.
The model's choice where the spec leaves it open: log entries 34, 35, 93, 96. -/
def Obligations.LoadsAndStores : Prop :=
  (∀ (f : Fields) n s e (t t' : State) (h : Handle) (spots : List (Nat × Spot)), s.memoryOk → e.t.replay = none →
     let nb := memSize f
     let offs := laneOffsets e nb
     let sync := f.x.getLsbD 3
     let value := fun (bs : List Byte) =>
       (BitVec.ofInt 64 (if f.x.getLsbD 2 = true ∧ 2 ^ (8 * nb - 1) ≤ leNat bs then (leNat bs : Int) - 2 ^ (8 * nb)
         else leNat bs) : Word)
     let stale := fun (sp : Spot) (v : Word) => sync = false ∧ sp.cached = true ∧ ∃ pa c, sp.place = .phys pa ∧
       t'.copyOf e.t.core (pa / 64) = some c ∧ v = value ((c.drop (pa % 64)).take nb)
     HandleReady e [1, 2, 3, 4, 5, 6] [] offs nb t h →
     (Performs (.ld f) n s e → SpotsReady e t h nb (if sync then .syncRead else .load) offs t' spots →
       ∃ r val, exec (.ld f) s = .next r ∧ SameMemory s r ∧ e.OthersKeep r ∧ e.LeavesD r false val (fun _ => f.f) ∧
         ∀ x ∈ spots, val x.1 = value (spotBytes t' e x.2) ∨ stale x.2 (val x.1)) ∧
     (Performs (.ldu f) n s e → SpotsReady e t h nb (if sync then .syncRead else .load) (offs.take 1) t' spots →
       ∃ r v, exec (.ldu f) s = .next r ∧ SameMemory s r ∧ e.OthersKeep r ∧
         e.LeavesD r (f.x.getLsbD 6) (fun _ => v) (fun _ => f.f) ∧
         ∀ x ∈ spots, v = value (spotBytes t' e x.2) ∨ stale x.2 v) ∧
     (Performs (.st f) n s e →
       SpotsReady e t h nb (if sync then .syncWrite else .store)
         (if f.x.getLsbD 6 && f.x.getLsbD 7 then offs.take 1 else offs) t' spots →
       (h.space = 1 → e.slicesWhole) →
       ∃ r, exec (.st f) s = .next r ∧ e.SameOutside r (spots.map (·.2)) true ∧ e.OthersKeep r ∧
         (h.space ≠ 1 → KeepsRegs s r) ∧
         ∀ x ∈ spots, (∀ y ∈ spots, x.1 < y.1 → x.2.apart y.2) → ∀ k, k < nb →
           e.byteAt r (x.2.byte k) = some ((leBytes nb (e.src (f.x.getLsbD 6) f.d x.1).toNat).getD k 0))) ∧
  (∀ (f : Fields) n s e, Performs (.pf f) n s e →
     let lk := f.x.toNat / 16 % 4
     (∀ t h, readHandle s e.t f.h.toNat = (t, .ok (some h)) → handleBad t e.t h = false →
       ∃ r, exec (.pf f) s = .next r ∧ SameMemory s r ∧ KeepsRegs s r ∧ r.teamHas e.t.uid fun u =>
         (lk = 1 → (∀ x ∈ e.t.locks, x ∈ u.locks) ∧ (e.t.locks.length ≤ 16 → u.locks.length ≤ 16)) ∧
         (lk = 2 → ∀ x ∈ u.locks, x ∈ e.t.locks) ∧
         (lk ≠ 1 → lk ≠ 2 → u.locks = e.t.locks) ∧
         (h.space ≠ 5 → h.space ≠ 6 → u.locks = e.t.locks ∧ r.copies = t.copies) ∧
         ∀ l v sp pa, Mask.lanes e.act = [l] → h.space = 5 ∨ h.space = 6 →
           resolve t e.t h f.h.toNat l (e.offset (memImm f) 1 l) 1 .read = (v, .ok sp) → sp.place = .phys pa →
           (lk = 1 → pa / 64 ∉ e.t.locks → e.t.locks.length < 16 → u.locks = e.t.locks ++ [pa / 64]) ∧
           (lk = 1 → pa / 64 ∈ e.t.locks ∨ 16 ≤ e.t.locks.length → u.locks = e.t.locks) ∧
           (lk = 2 → u.locks = e.t.locks.filter (· != pa / 64)) ∧
           (lk ≠ 2 → sp.cached = true → v.copyOf e.t.core (pa / 64) = none →
             r.copyOf e.t.core (pa / 64) = some (v.mem.read (pa / 64 * 64) 64))) ∧
     (∀ t d, readHandle s e.t f.h.toNat = (t, .error d) → Does (.pf f) s e t ∧ SameMemory s t ∧ KeepsRegs s t) ∧
     (∀ t, readHandle s e.t f.h.toNat = (t, .ok none) →
       exec (.pf f) s = .next (finish e (.trapAt t { cause := 4, opnd := 5, lanes := e.act, value := f.h.toNat }))))

/-- R229, R230: ATOM takes each active lane's bytes, in ascending lane order, through its operation, so that a lane that
meets the same bytes finds what the lane before it left; with RET the old values go to D; and every other byte reads
as before. R175: HADQ gives D the two rotated elements of each active lane.
The model's choice where the spec leaves it open: log entry 96. -/
def Obligations.Atomics : Prop :=
  (∀ (f : Fields) n s e (t t' : State) (h : Handle) (spots : List (Nat × Spot)), s.memoryOk → e.t.replay = none →
    let nb := fmtWidth f.f / 8
    let ret := f.x.getLsbD 3
    Performs (.atom f) n s e → HandleReady e [1, 2, 3, 4, 5, 6] (atomChecks e) (laneOffsets e nb) nb t h →
    SpotsReady e t h nb .rmw (laneOffsets e nb) t' spots → (h.space = 1 → e.slicesWhole) →
    ∃ (r : State) (old : Nat → Nat), exec (.atom f) s = .next r ∧ e.OthersKeep r ∧
      e.SameOutside r (spots.map (·.2)) (!ret) ∧
      (h.space ≠ 1 → ret = false → KeepsRegs s r) ∧
      (h.space ≠ 1 → ret = true → e.LeavesD r (f.x.getLsbD 6) (fun l => word (old l)) (fun _ => f.f)) ∧
      ∀ x ∈ spots,
        let new := atomNew (f.x.toNat % 8) f.f (old x.1) ((e.src false f.c x.1).toNat % 2 ^ (8 * nb))
          ((e.src (f.x.getLsbD 6) f.d x.1).toNat % 2 ^ (8 * nb))
        ((∀ y ∈ spots, y.1 < x.1 → x.2.apart y.2) → old x.1 = leNat (spotBytes t' e x.2)) ∧
        (h.space ≠ 1 → (∀ y ∈ spots, x.1 < y.1 → x.2.apart y.2) → ∀ k, k < nb →
          e.byteAt r (x.2.byte k) = some ((leBytes nb new).getD k 0)) ∧
        ∀ y ∈ spots, x.1 < y.1 → y.2.place = x.2.place → (∀ z ∈ spots, x.1 < z.1 → z.1 < y.1 → z.2.apart y.2) →
          old y.1 = new % 2 ^ (8 * nb)) ∧
  (∀ (f : Tag) (m c d : Nat), m < 2 ^ fmtWidth f → c < 2 ^ fmtWidth f →
    (isInt f = true → atomNew 0 f m c d = (m + c) % 2 ^ fmtWidth f) ∧
    intVal f (atomNew 1 f m c d) = min (intVal f m) (intVal f c) ∧
    intVal f (atomNew 2 f m c d) = max (intVal f m) (intVal f c) ∧
    atomNew 3 f m c d = m &&& c ∧ atomNew 4 f m c d = m ||| c ∧ atomNew 5 f m c d = m ^^^ c ∧
    atomNew 6 f m c d = c ∧ atomNew 7 f m c d = if m = d then c else m) ∧
  (∀ (f : Fields) n s e (t u : State) (h : Handle) (hd : Header), Performs (.hadq f) n s e →
    HandleReady e [1, 2, 3, 4, 5, 6, 7] [e.checkA 10] [] 1 t h → h.hdr ≠ 0 →
    readHeader t e.t h f.h.toNat = (u, .ok hd) → hd.bad = false →
    let block := if f.len = 0 then (e.b.sreg f.b.toNat).toNat else f.e.toNat
    let y := hadamard (f.x.getLsbD 0) hd.seed.toNat block ((List.range 64).map fun k =>
      if e.act.getLsbD (k / 2) then elemOf 32 (k % 2) (e.srcA (k / 2)) else 0)
    ∃ r val, exec (.hadq f) s = .next r ∧ SameMemory s r ∧ e.OthersKeep r ∧ e.LeavesD r f.kindD val (fun _ => 10) ∧
      ∀ l ∈ Mask.lanes e.act, ∀ k, k < 2 → elemOf 32 k (val l) = y.getD (2 * l + k) 0 % 2 ^ 32)

/-- R113, R116, R117, R124, R125, R146, R175, R200, R225, R244, R359: what LD, LDU, ST, ATOM, HADQ, the instructions of
the fabric, PHARR and PHWAIT meet before their effect, in the order of R146. A handle that is absent, malformed or of
another level raises cause 0x04 for H, and a pattern that the instruction does not take, or a count past 32 bits, cause
0x04 for its operand; a checked operand of another tag raises cause 0x05; an offset that is no multiple of the access
size raises cause 0x07 in the lanes that have one; an entry that cannot be read, an access outside the handle's bound,
and one that its translation, the memory model or ECC refuses, are a fault, of the lowest lane that fails where each
lane has its own access, and of all active lanes where they share one; a remote write of a deterministic launch without
the turn is a fault; and such an instruction leaves every byte and register as before.
The model's choice where the spec leaves it open: log entries 85, 122. -/
def Obligations.MemoryTraps : Prop :=
  (∀ (i : Instr) n s e (t : State) (x : MemForm), Performs i n s e → e.memForm i = some x →
    let hIdx := e.f.h.toNat
    let ends := fun (a : Act) => exec i s = .next (finish e a)
    let bad := fun (l : Nat) => ∃ r ∈ x.offs, r.lane = l ∧ r.off % Int.ofNat x.n ≠ 0
    let fine := ∀ r ∈ x.offs, r.off % Int.ofNat x.n = 0
    let later := (¬ e.tagged x.checks → ∃ y, ends (.trapAt t y) ∧ e.TagTrap x.checks y) ∧
      (e.tagged x.checks → (∃ l, bad l) → ∃ m : Mask, ends (.trapAt t { cause := 7, lanes := m }) ∧ e.LanesWhere m bad)
    (readHandle s e.t hIdx = (t, .ok none) ∨ (∃ h, readHandle s e.t hIdx = (t, .ok (some h)) ∧
        (handleBad t e.t h = true ∨ h.space = 0 ∨ 7 ≤ h.space)) →
      ends (.trapAt t { cause := 4, opnd := 5, lanes := e.act, value := hIdx })) ∧
    (∀ h, readHandle s e.t hIdx = (t, .ok (some h)) → handleBad t e.t h = false → 1 ≤ h.space → h.space < 7 →
      later ∧
      (e.tagged x.checks → fine → ∀ u rs d, checkLanes e h hIdx x.n x.use x.reqs t = (u, rs) →
        laneFault rs = some d →
        (∃ v, ends (.fault v (if x.whole then { d with lanes := e.act } else d)) ∧ SameMemory u v ∧ v.shadow = t.shadow) ∧
        ∃ y ∈ rs, ∃ d0, y.2 = .error d0 ∧ d0.cause = d.cause ∧ d0.detail = d.detail ∧ d0.addr = d.addr ∧
          ∀ z ∈ rs, (∃ d1, z.2 = .error d1) → y.1 ≤ z.1)) ∧
    (∀ d, readHandle s e.t hIdx = (t, .error d) → later ∧
      (e.tagged x.checks → fine → ends (.fault t { d with lanes := e.act })))) ∧
  (∀ (i : Instr) n s e (p : Partition) (t : State) (x : FabForm), Performs i n s e → e.fabForm i = some x →
    s.part? e.t.part = some p →
    let hIdx := e.f.h.toNat
    let pat := e.b.sreg x.pat.toNat
    let ends := fun (a : Act) => exec i s = .next (finish e a)
    let off := fun (l : Nat) => e.offset x.imm x.n l
    let bad := fun (l : Nat) => off l % Int.ofNat x.n ≠ 0
    let fits := patternOk pat p = true ∧ x.legal pat p = true
    let later := (¬ fits → ends (.trapAt t { cause := 4, opnd := x.opnd, lanes := e.act, value := pat.toNat })) ∧
      (fits → ¬ e.tagged x.checks → ∃ y, ends (.trapAt t y) ∧ e.TagTrap x.checks y) ∧
      (fits → e.tagged x.checks → (∃ l ∈ Mask.lanes e.act, bad l) → ∃ m : Mask,
        ends (.trapAt t { cause := 7, lanes := m }) ∧ e.LanesWhere m bad)
    (readHandle s e.t hIdx = (t, .ok none) ∨ (∃ h, readHandle s e.t hIdx = (t, .ok (some h)) ∧
        (handleBad t e.t h = true ∨ h.space ≠ 7)) →
      ends (.trapAt t { cause := 4, opnd := 5, lanes := e.act, value := hIdx })) ∧
    (∀ d, readHandle s e.t hIdx = (t, .error d) → later ∧
      (fits → e.tagged x.checks → (∀ l ∈ Mask.lanes e.act, ¬ bad l) → ends (.fault t { d with lanes := e.act }))) ∧
    (∀ h, readHandle s e.t hIdx = (t, .ok (some h)) → handleBad t e.t h = false → h.space = 7 → later ∧
      (fits → e.tagged x.checks → (∀ l ∈ Mask.lanes e.act, ¬ bad l) →
        let out := fun (l : Nat) => off l < 0 ∨ (h.bound : Int) < off l + x.n
        ((∃ l ∈ Mask.lanes e.act, out l) → ∃ d, ends (.fault t d) ∧ d.cause = 1 ∧ d.detail = 3 ∧ d.handle = hIdx ∧
          ∃ l ∈ Mask.lanes e.act, out l ∧ (∀ m ∈ Mask.lanes e.act, out m → l ≤ m) ∧ d.lanes.getLsbD l = true ∧
            d.addr = wrapInt 64 (h.base + off l) ∧ ∀ m, d.lanes.getLsbD m = true → m ∈ Mask.lanes e.act ∧ out m) ∧
        ((∀ l ∈ Mask.lanes e.act, ¬ out l) → x.write = true → e.t.replay = none → e.s.isDet e.t = true →
          holdsTurn e.s e.t e.rank = false → ∃ d, ends (.fault t d) ∧ d.cause = 3 ∧ d.detail = 3 ∧ d.lanes = e.act)))) ∧
  (∀ (f : Fields) n s e (t : State), Performs (.hadq f) n s e →
    let hIdx := f.h.toNat
    let ends := fun (a : Act) => exec (.hadq f) s = .next (finish e a)
    (readHandle s e.t hIdx = (t, .ok none) ∨ (∃ h, readHandle s e.t hIdx = (t, .ok (some h)) ∧
        (handleBad t e.t h = true ∨ h.hdr = 0)) →
      ends (.trapAt t { cause := 4, opnd := 5, lanes := e.act, value := hIdx })) ∧
    (∀ h, readHandle s e.t hIdx = (t, .ok (some h)) → handleBad t e.t h = false → h.hdr ≠ 0 →
      (¬ e.tagged [e.checkA 10] → ∃ y, ends (.trapAt t y) ∧ e.TagTrap [e.checkA 10] y) ∧
      (e.tagged [e.checkA 10] → ∀ u,
        (∀ d, readHeader t e.t h hIdx = (u, .error d) → ends (.fault u { d with lanes := e.act })) ∧
        (∀ hd, readHeader t e.t h hIdx = (u, .ok hd) → hd.bad = true →
          ends (.trapAt u { cause := 14, opnd := 5, lanes := e.act, value := hIdx }))))) ∧
  (∀ (f : Fields) (i : Instr) n s e (t : State), i = .pharr f ∨ (i = .phwait f ∧ e.t.replay = none) → Performs i n s e →
    let hIdx := f.h.toNat
    let ends := fun (a : Act) => exec i s = .next (finish e a)
    let off := phaseOff e
    let count := (e.b.sreg f.c.toNat).toNat
    let tooMany := i = .pharr f ∧ f.variant = 2 ∧ 2 ^ 32 ≤ count
    (readHandle s e.t hIdx = (t, .ok none) ∨ (∃ h, readHandle s e.t hIdx = (t, .ok (some h)) ∧
        (handleBad t e.t h = true ∨ h.space < 2 ∨ 4 < h.space)) →
      ends (.trapAt t { cause := 4, opnd := 5, lanes := e.act, value := hIdx })) ∧
    (∀ h, readHandle s e.t hIdx = (t, .ok (some h)) → handleBad t e.t h = false → 2 ≤ h.space → h.space ≤ 4 →
      (tooMany → ends (.trapAt t { cause := 4, opnd := 4, lanes := e.act, value := count })) ∧
      (¬ tooMany → off % 16 ≠ 0 → ends (.trapAt t { cause := 7, lanes := e.act })) ∧
      (¬ tooMany → off % 16 = 0 → ∀ d, phaseSpot t (e.teamOf (Mask.lowest e.act)) h hIdx off = .error d →
        ends (.fault t { d with lanes := e.act })))) ∧
  (∀ (s : State) (t : Team) (h : Handle) (hIdx lane : Nat) (off : Int) (n : Nat) (k : AccessKind),
    (off < 0 ∨ (h.bound : Int) < off + n) → resolve s t h hIdx lane off n k
      = (s, .error { cause := 1, detail := 3, addr := wrapInt 64 (h.base + off), handle := hIdx })) ∧
  (∀ (e : Env) (t : State) (d : Draft) (p : Partition), t.part? e.t.part = some p → e.t.launch ≠ none →
    let r := finish e (.fault t d)
    SameMemory t r ∧ KeepsRegs t r ∧ r.partHas e.t.part fun q => ∃ x, q.faultWait = p.faultWait ++ [x] ∧
      x.cause = d.cause ∧ x.detail = d.detail ∧ x.addr.toNat = d.addr % 2 ^ 64 ∧ x.lanes = d.lanes ∧
      x.handle = d.handle ∧ x.pc = e.pc.toNat ∧
      ∀ b, t.braid? e.t.uid e.s.cur.rank = some b → ∃ c, r.braid? e.t.uid e.s.cur.rank = some c ∧
        c = { b with stop := .fault x.id })

/-! The fabric -/

/-- R244-R251: LDX and ATX with RET send one request per active lane and wait, and go on with the values once every reply
has come; STX, ATX without RET and RSTX go on at once, having added the derived count of the pattern to their batch for
every active lane and, where no copy stays on this device, sent each lane's copies or its contribution; BCLOSE, which has no effect with an empty target set, closes its batch, opens the next one, waits, and gives the scalar D the summary once every
peer has answered or the close timeout, counted in microseconds from the close, has expired.
The model's choice where the spec leaves it open: log entries 68, 70, 116. -/
def Obligations.FabricInstructions : Prop :=
  (∀ (f : Fields) n s e (p : Partition) (t : State) (h : Handle) (v : Nat → Word), e.t.replay = none →
     let bt := f.x.toNat / 16 % 4
     let there := ∀ l ∈ Mask.lanes e.act, ∃ x, e.b.pending e.pc l = some x ∧ x.reply = some (v l, 0)
     let sends := fun (i : Instr) (pat : Word) (offs : List LaneReq) (mk : LaneReq → FabRecord) => ∃ r, exec i s = .next r ∧ KeepsRegs s r ∧
       (let copies := if patRed pat = true then [(rootOf pat p, 0)] else (expand pat p p.coord p.coord 0).1
        0 < derivedCount pat p p.coord →
        (patRed pat = false → (expand pat p p.coord p.coord 0).2 = false) → (patRed pat = true → rootOf pat p ≠ p.coord) →
        ∃ tag : Nat → Nat, r.fabOut = s.fabOut ++ offs.flatMap fun x => copies.map fun c =>
          (e.t.part, .access c.1 { mk x with tag := tag x.lane, j := c.2 })) ∧
       (∃ b, r.braid? e.t.uid e.rank = some b ∧ ∀ l ∈ Mask.lanes e.act, (b.lane l).pc = nextPc (e.b.lane l).pc e.i.bytes) ∧
       ((patRed pat = false → isTarget pat p p.coord p.coord = false) → (patRed pat = true → rootOf pat p ≠ p.coord) →
         SameMemory s r) ∧
       ∀ b, e.t.batches[bt]? = some b → r.teamHas e.t.uid fun u => ∃ q, u.batches[bt]? = some q ∧
         q.count = b.count + (Mask.lanes e.act).length * derivedCount pat p p.coord
     (Performs (.ldx f) n s e →
       let nb := memSize f
       let dst := (targets (e.b.sreg f.c.toNat) p p.coord).headD p.coord
       let value := fun (x : Nat) => (BitVec.ofInt 64 (if f.x.getLsbD 2 = true ∧ 2 ^ (8 * nb - 1) ≤ x % 2 ^ (8 * nb)
         then ((x % 2 ^ (8 * nb) : Nat) : Int) - 2 ^ (8 * nb) else ((x % 2 ^ (8 * nb) : Nat) : Int)) : Word)
       RemoteReady e (e.b.sreg f.c.toNat) patternOne [] (laneOffsets e nb) nb false p t h →
       (there → ∃ r, exec (.ldx f) s = .next r ∧ SameMemory s r ∧ e.OthersKeep r ∧
         e.LeavesD r false (fun l => value (v l).toNat) (fun _ => f.f)) ∧
       ((∀ l ∈ Mask.lanes e.act, e.b.pending e.pc l = none) → dst ≠ p.coord → ∃ (r : State) (tag : Nat → Nat), exec (.ldx f) s = .next r ∧
         SameMemory s r ∧ KeepsRegs s r ∧
         r.fabOut = s.fabOut ++ (laneOffsets e nb).map (fun x => (e.t.part, .access dst
           { laneRecord e .load h (e.b.sreg f.c.toNat) x.off (originOf t (e.laneAccessor x.lane) false []) with count := nb, bt := 0, tag := tag x.lane })) ∧
         ∃ b, r.braid? e.t.uid e.rank = some b ∧ ∀ l ∈ Mask.lanes e.act, (b.lane l).pc = (e.b.lane l).pc)) ∧
     (Performs (.stx f) n s e →
       let nb := memSize f
       RemoteReady e (e.b.sreg f.c.toNat) patternMany [] (laneOffsets e nb) nb true p t h →
       sends (.stx f) (e.b.sreg f.c.toNat) (laneOffsets e nb) fun x =>
         { laneRecord e .store h (e.b.sreg f.c.toNat) x.off (originOf t (e.farAccessor x.lane) false []) with
           data := dataBytes e nb x.lane, check := sourceCheck (dataBytes e nb x.lane) x.off }) ∧
     (Performs (.atx f) n s e →
       let nb := fmtWidth f.f / 8
       let offs := (Mask.lanes e.act).map fun l => ⟨l, e.offset (if f.len = 0 then 0 else f.e.toInt) nb l⟩
       let dst := (targets (e.b.sreg f.b.toNat) p p.coord).headD p.coord
       (f.x.getLsbD 3 = true → RemoteReady e (e.b.sreg f.b.toNat) patternOne (atomChecks e) offs nb true p t h →
         (there → ∃ r, exec (.atx f) s = .next r ∧ SameMemory s r ∧ e.OthersKeep r ∧
           e.LeavesD r (f.x.getLsbD 6) (fun l => word ((v l).toNat % 2 ^ (8 * nb))) (fun _ => f.f)) ∧
         ((∀ l ∈ Mask.lanes e.act, e.b.pending e.pc l = none) → dst ≠ p.coord → ∃ r, exec (.atx f) s = .next r ∧
           SameMemory s r ∧ KeepsRegs s r ∧
           (∃ b, r.braid? e.t.uid e.rank = some b ∧ ∀ l ∈ Mask.lanes e.act, (b.lane l).pc = (e.b.lane l).pc) ∧
           ∀ o ∈ offs, ∃ x, (e.t.part, .access dst x) ∈ r.fabOut ∧ x.kind = .atomic ∧ x.ret = true ∧ x.offset = o.off ∧ x.f = f.f ∧
             x.op = f.x.toNat % 8 ∧ x.data = leBytes nb (atomC e nb o.lane) ++ leBytes nb (atomD e nb o.lane))) ∧
       (f.x.getLsbD 3 = false → RemoteReady e (e.b.sreg f.b.toNat) patternMany (atomChecks e) offs nb true p t h →
         sends (.atx f) (e.b.sreg f.b.toNat) offs fun x =>
           let data := leBytes nb (atomC e nb x.lane) ++ leBytes nb (atomD e nb x.lane)
           { laneRecord e .atomic h (e.b.sreg f.b.toNat) x.off (originOf t (e.farAccessor x.lane) true (atxReleases e x.lane)) with
             op := f.x.toNat % 8, data, check := sourceCheck data x.off })) ∧
     (Performs (.rstx f) n s e →
       let nb := fmtWidth f.f / 8
       let offs := (Mask.lanes e.act).map fun l => ⟨l, e.offset (memImm f) nb l⟩
       RemoteReady e (e.b.sreg f.c.toNat) patternReduce [] offs nb true p t h →
       sends (.rstx f) (e.b.sreg f.c.toNat) offs fun x =>
         { laneRecord e .reduce h (e.b.sreg f.c.toNat) x.off (originOf t (e.farAccessor x.lane) true (atxReleases e x.lane)) with
           op := f.x.toNat % 8, data := dataBytes e nb x.lane, check := sourceCheck (dataBytes e nb x.lane) x.off }) ∧
     (∀ (i : Instr), (i = .ldx f ∨ i = .stx f ∨ i = .rstx f) → Performs i n s e → s.part? e.t.part = some p →
       readHandle s e.t f.h.toNat = (t, .ok (some h)) → handleBad t e.t h = false → h.space = 7 →
       patternOk (e.b.sreg f.c.toNat) p = false →
       exec i s = .next (finish e (.trapAt t
         { cause := 4, opnd := 4, lanes := e.act, value := (e.b.sreg f.c.toNat).toNat })))) ∧
  ((∀ (f : Fields) n s e (p : Partition) (b : Batch), Performs (.bclose f) n s e → e.t.replay = none →
     s.part? e.t.part = some p →
     let bt := f.x.toNat / 16 % 4
     let pat := e.b.sreg f.c.toNat
     (patternOk pat p = false ∨ patRed pat = true →
       TrapsWith (.bclose f) s e { cause := 4, opnd := 4, lanes := e.act, value := pat.toNat }) ∧
     (patternOk pat p = true → patRed pat = false → e.t.batches[bt]? = some b →
       (targets pat p p.coord = [] → Does (.bclose f) s e s) ∧
       (b.closing = none → (∃ d ∈ targets pat p p.coord, d ≠ p.coord) → ∃ r, exec (.bclose f) s = .next r ∧
         SameMemory s r ∧ KeepsRegs s r ∧
         (∃ c, r.braid? e.t.uid e.rank = some c ∧ ∀ l ∈ Mask.lanes e.act, (c.lane l).pc = (e.b.lane l).pc) ∧
         r.teamHas e.t.uid fun u => ∃ q c, u.batches[bt]? = some q ∧ q.count = 0 ∧ q.timeout = false ∧
           q.closing = some c ∧ c.peers = targets pat p p.coord ∧ c.count = b.count ∧ c.since = s.clock ∧
           c.rank = e.rank ∧ c.pc = e.pc) ∧
       (∀ c, targets pat p p.coord ≠ [] → b.closing = some c → c.rank = e.rank → c.pc = e.pc →
         let all := ∀ d ∈ c.peers, ∃ x ∈ b.replies, x.src = d
         let short := b.replies.foldl (fun n x => n + x.count) 0 < c.count
         (b.timeout = false → ¬ all → Waits (.bclose f) s e .plain) ∧
         (b.timeout = true ∨ all → ∃ r v, exec (.bclose f) s = .next r ∧ SameMemory s r ∧ e.OthersKeep r ∧
           e.LeavesScalar r f.d v ∧
           (all → ¬ short → (∀ x ∈ b.replies, x.errs = 0) → v = 256) ∧
           (v.getLsbD 4 = true ↔ short) ∧ (v.getLsbD 5 = true ↔ ¬ all) ∧ (v.getLsbD 8 = true ↔ all) ∧
           (∀ k, k < 4 ∨ k = 6 → (v.getLsbD k = true ↔ ∃ x ∈ b.replies, x.errs.getLsbD k = true)) ∧
           r.teamHas e.t.uid fun u => ∃ q, u.batches[bt]? = some q ∧ q.closing = none ∧ q.replies = [] ∧ q.timeout = false)))) ∧
   (∀ (s : State) (uid bt : Nat) (t : Team) (b : Batch) (c : Closing), s.team? uid = some t → t.batches[bt]? = some b →
     b.closing = some c → Ends (.closeTimeout uid bt) s fun r => SameMemory s r ∧ KeepsRegs s r ∧
       r.teamHas uid fun u => ∃ q, u.batches[bt]? = some q ∧ q.closing = b.closing ∧ q.replies = b.replies ∧ q.count = b.count ∧
         (q.timeout = true ↔ b.timeout = true ∨ c.since + s.teamReg t 0x0040 0 * 1750 ≤ s.clock)))

/-- R245-R252, R372, R377: a record of another job or of a reserved kind is refused or discarded; a copy is sent on, and where it is
delivered a store writes its bytes, a load answers the bytes it reads, waits behind an earlier access of its lane, or is
passed on to the device that holds a window part, one that comes again while it waits changes nothing, and an atomic writes the value of its operation and answers the old
one, once however often it is asked; a reply reaches what waits for it, a lane or an access passed on; the last
contribution of a reduction writes the reduced value; acknowledgements are summed; and a close is answered with the
count and the errors of its batch.
The model's choice where the spec leaves it open: log entries 10, 36, 68, 69, 87, 101, 110. -/
def Obligations.FabricRecords : Prop :=
  (∀ (s t t2 : State) (part : Nat) (r : FabRecord) (p : Partition) (pt : Team) (sp : Spot), s.memoryOk →
    s.part? part = some p → r.job = p.reg 0x0202 0 → kindCode r.kind < 12 →
    let kept := ∃ w ∈ s.deferred, w.part = p.num ∧ w.record.src = r.src ∧ w.record.tag = r.tag
    let due := ¬ kept ∧ behind s p.num r = false ∧ ownerAway s p.num r = false
    let here := due ∧ recorded s r = none ∧ ownerRequest s p.num r = none
    let party := remoteAccessor s p.num r.src r.origin
    let answers := fun (u : State) (kind : RecKind) (poison : Nat) (data : List Byte) => ∃ x,
      (p.num, .access r.src x) ∈ u.fabOut ∧ x.kind = kind ∧ x.tag = r.tag ∧ x.poison = poison ∧ x.data = data
    let stored := fun (u : State) (bs : List Byte) =>
      (∀ k, k < sp.n → (s.byteAt (sp.byte k)).isSome = true → u.byteAt (sp.byte k) = some (bs.getD k 0)) ∧
      ∀ q, (∀ k, k < sp.n → sp.byte k ≠ q) → u.byteAt q = s.byteAt q
    let old := (readSpot t2 Config.cores 0 0 sp true false).2
    let good := r.check = sourceCheck r.data r.offset
    let new := fun (n : Nat) => leBytes n (atomNew r.op r.f (leNat old) (leNat (r.data.take n)) (leNat ((r.data.drop n).take n)))
    (r.kind = .store → here → targetSpot s p.num r r.offset r.data.length .write = (t, .ok (pt, sp)) → checkTarget t pt party (if r.origin.sync then .syncWrite else .store) sp = (t2, .ok ()) → good →
      (r.ret = true → Ends (.storeRecord part r) s fun u => stored u r.data ∧ answers u .atomicReply 0 []) ∧
      (r.ret = false → expand r.pattern p r.src p.coord r.j = ([], true) → copyCount r.pattern p r.src p.coord r.j = 1 →
        Ends (.storeRecord part r) s fun u => stored u r.data ∧ KeepsRegs s u ∧
          ∃ d x, (p.num, .access d x) ∈ u.fabOut ∧ x.kind = .ack ∧ x.tag = r.tag ∧ x.src = r.src ∧ x.count = 1 ∧
            ∀ a, (axisOrder r.pattern p.axes)[r.j - 1]? = some a → d = setAxis p.coord a (coordAxis r.src a))) ∧
    (∀ (i : Instr) copies, (i = .storeRecord part r ∨ i = .atomicRecord part r) → r.ret = false →
      expand r.pattern p r.src p.coord r.j = (copies, false) → Ends i s fun u => SameMemory s u ∧ KeepsRegs s u ∧
        ∀ c ∈ copies, (p.num, .access c.1 { r with j := c.2 }) ∈ u.fabOut) ∧
    (r.kind = .load → here → targetSpot s p.num r r.offset r.count .read = (t, .ok (pt, sp)) → checkTarget t pt party (if r.origin.sync then .syncRead else .load) sp = (t2, .ok ()) →
      Ends (.loadRecord part r) s fun u => SameMemory s u ∧ KeepsRegs s u ∧ answers u .loadReply 0 old) ∧
    (∀ c, r.kind = .load → here → targetSpot s p.num r r.offset r.count .read = (t, .error c) →
      Ends (.loadRecord part r) s fun u => SameMemory s u ∧ KeepsRegs s u ∧ answers u .loadReply c []) ∧
    (r.kind = .load → kept → exec (.loadRecord part r) s = .next s) ∧
    (r.kind = .load → ¬ kept → behind s p.num r = true ∨ ownerAway s p.num r = true → Ends (.loadRecord part r) s fun u => SameMemory s u ∧ KeepsRegs s u ∧
      u.fabOut = s.fabOut ∧ ∃ w, u.deferred = s.deferred ++ [w] ∧ w.record = r ∧ w.tag = none) ∧
    (∀ dst q, r.kind = .load → due → recorded s r = none → ownerRequest s p.num r = some (dst, q) →
      Ends (.loadRecord part r) s fun u => SameMemory s u ∧ KeepsRegs s u ∧
        ∃ tag, (p.num, .access dst { q with tag }) ∈ u.fabOut ∧ ∃ w ∈ u.deferred, w.record = r ∧ w.tag = some tag) ∧
    (r.kind = .atomic → here → targetSpot s p.num r r.offset (fmtWidth r.f / 8) .write = (t, .ok (pt, sp)) → r.op < 8 → good →
      checkTarget t pt party .rmw sp = (t2, .ok ()) →
      (r.ret = true → Ends (.atomicRecord part r) s fun u =>
        stored u (new (fmtWidth r.f / 8)) ∧ answers u .atomicReply 0 old ∧
        ∃ met, (r.src, r.tag, word (leNat old), met) ∈ u.atomLog) ∧
      (r.ret = false → expand r.pattern p r.src p.coord r.j = ([], true) → Ends (.atomicRecord part r) s fun u =>
        stored u (new (fmtWidth r.f / 8)))) ∧
    (∀ v met, r.kind = .atomic → due → r.ret = true → s.atomLog.find? (fun x => x.1 == r.src && x.2.1 == r.tag) = some (r.src, r.tag, v, met) →
      Ends (.atomicRecord part r) s fun u => SameMemory s u ∧ answers u .atomicReply 0 (leBytes 8 v.toNat)) ∧
    (∀ xs : List Contribution, targetSpot s p.num r r.offset (fmtWidth r.f / 8) .write = (t, .ok (pt, sp)) →
      checkContributions t p pt sp xs = (t2, .ok ()) → stored (applyReduction s p ⟨p.num, 0, r, 0, xs, none⟩).1
        (leBytes (fmtWidth r.f / 8) (foldReduction r.op r.f (leNat old) (xs.map (·.value))))) ∧
    (∀ l, good → behind s p.num r = false → s.deferred = [] → targetLaunch s p r = some l →
      let k := derivedCount r.pattern p p.coord
      let key := tagKey r.tag
      let x := (s.reds.find? (sameReduction p.num l.num r)).getD ⟨p.num, l.num, r, k, [], none⟩
      let c := { src := r.src, origin := r.origin, key := key, gen := (noteRcv s p.num r.src key 0 0 1).2, tag := r.tag, value := leNat r.data : Contribution }
      let rest := s.reds.filter fun y => !sameReduction p.num l.num r y
      (s.reds.find? (sameReduction p.num l.num r) ≠ none ∨
        (s.reds.filter fun y => y.part == p.num && y.launch == l.num).length < 256) →
      (x.data.length + 1 < x.expected → Ends (.reduceContribution part r) s fun u => SameMemory s u ∧
        KeepsRegs s u ∧ u.reds = rest ++ [{ x with data := x.data ++ [c] }]) ∧
      (x.expected ≤ x.data.length + 1 → ∀ w errs,
        applyReduction { (noteRcv s p.num r.src key 0 0 1).1 with reds := rest } p { x with data := x.data ++ [c] } = (w, errs) →
        Ends (.reduceContribution part r) s fun u => (∀ q, u.byteAt q = w.byteAt q) ∧ u.reds = w.reds)) ∧
    (r.src = p.coord → Ends (.acknowledgement part r) s fun u => SameMemory s u ∧ KeepsRegs s u ∧ ∀ y, y ∈ u.txs ↔
      (y ∈ s.txs ∧ y.tag ≠ r.tag) ∨ ∃ x ∈ s.txs, x.tag = r.tag ∧ x.got + r.count < x.need ∧ y = { x with got := x.got + r.count }) ∧
    (∀ x, r.src ≠ p.coord → s.ackSums.find? (fun y => y.src == r.src && y.tag == r.tag) = some x →
      Ends (.acknowledgement part r) s fun u => SameMemory s u ∧ KeepsRegs s u ∧
        (x.got + r.count < x.need → u.fabOut = s.fabOut ∧ { x with got := x.got + r.count } ∈ u.ackSums) ∧
        (x.need ≤ x.got + r.count → (∃ y, (p.num, .access x.back y) ∈ u.fabOut ∧ y.kind = .ack ∧ y.tag = r.tag ∧ y.src = r.src ∧
            y.count = x.need) ∧ ∀ y ∈ u.ackSums, ¬ (y.src = r.src ∧ y.tag = r.tag))) ∧
    (∀ x, s.txs.find? (fun y => y.tag == r.tag) = some x →
      let taken := fun (i : Instr) => Ends i s fun u => SameMemory s u ∧ KeepsRegs s u ∧
        (good → r.poison ≠ 8 → (∀ w ∈ s.deferred, w.tag ≠ some r.tag) → (∀ y ∈ u.txs, y.tag ≠ r.tag) ∧ ∀ q b, s.braid? x.uid q = some b →
          ∃ c, u.braid? x.uid q = some c ∧ c.pendX = b.pendX.map fun y =>
            if y.tag = r.tag then
              { y with reply := some (word (leNat (r.data.take 8)), r.poison), rels := landedRels s p.num r } else y) ∧
        (good → r.poison ≠ 8 → ∀ w, s.deferred.find? (fun w => w.tag == some r.tag) = some w → w.record.ret = true →
          w.record.src ≠ p.coord → ∃ y, (p.num, .access w.record.src y) ∈ u.fabOut ∧ y.tag = w.record.tag ∧ y.data = r.data ∧
            y.poison = r.poison) ∧
        (¬ good ∨ r.poison = 8 → u.txs = s.txs ∧ (p.num, .access x.dst x.record) ∈ u.fabOut)
      taken (.loadReply part r) ∧ taken (.atomicReply part r)) ∧
    (r.src ≠ p.coord → expand r.pattern p r.src p.coord r.j = ([], true) →
      let mine := fun (b : RcvBatch) => b.part = p.num ∧ b.src = r.src ∧ b.key = tagKey r.tag ∧ b.close = none
      let closes := fun (u : State) (count : Nat) (errs : BitVec 7) => ∃ x, (p.num, .access r.src x) ∈ u.fabOut ∧
        x.kind = .closeReply ∧ x.tag = r.tag ∧ x.count = count ∧ x.errs = errs
      Ends (.batchClose part r) s fun u => SameMemory s u ∧ KeepsRegs s u ∧
        ((∀ b ∈ s.rcv, ¬ mine b) → closes u 0 0) ∧
        ∀ b ∈ s.rcv, mine b → (b.open_ = 0 → closes u b.count b.errs) ∧
          (b.open_ ≠ 0 → { b with close := some r } ∈ u.rcv)) ∧
    (∀ (w : Team) (k : Nat) (b : Batch) (c : Closing), s.team? w.uid = some w → w.batches[k]? = some b → b.closing = some c → c.tag = r.tag →
      (∀ x ∈ b.replies, x.src ≠ r.src) → Ends (.closeReply part r) s fun u => SameMemory s u ∧ KeepsRegs s u ∧
        u.teamHas w.uid fun v => ∃ d : Batch, v.batches[k]? = some d ∧ d.closing = some c ∧
          d.replies = b.replies ++ [{ src := r.src, count := r.count, errs := r.errs }])) ∧
  (∀ (s : State) (part : Nat) (r : FabRecord) (p : Partition), s.part? part = some p →
    r.job ≠ p.reg 0x0202 0 ∨ 12 ≤ kindCode r.kind →
    let refused := fun (i : Instr) (kind : RecKind) (poison : Nat) => Ends i s fun u => SameMemory s u ∧ KeepsRegs s u ∧
      ∃ x, (p.num, .access r.src x) ∈ u.fabOut ∧ x.kind = kind ∧ x.tag = r.tag ∧ x.poison = poison
    (r.kind = .load → refused (.loadRecord part r) .loadReply 6) ∧
    (r.ret = true → r.kind ≠ .load → refused (.storeRecord part r) .atomicReply 6 ∧ refused (.atomicRecord part r) .atomicReply 6) ∧
    (r.src ≠ p.coord → refused (.batchClose part r) .closeReply 0) ∧
    (r.ret = false → exec (.storeRecord part r) s = .next s ∧ exec (.atomicRecord part r) s = .next s) ∧
    exec (.loadReply part r) s = .next s ∧ exec (.atomicReply part r) s = .next s ∧
    exec (.reduceContribution part r) s = .next s ∧ exec (.acknowledgement part r) s = .next s ∧
    exec (.closeReply part r) s = .next s)

/-- R368, R369, R371, R374-R376: a flit that does not open is refused and asked for again; a buffered flit out of its
turn and an unbuffered one that is not newer change nothing; the next data or control flit is handed to its node, or
to the relay store, or discarded on its second hop; a marker moves the receiver to its slot; a slot-state flit sets
the count of returns; a retry request has the buffered flits from its number on sent again; a dwell begins with a
slot-state flit and sends what waits; a link goes down and comes up; and keys go into idle slots and are asked for.
The model's choice where the spec leaves it open: log entries 71, 72. -/
def Obligations.LinkFlits : Prop :=
  (∀ (s : State) (k : Nat) (l : Link) (f : Flit), s.link? k = some l → l.up = true →
    let after := fun (i : Instr) (Q : State → Link → Prop) => Ends i s fun r => SameMemory s r ∧ KeepsRegs s r ∧
      ∃ m, r.link? k = some m ∧ m.up = true ∧ Q r m
    let buffered_ := fun (i : Instr) =>
      (opens s l f = false → l.rx.refusing = false → after i fun r m => m.rx.refusing = true ∧ m.rx.expect = l.rx.expect ∧
        (maySeal s l = true → ∃ x, (k, x) ∈ r.linkOut ∧ x.type = 5 ∧ x.want = l.rx.expect) ∧
        (maySeal s l = false → r.linkOut = s.linkOut)) ∧
      (opens s l f = false → l.rx.refusing = true → after i fun r m => m = l ∧ r.linkOut = s.linkOut) ∧
      (opens s l f = true → f.seq ≠ l.rx.expect → exec i s = .next s)
    let carries := fun (i : Instr) => buffered_ i ∧ (opens s l f = true → f.seq = l.rx.expect → ∀ p, linkPart s k = some p → s.part? p.num = some p →
      let took := fun (m : Link) (n : Nat) => m.rx.expect = (l.rx.expect + 1) % 65536 ∧ m.rx.refusing = false ∧ m.rx.freed = l.rx.freed + n
      (f.dst = p.coord → after i fun r m => took m 1 ∧ r.inputs = s.inputs ++ f.load.flatMap (outEvents · p) ∧ r.relay = s.relay) ∧
      (f.dst ≠ p.coord → f.hop = true → after i fun r m => took m 1 ∧ r.inputs = s.inputs ∧ r.relay = s.relay ∧
        r.partHas p.num fun q => q.reg 0x0204 0 = (p.reg 0x0204 0 + 1) % 2 ^ 64) ∧
      (f.dst ≠ p.coord → f.hop = false → relayRoom s p = true → after i fun r m => took m 1 ∧
        r.inputs = s.inputs ∧ r.relay = s.relay ++ [{ link := k, stalled := false, flit := f }]) ∧
      (f.dst ≠ p.coord → f.hop = false → relayRoom s p = false → after i fun r m => took m 0 ∧
        r.inputs = s.inputs ∧ r.relay = s.relay ++ [{ link := k, stalled := true, flit := f }]))
    let stale := (if f.ks then l.rx.last1 else l.rx.last0).any (f.ctr ≤ ·)
    (f.type = 0 → carries (.dataFlit k f)) ∧ (f.type = 2 → carries (.controlFlit k f)) ∧
    (6 ≤ f.type → l.rx.refusing = false → after (.dataFlit k f) fun _ m => m.rx.refusing = true) ∧
    (f.type = 1 → buffered_ (.markerFlit k f) ∧ (opens s l f = true → f.seq = l.rx.expect → f.slot ≠ l.rx.slot →
      after (.markerFlit k f) fun _ m => m.rx.slot = f.slot ∧ m.rx.expect = (l.rx.expect + 1) % 65536 ∧
        m.rx.freed = l.rx.freed + 1 ∧ (if f.slot then m.rx.key0 = none ∧ m.rx.key1 = l.rx.key1
          else m.rx.key1 = none ∧ m.rx.key0 = l.rx.key0))) ∧
    (opens s l f = true → stale = true →
      (f.type = 3 → exec (.idleFlit k f) s = .next s) ∧ (f.type = 4 → exec (.slotStateFlit k f) s = .next s) ∧
      (f.type = 5 → exec (.retryRequestFlit k f) s = .next s)) ∧
    (opens s l f = true → stale = false →
      let newest := fun (m : Link) => (if f.ks then m.rx.last1 else m.rx.last0) = some f.ctr ∧ m.rx.expect = l.rx.expect
      let kept := l.tx.retry.drop (l.tx.retry.length - { l.tx with returned := (l.tx.returned + f.ret) % 2 ^ 32 }.held)
      let again := kept.filter fun x => (x.seq + 65536 - f.want) % 65536 < 0x8000
      (f.type = 3 → after (.idleFlit k f) fun r m => newest m ∧ m.tx.returned = (l.tx.returned + f.ret) % 2 ^ 32 ∧
        m.tx.retry = kept ∧ r.linkOut = s.linkOut) ∧
      (f.type = 4 → after (.slotStateFlit k f) fun r m => newest m ∧ m.tx.returned = f.freed ∧ m.rx.mark = f.mark ∧
        r.linkOut = s.linkOut) ∧
      (f.type = 5 → mayGo s l = false → after (.retryRequestFlit k f) fun r m => newest m ∧ m.tx.resend = again ∧
        m.tx.retry = kept ∧ r.linkOut = s.linkOut) ∧
      (f.type = 5 → mayGo s l = true → after (.retryRequestFlit k f) fun r _ => ∀ x, again.head? = some x →
        (k, x) ∈ r.linkOut))) ∧
  (∀ (s : State) (time : Nat),
    (time / 2000 ≠ s.time / 2000 → exec (.dwellStart time) s = .next s) ∧
    (time / 2000 = s.time / 2000 → Ends (.dwellStart time) s fun r => SameMemory s r ∧ KeepsRegs s r ∧
      (∀ l, s.link? l.num = some l → l ∈ s.links → l.num % 32 = time / 2000 % 32 → s.time % 2000 < 1900 → l.up = true →
        l.tx.key.isSome = true → l.tx.ctr + 1 < lastCtr → ∃ x, (l.num, x) ∈ r.linkOut ∧ x.type = 4) ∧
      (∀ l n o p, s.links = [l] → l.num % 32 = time / 2000 % 32 → s.time % 2000 < 1900 → l.up = true →
        l.tx.key.isSome = true → l.tx.next = none → l.tx.resend = [] → l.tx.ctr + 4 < lastCtr → l.tx.held < 128 →
        s.relay = [] → s.fabOut = [(n, o)] → linkPart s l.num = some p → p.num = n →
        routeOf s n (outDst o) false = some l.num →
        r.fabOut = [] ∧ ∃ x, (l.num, x) ∈ r.linkOut ∧ x.load = [o] ∧ x.dst = outDst o ∧ x.hop = false ∧
          x.tag = sealTag x (l.tx.key.getD 0) (txLinkId s l.num)))) ∧
  (∀ (s : State) (k : Nat) (l : Link), s.link? k = some l →
    let after := fun (i : Instr) (Q : State → Link → Prop) => Ends i s fun r => SameMemory s r ∧ KeepsRegs s r ∧
      ∃ m, r.link? k = some m ∧ Q r m
    let last := mayGo s l = true ∧ l.tx.ctr = lastCtr ∧ 0 < l.tx.credit
    (l.up = true → lastCtr ≤ l.tx.ctr → l.tx.next = none →
      (last → after (.linkDown k) fun r m => m.up = false ∧
        .linkDown k ∈ r.gazebo ∧ ∃ x, (k, x) ∈ r.linkOut ∧ x.type = 1 ∧ x.slot = l.tx.slot ∧ x.ctr = l.tx.ctr) ∧
      (¬ last → exec (.linkDown k) s = .next s)) ∧
    (l.up = true → l.tx.ctr < lastCtr → 4 ≤ l.rx.emptyDwells → after (.linkDown k) fun r m => m = { l with up := false } ∧
      .linkDown k ∈ r.gazebo) ∧
    (l.tx.ctr < lastCtr → l.rx.emptyDwells < 4 → exec (.linkDown k) s = .next s) ∧
    (l.up = false → (l.tx.ctr < lastCtr ∨ (l.tx.ctr = lastCtr ∧ l.tx.next ≠ none)) → after (.linkUp k) fun _ m =>
      m.up = true ∧ m.tx = l.tx ∧ m.rx.emptyDwells = 0) ∧
    (2 ^ 48 - 2 ^ 20 ≤ l.tx.ctr → l.tx.next = none → l.tx.asked = false → after (.keyRequest k) fun r m =>
      m.tx.asked = true ∧ .keyWanted k ∈ r.gazebo) ∧
    (l.tx.ctr < 2 ^ 48 - 2 ^ 20 → exec (.keyRequest k) s = .next s) ∧
    (∀ key, rootRuns s = true → k < 4096 → l.tx.key ≠ none → l.tx.next = none → l.tx.old = false →
      after (.keyInstall k key) fun _ m => m.tx.next = some key ∧ m.tx.key = l.tx.key ∧ m.tx.slot = l.tx.slot)) ∧
  (∀ (s : State) (k : Nat) (key : BitVec 256),
    (rootRuns s = false → exec (.keyInstall k key) s = .next s) ∧
    (rootRuns s = true → s.link? k = none → k < 4096 → Ends (.keyInstall k key) s fun r =>
      SameMemory s r ∧ KeepsRegs s r ∧ ∃ m, r.link? k = some m ∧ m.up = true ∧ m.tx.key = some key ∧
        m.rx.key0 = some key ∧ m.tx.ctr = 0))

/-! Engines -/

/-- R64, R231, R232, R258, R264, R274, R278: a command that passes its checks takes the lowest free tracker with the
values of the scalars it names, writes no register and no byte at its issue, and waits while every tracker is busy;
one of no elements ends at once; a check that fails is its trap; and an MMA whose tile, slots and shape are right
passes them.
The model's choice where the spec leaves it open: log entries 41, 42, 84, 111, 112. -/
def Obligations.EngineCommands : Prop :=
  (∀ (f : Fields),
    let run := fun (i : Instr) => ∀ n s e (t t' : State) (c : Command), Performs i n s e →
      (CommandReady e t t' c →
        (∀ k, 0 < c.count → e.t.lowestFree k → ∃ r, exec i s = .next r ∧ SameMemory s r ∧ KeepsRegs s r ∧
          r.teamHas e.t.uid fun u => u.issued = e.t.issued + 1 ∧
            (∀ j, j ≠ k → u.trackers[j]? = e.t.trackers[j]?) ∧
            (∀ j, u.tileTags.getD j 0 = if writesTile i = true ∧ cmdTile i = some j ∧ j < e.t.tileTags.length then 10
              else e.t.tileTags.getD j 0) ∧
            ∃ x, u.trackers[k]? = some (some x) ∧ x.inst = i ∧ x.count = cmdCount i (e.b.vals i) ∧ x.bitmap = 0 ∧
              x.order = e.t.issued ∧ x.rank = e.rank ∧ x.pc = e.pc ∧ x.nmode = e.b.nmode ∧ x.fault = none ∧
              x.valA = (e.b.vals i).a ∧ x.valB = (e.b.vals i).b ∧ x.valC = (e.b.vals i).c ∧ x.valD = (e.b.vals i).d) ∧
        (c.count = 0 → Does i s e t ∧ SameMemory s t ∧ KeepsRegs s t ∧ t.team? e.t.uid = s.team? e.t.uid) ∧
        (0 < c.count → (∀ o ∈ e.t.trackers, o ≠ none) → Waits i s e .plain)) ∧
      (∀ x, planCommand s e.t i (e.b.vals i) e.act e.rank e.pc e.b.nmode = (t, .trap x) →
        exec i s = .next (finish e (.trapAt t x)))
    run (.cpy f) ∧ run (.gath f) ∧ run (.scat f) ∧ run (.mma f) ∧ run (.gmma f) ∧ run (.accwr f) ∧ run (.accst f) ∧
      run (.hadt f) ∧ run (.qtile f)) ∧
  (∀ (f : Fields) n s e, Performs (.mma f) n s e →
    let v := (e.b.vals (.mma f)).c.toNat
    let k := v / 2 ^ 16
    let row := fun (code : Nat) => if f.f = 15 then 10 * (128 / 2 ^ code) / 8 else 8 * (128 / 2 ^ code) / fmtWidth f.f
    f.e.getLsbD 10 = false → f.e.getLsbD 21 = false →
    f.d.toNat < e.t.tiles.length → (∃ x ∈ e.t.slots, x.1 = f.a.toNat) → (∃ x ∈ e.t.slots, x.1 = f.b.toNat) →
    v < 2 ^ 32 → 1 ≤ v % 256 → v % 256 ≤ 64 → 1 ≤ v / 256 % 256 → v / 256 % 256 ≤ 64 → 1 ≤ k →
    k ≤ row (f.x.toNat / 4 % 4) → k ≤ row (f.x.toNat / 16 % 4) →
    (f.x.getLsbD 0 = true ∨ e.t.tileTags.getD f.d.toNat 0 = 10) →
    ∃ c, planCommand s e.t (.mma f) (e.b.vals (.mma f)) e.act e.rank e.pc e.b.nmode = (s, .ok c none) ∧
      c.count = (k + 31) / 32) ∧
  (∀ (f : Fields), let n := fun (v : Vals) => v.b.toNat
    ∀ v : Vals, n v ≤ 2 ^ 32 → n v ≠ 0 →
      let c := cmdCount (.cpy f) v
      elemSize (n v) % 4096 = 0 ∧ (c - 1) * elemSize (n v) < n v ∧ n v ≤ c * elemSize (n v) ∧ 1 ≤ c ∧ c ≤ 64)

/-- R240-R243: DGN holds a node whose count is above zero, or faults where an entry that the node names cannot be read, and NODE_START starts a held node that is ready in the lowest
free tracker; DGL names its successor in the first empty field of a node that has not ended, and takes one from the
count of the successor of one that has.
The model's choice where the spec leaves it open: log entries 45, 111, 114. -/
def Obligations.DependenceGraph : Prop :=
  (∀ (f : Fields) n s e (off : Nat) (i : Instr) (t t1 t2 : State) (c : Command),
    Performs (.dgn f) n s e → s.memoryOk →
    (e.b.sreg f.a.toNat).toInt + f.e.toInt = off → off % 64 = 0 → off + 64 ≤ e.t.scrGran * 4096 →
    nodeFree e.t off = true → nodeInstr (nodeBits e.t off 127 0) = some i →
    (∀ d, planCommand s e.t i (nodeVals e.t off i) e.act e.rank e.pc e.b.nmode = (t, .ok c (some d)) →
      exec (.dgn f) s = .next (finish e (.fault t { d with lanes := e.act }))) ∧
    (planCommand s e.t i (nodeVals e.t off i) e.act e.rank e.pc e.b.nmode = (t, .ok c none) →
    issueTurn t e.t c e.act = none →
    testGranules e.accessor .rmw
      { place := .scratch e.t.uid off, addr := off, h := scratchHandle e.t, hIdx := 0, group := 0, n := 64 }
      .scratch e.t.uid off (granules off 64) t = (t1, .ok ()) →
    testNames t1 e.t e.accessor (granuleUses i) = .ok t2 →
    let count := if f.l.getLsbD 31 then f.l.toNat % 2 ^ 16 else nodeBits e.t off 415 384
    0 < count → ∃ r, exec (.dgn f) s = .next r ∧ KeepsRegs s r ∧
      (∀ a, r.mem.get a = s.mem.get a) ∧ (∀ a, r.chip.get a = s.chip.get a) ∧ r.teamHas e.t.uid fun u =>
        nodeBits u off 415 384 = count ∧ nodeBits u off 418 416 = 1 ∧
        nodeBits u off 383 0 = nodeBits e.t off 383 0 ∧ nodeBits u off 511 419 = nodeBits e.t off 511 419 ∧
        (∀ a, a < off ∨ off + 64 ≤ a → u.scratch.get a = e.t.scratch.get a) ∧ u.trackers = e.t.trackers ∧
        ∃ x ∈ u.nodes, x.off = off ∧ x.ready = false ∧ x.rank = e.rank)) ∧
  (∀ (f : Fields) n s e (src dst k : Nat) (t : State), Performs (.dgl f) n s e → s.memoryOk →
    (e.b.sreg f.a.toNat).toInt + 64 * (f.e.extractLsb' 0 16).toInt = src →
    (e.b.sreg f.b.toNat).toInt + 64 * (f.e.extractLsb' 16 16).toInt = dst → src ≠ dst →
    src % 64 = 0 → dst % 64 = 0 → src + 64 ≤ e.t.scrGran * 4096 → dst + 64 ≤ e.t.scrGran * 4096 →
    let lo := fun (j : Nat) => 448 + 16 * j
    k < 4 → nodeBits e.t src (lo k + 15) (lo k) = 0 → (∀ j, j < k → nodeBits e.t src (lo j + 15) (lo j) ≠ 0) →
    nodeBits e.t dst 418 416 < 2 ∨ 4 < nodeBits e.t dst 418 416 →
    touchNodes e s [src, dst] (fun s => .go s) = .go t →
    (nodeBits e.t src 418 416 ≤ 2 → dst / 64 + 1 < 65536 → ∃ r, exec (.dgl f) s = .next r ∧ KeepsRegs s r ∧
      (∀ a, r.mem.get a = s.mem.get a) ∧ (∀ a, r.chip.get a = s.chip.get a) ∧ r.teamHas e.t.uid fun u =>
        nodeBits u src (lo k + 15) (lo k) = dst / 64 + 1 ∧
        (∀ a, a < src ∨ src + 64 ≤ a → u.scratch.get a = e.t.scratch.get a) ∧ u.nodes = e.t.nodes) ∧
    (nodeBits e.t src 418 416 = 3 → 0 < nodeBits e.t dst 415 384 → ∃ r, exec (.dgl f) s = .next r ∧ KeepsRegs s r ∧
      (∀ a, r.mem.get a = s.mem.get a) ∧ (∀ a, r.chip.get a = s.chip.get a) ∧ r.teamHas e.t.uid fun u =>
        nodeBits u dst 415 384 + 1 = nodeBits e.t dst 415 384 ∧
        (∀ a, a < dst ∨ dst + 64 ≤ a → u.scratch.get a = e.t.scratch.get a) ∧
        (nodeBits e.t dst 415 384 = 1 → nodeBits e.t dst 418 416 = 1 → ∀ x ∈ u.nodes, x.off = dst → x.ready = true))) ∧
  (∀ (s : State) (uid off k : Nat) (t : Team) (h : HeldNode) (i : Instr) (b : Braid) (u : State) (c : Command) (late : Option Draft),
    s.memoryOk → s.team? uid = some t → t.engineRuns = true → t.debugStopping = false →
    t.nodes.find? (fun x => x.off == off) = some h → h.ready = true → t.lowestFree k → t.braids[h.rank]? = some b →
    nodeInstr (nodeBits t off 127 0) = some i →
    planCommand s t i (nodeVals t off i) 0 h.rank h.pc b.nmode = (u, .ok c late) → 0 < c.count →
    off + 64 ≤ t.scrGran * 4096 → k < 8 →
    Ends (.nodeStart uid off) s fun r => KeepsRegs s r ∧ r.teamHas uid fun v =>
      (∃ x, v.trackers[k]? = some (some x) ∧ x.inst = i ∧ x.node = some off ∧ x.bitmap = 0) ∧
      (∀ j, j ≠ k → v.trackers[j]? = t.trackers[j]?) ∧
      nodeBits v off 418 416 = 2 ∧ nodeBits v off 426 424 = k ∧ (∀ x ∈ v.nodes, x.off ≠ off) ∧
      ∀ a, a < off ∨ off + 64 ≤ a → v.scratch.get a = t.scratch.get a)

/-- R233-R236, R265-R267, R270-R274: a step of a command performs one element: it sets the element's bit in the
tracker's bitmap, or frees the tracker once every bit is set. An element of the copy engine moves the bytes read to
where they go; an MMA step adds one group of products to every element of the tile; an element of GMMA lands in its rows
of the gather slot, and the array adds the landed groups in ascending order, one a step; and a row step loads, stores,
rotates or quantises one row, a quantised one with the scales that its groups derive, each element rounded once from its
scaled value. A credit is checked as an access and then arrives at its phase object, or breaks it.
The model's choice where the spec leaves it open: log entries 43, 96, 97. -/
def Obligations.EngineSteps : Prop :=
  (∀ (s : State) (uid trk elem : Nat) (t : Team) (c : Command) (s1 s2 s3 : State) (t1 : Team) (c1 : Command)
      (xs : List Nat) (bs : List Byte), s.team? uid = some t → t.uid = uid → t.trackers.getD trk none = some c →
    c.full = false → isCopy c.inst = true → t.canStep trk elem = some c → t.status = .running → c.node = none →
    credits c.inst = false → (∀ f, c.inst ≠ .gmma f) → c.count ≤ 64 → (∀ p ∈ t.pendE, p.trk = trk → p.elem = elem) →
    beginCommand s uid trk = (s1, some (t1, c1)) →
    readIndexes t1 trk elem c1 (isIndexed c1.inst) c1.inst.fields.l.toNat (elemRows c1 elem) s1 = (s2, .done xs) →
    moveElement s2 t1 trk elem c1 (elemTraffic t1 c1 elem xs).from_ (elemTraffic t1 c1 elem xs).to_ id = (s3, .done bs) →
    (elemTraffic t1 c1 elem xs).slot = none →
    Ends (.engineElementLands uid trk elem) s fun r => (∀ p, r.byteAt p = s3.byteAt p) ∧ r.teamHas uid fun u =>
      ((∀ k, k < c.count → k = elem ∨ c.bitmap.getLsbD k = true) → u.trackers.getD trk none = none) ∧
      ((∃ k, k < c.count ∧ k ≠ elem ∧ c.bitmap.getLsbD k = false) → ∃ x, u.trackers.getD trk none = some x ∧
        x.inst = c.inst ∧ ∀ k, k < 64 → x.bitmap.getLsbD k = (c.bitmap.getLsbD k || k == elem))) ∧
  (∀ (s : State) (t : Team) (trk elem : Nat) (c : Command) (g k : Seg) (s1 s2 s3 : State) (a b : Spot) (bs : List Byte),
    s.memoryOk → s.soft = [] → t.replay = none → s.team? t.uid = some t → elemPend t trk elem = [] →
    checkPieces t (cmdAccessor s t trk elem c) .load (pieces [g]) s = (s1, .ok [a]) →
    checkPieces t (cmdAccessor s t trk elem c) .store (pieces [k]) s1 = (s2, .ok [b]) → a.n = b.n → a.cached = false →
    farSpots [a, b] = [] → 2 ≤ g.h.space → 2 ≤ k.h.space →
    moveElement s t trk elem c [g] [k] id = (s3, .done bs) →
    bs.length = a.n ∧ (∀ j, j < a.n → s.byteAt (a.byte j) = some (bs.getD j 0) ∧ s3.byteAt (b.byte j) = some (bs.getD j 0)) ∧
      ∀ p, (∀ j, j < b.n → b.byte j ≠ p) → s3.byteAt p = s.byteAt p) ∧
  (∀ (s : State) (t : Team) (trk elem bytes : Nat) (c : Command) (final : Bool) (sp : Spot), credits c.inst = true →
    c.stale = false → t.replay = none → (∀ d r a, sp.place ≠ .peer d r a) →
    phaseSpot s t c.entP (ePhh c.inst.fields) (Int.ofNat (c.valC.toNat % 2 ^ 48)) = .ok sp →
    (∀ v d, checkSyncs t (cmdAccessor s t trk elem c) [sp] s = (v, .error d) →
      creditPhase s t trk elem c bytes final = ({ v with shadow := s.shadow }, .error d)) ∧
    ∀ v, checkSyncs t (cmdAccessor s t trk elem c) [sp] s = (v, .ok ()) →
      (∀ u, arrivePhase v sp (c.valC.toNat / 2 ^ 48) 0 (Int.ofNat bytes) (creditRels v t c elem sp.h) = .ok u →
        creditPhase s t trk elem c bytes final = (u, .ok ())) ∧
      (∀ d, arrivePhase v sp (c.valC.toNat / 2 ^ 48) 0 (Int.ofNat bytes) (creditRels v t c elem sp.h) = .error d →
        creditPhase s t trk elem c bytes final = (breakPhase v sp, .ok ()))) ∧
  (∀ (s : State) (uid trk j : Nat) (f : Fields) (t : Team) (c : Command) (m : Mult), s.memoryOk → s.team? uid = some t →
    t.trackers.getD trk none = some c → c.inst = .mma f → multOf c = some m → t.status = .running → c.node = none →
    t.canStep trk j = some c → (∀ k, k < j → c.bitmap.getLsbD k = true) → j < 64 → m.tile < t.tiles.length →
    m.m ≤ 64 → m.n ≤ 64 →
    Ends (.mmaStep uid trk) s fun r => SameMemory s r ∧ KeepsRegs s r ∧ r.teamHas uid fun u =>
      ((∃ x, u.trackers.getD trk none = some x ∧ ∀ k, k < 64 → x.bitmap.getLsbD k = (c.bitmap.getLsbD k || k == j)) ∨
        u.trackers.getD trk none = none) ∧
      ∀ q i n, i < 64 → n < 64 → u.tileElem q i n =
        if q = m.tile ∧ i < m.m ∧ n < m.n then
          roundF32 ((valueF32 (if m.z = true ∧ j = 0 then 0 else t.tileElem q i n)).add
            (valueF32 (groupValue m.fmt ((groupRow t m.fmt m.a m.pa i m.k j).zip (groupRow t m.fmt m.b m.pb n m.k j))
              (scaleAt t m.sa i j) (scaleAt t m.sb n j))) false) % 2 ^ 32
        else t.tileElem q i n) ∧
  (∀ (s : State) (uid trk row : Nat) (t : Team) (c : Command) (s1 : State) (t1 : Team) (c1 : Command), s.memoryOk →
    s.team? uid = some t → t.uid = uid → t.trackers.getD trk none = some c → isRows c.inst = true → c.full = false →
    t.canStep trk row = some c → t.status = .running → c.node = none → credits c.inst = false →
    beginCommand s uid trk = (s1, some (t1, c1)) → row < 64 →
    (∀ f, c.inst = .hadt f → f.d.toNat < t.tiles.length →
      Ends (.matrixRowStep uid trk row) s fun r => SameMemory s r ∧ KeepsRegs s r ∧ r.teamHas uid fun u =>
        let base := if f.len = 0 then c.valA.toNat else f.e.toNat
        let y := hadamard (f.x.getLsbD 0) c1.seed.toNat ((base + row) % 2 ^ 64)
          ((List.range 64).map fun n => t.tileElem f.d.toNat row n)
        ∀ q i n, i < 64 → n < 64 → u.tileElem q i n =
          if q = f.d.toNat ∧ i = row then y.getD n 0 % 2 ^ 32 else t.tileElem q i n) ∧
    (∀ f s2 bs, c.inst = .accwr f → f.d.toNat < t.tiles.length → bitsOf c.valB.toNat 15 8 ≤ 64 →
      moveElement s1 t1 trk row c1 [rowSeg c1 row] [] (fun _ => []) = (s2, .done bs) →
      Ends (.matrixRowStep uid trk row) s fun r => KeepsRegs s r ∧ r.teamHas uid fun u =>
        ∀ q i n, i < 64 → n < 64 → u.tileElem q i n =
          if q = f.d.toNat ∧ i = row ∧ n < bitsOf c.valB.toNat 15 8 then
            roundF32 (elemValue f.f (rowElem f.f bs n)) % 2 ^ 32 else t.tileElem q i n) ∧
    (∀ f s2 bs, c.inst = .accst f →
      moveElement s1 t1 trk row c1 [] [rowSeg c1 row] (fun _ => storeRow s1 t1 c1 f row) = (s2, .done bs) →
      Ends (.matrixRowStep uid trk row) s fun r => KeepsRegs s r ∧ (∀ p, r.byteAt p = s2.byteAt p) ∧
        r.teamHas uid fun u => u.tiles = t.tiles) ∧
    (∀ f, c.inst = .qtile f → f.f = 1 ∨ 11 ≤ f.f.toNat → qshapeOk f c.valB = true → t.hasSlot f.d.toNat = true →
      (∀ k q, scaleHalf f.e.toNat = some (k, q) → t.hasSlot k = true ∧ k ≠ f.d.toNat) →
      Ends (.matrixRowStep uid trk row) s fun r => SameMemory s r ∧ KeepsRegs s r ∧ r.teamHas uid fun u =>
        let trans := f.x.getLsbD 0
        let len := if trans then bitsOf c.valB.toNat 7 0 else bitsOf c.valB.toNat 15 8
        let cell := fun (k : Nat) => if trans then (k, row) else (row, k)
        let old := fun (k : Nat) => t.tileElem f.a.toNat (cell k).1 (cell k).2
        let scale := fun (j : Nat) => if f.x.getLsbD 1 then 0x7F
          else deriveScale f.f ((List.range (min (32 * j + 32) len - 32 * j)).map fun q => valueF32 (old (32 * j + q)))
        let pitch := 128 / 2 ^ bitsOf c.valB.toNat 17 16
        u.tiles = t.tiles ∧
        (∀ k, k < len → rowElem f.f ((u.slotMem f.d.toNat).read (row * pitch) pitch) k =
          convTile s t c.rank c.pc c.nmode f.f (some (scale (k / 32))) (cell k).1 (cell k).2 (old k) % 2 ^ fmtWidth f.f) ∧
        (∀ a, a < row * pitch ∨ row * pitch + pitch ≤ a → (u.slotMem f.d.toNat).get a = (t.slotMem f.d.toNat).get a) ∧
        (∀ k q, scaleHalf f.e.toNat = some (k, q) →
          (∀ j, j < (len + 31) / 32 → ((u.slotMem k).get (512 * q + 8 * row + j)).toNat = scale j % 256) ∧
          ∀ a, a < 512 * q + 8 * row ∨ 512 * q + 8 * row + (len + 31) / 32 ≤ a → (u.slotMem k).get a = (t.slotMem k).get a) ∧
        ∀ k, k ≠ f.d.toNat → (∀ q, scaleHalf f.e.toNat ≠ some (k, q)) → u.slotMem k = t.slotMem k)) ∧
  (∀ (s : State) (t : Team) (rank b i n bits : Nat) (pc : Pc) (nmode : Word) (f : Tag), f ≠ 10 → (nmodeRnd nmode f).code ≠ 5 →
    convTile s t rank pc nmode f (some b) i n bits =
      roundTo f ((valueF32 bits).scale (127 - Int.ofNat b)) (nmodeRnd nmode f) 0) ∧
  (∀ (s : State) (uid trk elem : Nat) (f : Fields) (t : Team) (c : Command) (s1 s2 s3 : State) (t1 : Team) (c1 : Command)
      (xs : List Nat) (bs : List Byte), s.team? uid = some t → t.uid = uid → t.trackers.getD trk none = some c →
    c.full = false → c.inst = .gmma f → t.canStep trk elem = some c → t.status = .running → c.count ≤ 64 →
    beginCommand s uid trk = (s1, some (t1, c1)) →
    readIndexes t1 trk elem c1 (isIndexed c1.inst) c1.inst.fields.l.toNat (elemRows c1 elem) s1 = (s2, .done xs) →
    moveElement s2 t1 trk elem c1 (elemTraffic t1 c1 elem xs).from_ (elemTraffic t1 c1 elem xs).to_ id = (s3, .done bs) →
    let w := fmtWidth f.f / 8
    let pitch := 128 / 2 ^ bitsOf f.e.toNat 7 6
    let k := bitsOf c.valC.toNat 31 16
    let g := (min (32 * elem + 32) k - 32 * elem) * w
    k * w ≤ pitch → t.hasSlot (gOg f) = true → bs.length = xs.length * g →
    Ends (.engineElementLands uid trk elem) s fun r => (∀ p, r.byteAt p = s3.byteAt p) ∧ r.teamHas uid fun u =>
      u.tiles = t.tiles ∧
      (∃ x, u.trackers.getD trk none = some x ∧ x.inst = c.inst ∧ x.added = c.added ∧
        ∀ j, j < 64 → x.bitmap.getLsbD j = (c.bitmap.getLsbD j || j == elem)) ∧
      (∀ i, i < xs.length → ∀ j, j < g →
        (u.slotMem (gOg f)).get (i * pitch + 32 * elem * w + j) = bs.getD (i * g + j) 0) ∧
      (∀ a, (∀ i, i < xs.length → a < i * pitch + 32 * elem * w ∨ i * pitch + 32 * elem * w + g ≤ a) →
        (u.slotMem (gOg f)).get a = (t.slotMem (gOg f)).get a) ∧
      ∀ q, q ≠ gOg f → u.slotMem q = t.slotMem q) ∧
  (∀ (s : State) (uid trk : Nat) (f : Fields) (t : Team) (c : Command) (m : Mult), s.memoryOk → s.team? uid = some t →
    t.trackers.getD trk none = some c → c.inst = .gmma f → multOf c = some m → t.status = .running → c.node = none →
    t.engineRuns = true → m.tile < t.tiles.length → m.m ≤ 64 → m.n ≤ 64 →
    (t.inTurn c = true → c.added < c.count → c.bitmap.getLsbD c.added = true →
      Ends (.mmaStep uid trk) s fun r => SameMemory s r ∧ KeepsRegs s r ∧ r.teamHas uid fun u =>
        ((∃ x, u.trackers.getD trk none = some x ∧ x.added = c.added + 1 ∧ x.bitmap = c.bitmap) ∨
          u.trackers.getD trk none = none) ∧
        u.slots = t.slots ∧
        ∀ q i n, i < 64 → n < 64 → u.tileElem q i n =
          if q = m.tile ∧ i < m.m ∧ n < m.n then
            roundF32 ((valueF32 (if m.z = true ∧ c.added = 0 then 0 else t.tileElem q i n)).add
              (valueF32 (groupValue m.fmt
                ((groupRow t m.fmt m.a m.pa i m.k c.added).zip (groupRow t m.fmt m.b m.pb n m.k c.added))
                (scaleAt t m.sa i c.added) (scaleAt t m.sb n c.added))) false) % 2 ^ 32
          else t.tileElem q i n) ∧
    (t.inTurn c = false ∨ c.count ≤ c.added ∨ c.bitmap.getLsbD c.added = false → exec (.mmaStep uid trk) s = .next s))

/-- R260, R261, R264, R268, R269: CLAIM gives its team zeroed slots where the core has them, and answers 1 or waits
where it has not; RELEASE gives them back; both trap on a name out of place; ACCZ clears a tile and tags it F32; and
ACCRD reads elements of a tile, converted, into a scalar; ACCZ and ACCRD wait while a command is on the tile.
The model's choice where the spec leaves it open: log entries 41, 97, 111. -/
def Obligations.TilesAndSlots : Prop :=
  ∀ (f : Fields) n s e,
    let names := (List.range 64).filter fun k => decide (f.a.toNat ≤ k) && decide (k ≤ f.b.toNat)
    (Performs (.claim f) n s e → e.t.replay = none → f.a.toNat ≤ f.b.toNat → f.b.toNat < 64 →
      ((∃ k ∈ names, e.t.hasSlot k = true) →
        TrapsWith (.claim f) s e { cause := 4, opnd := 2, lanes := e.act, value := f.a.toNat }) ∧
      ((∀ k ∈ names, e.t.hasSlot k = false) →
        (slotsUsed s e.t.core + names.length ≤ Config.operandSlots → ∃ r, exec (.claim f) s = .next r ∧ SameMemory s r ∧
          e.OthersKeep r ∧ e.LeavesScalar r f.d 0 ∧ r.teamHas e.t.uid fun u =>
            (∀ k, u.hasSlot k = true ↔ e.t.hasSlot k = true ∨ k ∈ names) ∧ (∀ k ∈ names, u.slotMem k = []) ∧
            (∀ k, k ∉ names → u.slotMem k = e.t.slotMem k)) ∧
        (Config.operandSlots < slotsUsed s e.t.core + names.length → f.x.getLsbD 0 = true → Waits (.claim f) s e .plain) ∧
        (Config.operandSlots < slotsUsed s e.t.core + names.length → f.x.getLsbD 0 = false → ∃ r,
          exec (.claim f) s = .next r ∧ e.LeavesScalar r f.d 1 ∧ r.teamHas e.t.uid fun u => u.slots = e.t.slots))) ∧
    (Performs (.release f) n s e → f.a.toNat ≤ f.b.toNat → f.b.toNat < 64 →
      ((∃ k ∈ names, e.t.hasSlot k = false) →
        TrapsWith (.release f) s e { cause := 4, opnd := 2, lanes := e.act, value := f.a.toNat }) ∧
      ((∀ k ∈ names, e.t.hasSlot k = true) → e.t.slotBusy f.a.toNat f.b.toNat = true → Waits (.release f) s e .plain) ∧
      ((∀ k ∈ names, e.t.hasSlot k = true) → e.t.slotBusy f.a.toNat f.b.toNat = false → ∃ r, exec (.release f) s = .next r ∧
        SameMemory s r ∧ KeepsRegs s r ∧ r.teamHas e.t.uid fun u =>
          (∀ k, u.hasSlot k = true ↔ e.t.hasSlot k = true ∧ k ∉ names) ∧ ∀ k, k ∉ names → u.slotMem k = e.t.slotMem k)) ∧
    (Performs (.accz f) n s e →
      (e.t.tiles.length ≤ f.d.toNat →
        TrapsWith (.accz f) s e { cause := 4, opnd := 1, lanes := e.act, value := f.d.toNat }) ∧
      (f.d.toNat < e.t.tiles.length → e.t.tileBusy f.d.toNat = true → ∀ t,
        testNames s e.t e.accessor [(.tile, f.d.toNat, true)] = .ok t →
        exec (.accz f) s = .next (finish e (.wait t e.act .plain))) ∧
      (f.d.toNat < e.t.tiles.length → e.t.tileBusy f.d.toNat = false → ∀ t,
        testNames s e.t e.accessor [(.tile, f.d.toNat, true)] = .ok t → ∃ r, exec (.accz f) s = .next r ∧ SameMemory s r ∧
          KeepsRegs s r ∧ r.teamHas e.t.uid fun u => (f.d.toNat < e.t.tileTags.length → u.tileTags.getD f.d.toNat 0 = 10) ∧
            ∀ k i m, u.tileElem k i m = if k = f.d.toNat then 0 else e.t.tileElem k i m)) ∧
    (Performs (.accrd f) n s e → f.a.toNat < e.t.tiles.length → e.t.tileTags.getD f.a.toNat 0 = 10 →
      let pos := if f.len = 0 then (e.b.sreg f.b.toNat).toNat else f.e.toNat
      let w := if f.f = 10 then 2 else fmtCount f.f
      pos < 2 ^ 14 → pos / 64 % 4 = 0 → pos % 64 % w = 0 →
      ∀ t, testNames s e.t e.accessor [(.tile, f.a.toNat, false)] = .ok t →
      (e.t.tileBusy f.a.toNat = true → exec (.accrd f) s = .next (finish e (.wait t e.act .plain))) ∧
      (e.t.tileBusy f.a.toNat = false → ∃ r v, exec (.accrd f) s = .next r ∧ SameMemory s r ∧ e.OthersKeep r ∧ e.LeavesScalar r f.d v ∧
        ∀ k, k < w → elemOf (fmtWidth f.f) k v = convTile t e.t e.rank e.pc e.b.nmode f.f none (pos / 256) (pos % 64 + k)
          (e.t.tileElem f.a.toNat (pos / 256) (pos % 64 + k)) % 2 ^ fmtWidth f.f))

/-! Collectives -/

/-- R253-R257: QPW.POST adds an entry with the operands it names, waits while the team has 64, and traps on a group, a
handle, a length, a peer, a counter or an alignment out of its limits; QPW.ARM arms every unarmed entry of its slot and TAG;
CNT.ADD adds to one counter; and CNT.WAIT gives the scalar D the counter once it has reached the count, and else
waits.
The model's choice where the spec leaves it open: log entries 112, 125. -/
def Obligations.WorkEntries : Prop :=
  ∀ (f : Fields) n s e,
    let n0 := if f.len = 0 then (e.b.sreg f.b.toNat).toNat else f.e.toNat
    (∀ (g : Group) (t : State) (h : Handle), Performs (.qpwPost f) n s e → e.t.replay = none →
      let len := (e.b.sreg f.a.toNat).toNat
      let peer := (e.b.sreg f.b.toNat).toNat
      let ctr := (e.b.sreg f.c.toNat).toNat
      let off := (e.b.sreg f.d.toNat).toNat
      s.groupAt e.t (f.e.toNat % 4) = some g →
      (g.c = false → TrapsWith (.qpwPost f) s e { cause := 4, opnd := 6, lanes := e.act, value := f.e.toNat % 4 }) ∧
      (g.c = true → namedEntry s e.t f.h.toNat [2, 3, 4, 5, 6] (fun _ => true) = (t, .got h) →
        ((len < 8 ∨ 2 ^ 30 < len) →
          exec (.qpwPost f) s = .next (finish e (.trapAt t { cause := 4, opnd := 2, lanes := e.act, value := len }))) ∧
        (8 ≤ len → len ≤ 2 ^ 30 → (2 ^ 16 ≤ peer ∨ g.total ≤ peer) →
          exec (.qpwPost f) s = .next (finish e (.trapAt t { cause := 4, opnd := 3, lanes := e.act, value := peer }))) ∧
        (8 ≤ len → len ≤ 2 ^ 30 → peer < 2 ^ 16 → peer < g.total → 64 ≤ ctr →
          exec (.qpwPost f) s = .next (finish e (.trapAt t { cause := 4, opnd := 4, lanes := e.act, value := ctr }))) ∧
        (8 ≤ len → len ≤ 2 ^ 30 → peer < 2 ^ 16 → peer < g.total → ctr < 64 →
          ((off % 8 ≠ 0 ∨ len % 8 ≠ 0) →
            exec (.qpwPost f) s = .next (finish e (.trapAt t { cause := 7, lanes := e.act }))) ∧
          (off % 8 = 0 → len % 8 = 0 → 64 ≤ e.t.entries.length → Waits (.qpwPost f) s e .plain) ∧
          (off % 8 = 0 → len % 8 = 0 → e.t.entries.length < 64 → (∀ w ∈ e.t.entries, w.num < e.t.posted) →
            (∀ p, s.part? e.t.part = some p → ∀ m ∈ p.rtr, m.error = false) →
            ∃ r, exec (.qpwPost f) s = .next r ∧ SameMemory s r ∧ KeepsRegs s r ∧ r.teamHas e.t.uid fun u =>
              u.posted = e.t.posted + 1 ∧ u.entries.length = e.t.entries.length + 1 ∧
              (∀ w ∈ e.t.entries, w ∈ u.entries) ∧ ∃ w ∈ u.entries, w.num = e.t.posted ∧ w.kind = f.x.toNat % 8 ∧
                w.op = f.x.toNat / 16 % 4 ∧ w.f = f.f ∧ w.handle = h ∧ w.off = off ∧ w.len = len ∧ w.peer = peer ∧
                w.ctr = ctr ∧ w.wtag = f.e.toNat / 65536 ∧ w.slot = f.e.toNat % 4 ∧ w.group = g.index ∧
                w.armed = none ∧ w.fired = false ∧ w.chunks = 0))) ∧
      (g.c = true → namedEntry s e.t f.h.toNat [2, 3, 4, 5, 6] (fun _ => true) = (t, .bad) →
        exec (.qpwPost f) s = .next (finish e (.trapAt t { cause := 4, opnd := 5, lanes := e.act, value := f.h.toNat })))) ∧
    (Performs (.qpwArm f) n s e → e.t.replay = none →
      let sa := (e.b.sreg f.a.toNat).toNat
      (2 ^ 18 ≤ sa → TrapsWith (.qpwArm f) s e { cause := 4, opnd := 2, lanes := e.act, value := sa }) ∧
      (sa < 2 ^ 18 → 2 ^ 63 ≤ n0 → TrapsWith (.qpwArm f) s e { cause := 4, opnd := 3, lanes := e.act, value := n0 }) ∧
      (sa < 2 ^ 18 → n0 < 2 ^ 63 → ∃ r, exec (.qpwArm f) s = .next r ∧ SameMemory s r ∧ KeepsRegs s r ∧
        r.teamHas e.t.uid fun u => u.entries.length = e.t.entries.length ∧ ∀ (k : Nat) (w : WorkEntry), e.t.entries[k]? = some w →
          u.entries[k]? = some (if w.armed = none ∧ w.slot = sa / 65536 ∧ w.wtag = sa % 65536 then
            { w with armed := some (f.c.toNat, n0) } else w))) ∧
    (Performs (.cntAdd f) n s e → e.t.replay = none → ∃ r, exec (.cntAdd f) s = .next r ∧ SameMemory s r ∧ KeepsRegs s r ∧
      r.teamHas e.t.uid fun u => u.k.length = e.t.k.length ∧ ∀ j, j < e.t.k.length → (u.k.getD j 0).toNat =
        if j = f.d.toNat then ((e.t.k.getD j 0).toNat + n0) % 2 ^ 64 else (e.t.k.getD j 0).toNat) ∧
    (Performs (.cntWait f) n s e → e.t.replay = none →
      let v := e.t.k.getD f.a.toNat 0
      (2 ^ 63 ≤ n0 → TrapsWith (.cntWait f) s e { cause := 4, opnd := 3, lanes := e.act, value := n0 }) ∧
      (n0 < 2 ^ 63 → v.toNat % 2 ^ 63 < n0 → Waits (.cntWait f) s e .plain) ∧
      (n0 < 2 ^ 63 → n0 ≤ v.toNat % 2 ^ 63 → ∃ r, exec (.cntWait f) s = .next r ∧ SameMemory s r ∧ e.OthersKeep r ∧
        e.LeavesScalar r f.d v ∧ r.teamHas e.t.uid fun u => u.k = e.t.k))

/-- R256, R301-R308: an armed entry whose counter has reached its threshold fires; one that is over adds one to its
counter, with bit 63 for an error, and is gone; ready-to-receive is held by its send entry, or by the device until
that is posted; a chunk that is not next is held, or asked for again where no room is left, one that has been applied is
dropped, an error ends the match; and a held chunk that has become next is written or reduced into its place in the
buffer, as is one that is next when it comes.
The model's choice where the spec leaves it open: log entries 48, 99, 113. -/
def Obligations.Transfers : Prop :=
  (∀ (s : State) (uid num : Nat) (t : Team) (w : WorkEntry), s.entry? uid num = some (t, w) → t.uid = uid →
    t.status = .running → w.fault = none →
    (w.ending = none → w.fired = false → t.debugStopping = false → w.collect = none →
      (∃ k x, w.armed = some (k, x) ∧ x ≤ (t.k.getD k 0).toNat % 2 ^ 63) →
      Ends (.workEntryReady uid num) s fun r => SameMemory s r ∧ KeepsRegs s r ∧ r.teamHas uid fun u => ∃ v,
        u.entry? num = some v ∧ v.fired = true ∧ v.chunks = w.chunks ∧ v.len = w.len ∧ v.armed = w.armed) ∧
    (∀ err, w.ending = some err → w.ctr < t.k.length → (isRecv w.kind = true → w.chunks < chunkCount w.len) →
      Ends (.workEntryReady uid num) s fun r => SameMemory s r ∧ KeepsRegs s r ∧ r.teamHas uid fun u =>
        u.entry? num = none ∧ (∀ j, j ≠ w.ctr → u.k.getD j 0 = t.k.getD j 0) ∧
        ∀ b, b < 64 → (u.k.getD w.ctr 0).getLsbD b
          = ((err && b == 63) || (t.k.getD w.ctr 0 + 1).getLsbD b))) ∧
  (∀ (s : State) (part : Nat) (p : Partition) (m : XferMsg) (n : Launch) (g : Group) (t : Team),
    s.part? part = some p → msgGroup s part m = some (n, g) → s.team? t.uid = some t → t.status = .running →
    (rankTeam s n g m.srcRank = some t →
      (∀ w, sendEntry t g m = some w → t.entry? w.num = some w →
        (m.done = false → m.error = false → m.again = false → Ends (.readyToReceive part m) s fun r => SameMemory s r ∧
          KeepsRegs s r ∧ r.teamHas t.uid fun u => ∃ v, u.entry? w.num = some v ∧ v.ready = some m ∧ v.chunks = w.chunks) ∧
        (m.done = false → m.error = false → m.again = true → Ends (.readyToReceive part m) s fun r => SameMemory s r ∧
          KeepsRegs s r ∧ r.teamHas t.uid fun u => ∃ v, u.entry? w.num = some v ∧ v.chunks = min w.chunks m.chunk) ∧
        (m.done = true ∨ m.error = true → w.ctr < t.k.length → Ends (.readyToReceive part m) s fun r => SameMemory s r ∧
          KeepsRegs s r ∧ r.teamHas t.uid fun u => u.entry? w.num = none ∧
            (u.k.getD w.ctr 0).toNat % 2 ^ 63 = ((t.k.getD w.ctr 0).toNat + 1) % 2 ^ 63)) ∧
      (sendEntry t g m = none → m.done = false → m.again = false →
        Ends (.readyToReceive part m) s fun r => SameMemory s r ∧ KeepsRegs s r ∧ r.partHas part fun q =>
          q.rtr = p.rtr.filter (fun x => !sameMatch x m) ++ [m])) ∧
    (rankTeam s n g m.dstRank = some t → ∀ w, recvEntry t g m = some w → t.entry? w.num = some w →
      (m.error = true → w.ctr < t.k.length → w.chunks < chunkCount w.len → Ends (.chunk part m) s fun r => SameMemory s r ∧ KeepsRegs s r ∧
        r.teamHas t.uid fun u => u.entry? w.num = none ∧ (u.k.getD w.ctr 0).getLsbD 63 = true) ∧
      (m.error = false → w.fired = true → m.check = chunkCheck m.chunk m.data → (isReduce w.kind = true → w.gen = m.gen) →
        (m.chunk < w.chunks → exec (.chunk part m) s = .next s) ∧
        (w.chunks < m.chunk → spillRoom s p = true → (∀ h ∈ w.held, h.1 ≠ w.chunks ∧ h.1 ≠ m.chunk) →
          Ends (.chunk part m) s fun r => SameMemory s r ∧ KeepsRegs s r ∧ r.teamHas t.uid fun u => ∃ v,
            u.entry? w.num = some v ∧ v.chunks = w.chunks ∧ (m.chunk, m.data) ∈ v.held ∧ ∀ h ∈ w.held, h ∈ v.held) ∧
        (∀ s' bs, w.chunks = m.chunk → (∀ h ∈ w.held, h.1 ≠ m.chunk ∧ h.1 ≠ m.chunk + 1) → w.ending = none →
          let v := { w with held := tabPut w.held m.chunk m.data }
          let s1 := s.modEntry t.uid w.num fun w => { w with held := tabPut w.held m.chunk m.data }
          (∀ u, s1.entry? t.uid w.num = some (u, v) → canApply s1 u v = some m.data → m.chunk + 1 < chunkCount w.len →
            (if isReduce w.kind then reduceChunk s1 u v m.chunk m.data
              else moveElement s1 u (entryTrk v) m.chunk (entryCommand v) [] [chunkSeg v m.chunk] fun _ => m.data) = (s', .done bs) →
            Ends (.chunk part m) s fun r => KeepsRegs s r ∧ (∀ p, r.byteAt p = s'.byteAt p) ∧
              r.teamHas t.uid fun u => ∃ v, u.entry? w.num = some v ∧ v.chunks = m.chunk + 1 ∧ v.held = w.held)) ∧
        (w.chunks < m.chunk → spillRoom s p = false → (∀ h ∈ w.held, h.1 ≠ m.chunk) → s.launchOf t = some n →
          entryGroup s t w = some g → rankCoord s n g w.peer ≠ s.coordOf t →
          Ends (.chunk part m) s fun r => SameMemory s r ∧ KeepsRegs s r ∧ (r.teamHas t.uid fun u => u.entry? w.num = some w) ∧
            ∃ x, r.fabOut = s.fabOut ++ [(p.num, .xfer (rankCoord s n g w.peer) false x)] ∧ x.again = true ∧ x.chunk = m.chunk)))) ∧
  (∀ (s s' : State) (uid num chunk : Nat) (t : Team) (w : WorkEntry) (data bs : List Byte),
    s.entry? uid num = some (t, w) → t.uid = uid → w.chunks = chunk → canApply s t w = some data →
    chunk + 1 < chunkCount w.len → (∀ h ∈ w.held, h.1 ≠ chunk + 1) →
    (if isReduce w.kind then reduceChunk s t w chunk data
      else moveElement s t (entryTrk w) chunk (entryCommand w) [] [chunkSeg w chunk] fun _ => data) = (s', .done bs) →
    Ends (.spillRefetch uid num chunk) s fun r => KeepsRegs s r ∧ (∀ p, r.byteAt p = s'.byteAt p) ∧
      r.teamHas uid fun u => ∃ v, u.entry? num = some v ∧ v.chunks = chunk + 1 ∧ (∀ h ∈ v.held, h.1 ≠ chunk) ∧
        ∀ h ∈ w.held, h.1 ≠ chunk → h ∈ v.held)

/-! Privileged -/

/-- R326: SRD gives the scalar D the value of a listed register; SWR gives a register that software may write a value
within its limits, its unassigned bits apart (R5), and no other register of the partition changes; a number that is not listed, an index out of
range, a read-only register and a value out of its limits raise cause 0x04 for their field. A write of dbgcmd lets a
stopped team run or step, one of rpmode arms or disarms a binding, one of follyctl starts or ends a trial, one of lkill
kills the launch it names, and one of a landing area's registers clears its counts.
The model's choice where the spec leaves it open: log entries 62, 108, 111. -/
def Obligations.SystemRegisters : Prop :=
  ∀ (f : Fields) n s e (p : Partition), s.part? e.t.part = some p →
    let num := f.x.toNat * 256 + f.h.toNat
    let idx := if regCount num = 1 then 0 else (e.b.sreg f.b.toNat).toNat
    let v := (e.b.sreg f.a.toNat).toNat
    let w := v &&& assignedBits num idx
    let trap := fun (i : Instr) (opnd value : Nat) => TrapsWith i s e { cause := 4, opnd, lanes := e.act, value }
    (Performs (.srd f) n s e →
      (regRow num = none → trap (.srd f) 5 num) ∧
      (regRow num ≠ none → regCount num ≤ idx → trap (.srd f) 3 idx) ∧
      (regRow num ≠ none → idx < regCount num → ∃ r, exec (.srd f) s = .next r ∧ SameMemory s r ∧ e.OthersKeep r ∧
        e.LeavesScalar r f.d (s.sysRead p num idx) ∧ r.parts = s.parts)) ∧
    (Performs (.swr f) n s e →
      (regRow num = none → trap (.swr f) 5 num) ∧
      (∀ x, regRow num = some x → x.access ≠ .rw → x.access ≠ .wo → trap (.swr f) 5 num) ∧
      (∀ x, regRow num = some x → (x.access = .rw ∨ x.access = .wo) →
        (regCount num ≤ idx → trap (.swr f) 3 idx) ∧
        (idx < regCount num → limitOk s p num idx w = false → trap (.swr f) 2 v) ∧
        (idx < regCount num → limitOk s p num idx w = true →
          (num ≠ 0x0302 → num ≠ 0x0320 → num ≠ 0x0335 → num ≠ 0x0510 → num ≠ 0x0511 → num ≠ 0x0540 →
            ∃ r, exec (.swr f) s = .next r ∧ SameMemory s r ∧ KeepsRegs s r ∧ r.partHas e.t.part fun q =>
              q.reg num idx = w ∧ ∀ m j, j < 65536 → (m ≠ num ∨ j ≠ idx) → q.reg m j = p.reg m j) ∧
          (num = 0x0510 ∨ num = 0x0511 → ∃ r, exec (.swr f) s = .next r ∧ SameMemory s r ∧ KeepsRegs s r ∧
            r.partHas e.t.part fun q => q.reg num idx = w ∧ q.reg 0x0512 idx = 0 ∧ q.reg 0x0513 idx = 0) ∧
          (num = 0x0320 → w % 2 = 1 → ∃ r, exec (.swr f) s = .next r ∧ r.partHas e.t.part fun q =>
            q.reg num 0 = w ∧ q.trial ≠ none ∧ ∀ k, k < 16 → q.reg 0x0322 k = 0) ∧
          (num = 0x0320 → w % 2 = 0 → ∃ r, exec (.swr f) s = .next r ∧ SameMemory s r ∧ KeepsRegs s r ∧
            r.partHas e.t.part fun q => q.reg num 0 = w ∧ q.trial = none ∧ ∀ k, k < 16 → q.reg 0x0322 k = p.reg 0x0322 k) ∧
          (num = 0x0302 → ((∀ t, teamAt s p.num (w % 2 ^ 14) = some t → t.dbgStopped = false) → Does (.swr f) s e s) ∧
            ∀ t, teamAt s p.num (w % 2 ^ 14) = some t → s.team? t.uid = some t → t.uid ≠ e.t.uid → t.dbgStopped = true →
              ∃ r, exec (.swr f) s = .next r ∧ SameMemory s r ∧ KeepsRegs s r ∧ r.teamHas t.uid fun u =>
                u.dbgStopped = false ∧ (u.dbgStep = true ↔ w.testBit 16 = true) ∧ ∀ (k : Nat) (b : Braid),
                  t.braids[k]? = some b → ∃ c, u.braids[k]? = some c ∧
                    c.stop = if b.stop = .safePoint ∧ t.status = .running then .running else b.stop) ∧
          (num = 0x0335 → ∀ t, teamAt s p.num (w % 2 ^ 14) = some t → s.team? t.uid = some t →
            (t.status ≠ .prepared → t.status ≠ .restored → Does (.swr f) s e s) ∧
            (t.status = .prepared ∨ t.status = .restored → t.uid ≠ e.t.uid → ∃ r, exec (.swr f) s = .next r ∧
              SameMemory s r ∧ KeepsRegs s r ∧ r.teamHas t.uid fun u =>
                u.replay = if w.testBit 14 = true then some (p.reg 0x0334 0) else none)) ∧
          (num = 0x0540 → ∃ x, killTarget s p.num w = some x ∧ (e.t.launch ≠ some x.num → ∃ r, exec (.swr f) s = .next r ∧
            (∀ u ∈ r.teams, u.launch = some x.num → u.status = .exiting ∨ u.status = .retiring) ∧
            ∃ m, r.launch? x.num = some m ∧ m.killed = true ∧ m.poison = true))))) ∧
    (∀ (q : Partition) (c : Nat), limitOk s q 0x0302 0 c = true → c.testBit 17 = false) ∧
    (∀ (q : Partition), limitOk s q 0x0013 0 v = true → q.reg 0x0013 0 ≤ v ∧ v ≤ q.reg 0x0012 0) ∧
    (∀ (q : Partition), limitOk s q 0x0413 0 v = true → 480 ≤ v ∧ v ≤ 840)

/-- R330, R333: IRET settles the outstanding record of a sequence number and answers 0, lets a braid go on, kills its
team or cancels a command; it answers 1 where no such record is outstanding, and 2 for a cancellation of a braid's
record, which stays; and TLBI drops the held translations that it names, and no other.
The model's choice where the spec leaves it open: log entries 40, 63, 84, 115. -/
def Obligations.FaultReturns : Prop :=
  (∀ (f : Fields) n s e (p : Partition), s.part? e.t.part = some p →
    let seq := (e.b.sreg f.a.toNat).toNat
    let found := p.faults.find? fun r => r.seq == some seq
    let answers := fun (i : Instr) (v : Word) => Ends i s fun r => e.LeavesScalar r f.d v
    (found = none → (Performs (.iretResume f) n s e → answers (.iretResume f) 1) ∧
      (Performs (.iretKill f) n s e → answers (.iretKill f) 1) ∧
      (Performs (.iretCancel f) n s e → answers (.iretCancel f) 1)) ∧
    (∀ x, found = some x → x.uid ≠ e.t.uid →
      (Performs (.iretResume f) n s e → x.eng = false → x.we = false →
        Ends (.iretResume f) s fun r => SameMemory s r ∧ e.OthersKeep r ∧ e.LeavesScalar r f.d 0 ∧
          (r.partHas e.t.part fun q => ∀ y ∈ q.faults, y.seq ≠ some seq) ∧
          ∀ t k b, s.team? x.uid = some t → t.stop = .none → t.dbgStopped = false → t.braids[k]? = some b →
            b.stop = .fault x.id → ∃ vc, r.braid? x.uid k = some { b.after vc with stop := .running }) ∧
      (Performs (.iretKill f) n s e → (∀ t ∈ s.teams, t.uid = e.t.uid → t = e.t) → Ends (.iretKill f) s fun r =>
        e.LeavesScalar r f.d 0 ∧ ∀ t ∈ r.teams, t.uid ≠ x.uid) ∧
      (Performs (.iretCancel f) n s e → x.eng = false → Ends (.iretCancel f) s fun r => SameMemory s r ∧ e.OthersKeep r ∧
        e.LeavesScalar r f.d 2 ∧ r.parts = s.parts) ∧
      (Performs (.iretCancel f) n s e → x.eng = true → x.we = false → ∀ t c, s.team? x.uid = some t → t.uid = x.uid →
        t.status = .running → t.trackers.getD x.trk none = some c → credits c.inst = false →
        Ends (.iretCancel f) s fun r => e.LeavesScalar r f.d 0 ∧
          (r.partHas e.t.part fun q => ∀ y ∈ q.faults, y.seq ≠ some seq) ∧
          r.teamHas x.uid fun u => u.trackers.getD x.trk none = none ∧
            ∀ off, c.node = some off → s.memoryOk → nodeBits u off 418 416 = 4))) ∧
  (∀ (f : Fields) n s e, Performs (.tlbi f) n s e →
    let ctx := (e.b.sreg f.b.toNat).toNat
    (65536 ≤ ctx → TrapsWith (.tlbi f) s e { cause := 4, opnd := 3, lanes := e.act, value := ctx }) ∧
    (ctx < 65536 → Ends (.tlbi f) s fun r => SameMemory s r ∧ KeepsRegs s r ∧ ∀ h, h ∈ r.held ↔ h ∈ s.held ∧
      ¬ (h.part = e.t.part ∧ (f.x.toNat % 4 = 0 ∨ (h.ctx = ctx ∧ (f.x.toNat % 4 = 1 ∨
        onPath h ((e.b.sreg f.a.toNat).toNat % 2 ^ 56 / 4096) (if f.len = 0 then 1 else f.e.toNat) = true))))))

/-- R355, R356: a walk that succeeds may be kept, its entries held under its partition and context beside those held
before, and one that fails keeps nothing; R327: the oldest record that waits is posted into the fault queue with
the head as its sequence number, or Gazebo learns that it waits and the host how many do.
The model's choice where the spec leaves it open: log entries 40, 64, 123. -/
def Obligations.WalksAndFaultQueue : Prop :=
  (∀ (s u : State) (part ctx va : Nat) (kind : AccessKind) (p : Partition), s.part? part = some p →
    (∀ pa, translate s part ctx va kind = (u, .ok pa) → Ends (.translationWalk part ctx va kind) s fun r =>
      SameMemory s r ∧ KeepsRegs s r ∧ ∃ xs, r.held = u.held ++ xs ∧ (∀ x ∈ xs, x.part = part ∧ x.ctx = ctx ∧
        (if x.level = 4 then descriptorOk x.entry.toNat = true else entryOk x.level x.entry.toNat = true)) ∧
        ∃ h ∈ r.held, h.part = part ∧ h.ctx = ctx ∧ h.level = 4) ∧
    (∀ d, translate s part ctx va kind = (u, .error d) → Ends (.translationWalk part ctx va kind) s fun r =>
      r.held = u.held ∧ SameMemory s r ∧ KeepsRegs s r)) ∧
  (∀ (s : State) (part : Nat) (p : Partition) (x : FaultRec) (rest : List FaultRec), s.part? part = some p →
    p.faultWait = x :: rest →
    (p.reg 0x0010 0 = 0 ∨ p.reg 0x0011 0 ≤ p.reg 0x0012 0 - p.reg 0x0013 0 →
      Ends (.faultRecordPost part) s fun r => .faultWaiting part ∈ r.gazebo ∧
        lastTold r part = some (.faultsWaiting part p.faultWait.length) ∧ r.parts = s.parts ∧ SameMemory s r) ∧
    (∀ u, p.reg 0x0010 0 ≠ 0 → p.reg 0x0012 0 - p.reg 0x0013 0 < p.reg 0x0011 0 →
      writeBytes s part 0 (p.reg 0x0010 0 + 64 * (p.reg 0x0012 0 % p.reg 0x0011 0))
        ({ x with seq := some (p.reg 0x0012 0) } : FaultRec).bytes = (u, .ok ()) →
      Ends (.faultRecordPost part) s fun r => SameMemory u r ∧ KeepsRegs s r ∧ .faultWaiting part ∉ r.gazebo ∧
        r.partHas part fun q => q.faultWait = rest ∧ q.reg 0x0012 0 = (p.reg 0x0012 0 + 1) % 2 ^ 64 ∧
          ((s.team? x.uid).isSome = true → { x with seq := some (p.reg 0x0012 0) } ∈ q.faults) ∧
          ∀ y ∈ p.faults, y ∈ q.faults))

/-! The platform -/

/-- R338, R339, R366, R392, R393, R397, R398: the packets of a queue pair are performed in the order of their sequence
numbers, one that comes again is acknowledged and one that is ahead is not performed; a packet of a write that matches a
region of its queue pair and host port is performed and acknowledged, and the last one of a write to a landing area adds
the write's bytes to the counter and arms the slots that it fills, those of one clock in ascending area number; a write
that matches none is refused and writes nothing; an unsupported request and packets out of place put their queue pair
into the error state; queue pairs and regions are created within their limits; and dumps, rings and reports go to the
host.
The model's choice where the spec leaves it open: log entries 12, 64, 77, 78, 117. -/
def Obligations.HostPorts : Prop :=
  (∀ (s : State) (w : RdmaWrite) (p : Partition), s.part? w.part = some p →
    let n := w.data.length
    let refused := fun (m : HostMsg) => Ends (.rdmaWrite w) s fun r => SameMemory s r ∧ KeepsRegs s r ∧ r.parts = s.parts ∧
      r.hostOut = s.hostOut ++ [m]
    (p.wiping = true ∨ p.open_ = false → refused (.rnr w.part w.qp)) ∧
    (p.wiping = false → p.open_ = true →
      ((∀ q ∈ p.qps, q.num ≠ w.qp) → refused (.nakAccess w.part w.qp)) ∧
      ∀ q, p.qps.find? (fun q => q.num == w.qp) = some q →
        (q.error = true → exec (.rdmaWrite w) s = .next s) ∧
        (q.error = false → q.port ≠ w.port → refused (.nakAccess w.part w.qp)) ∧
        (q.error = false → q.port = w.port →
          (∀ k, 0 < k → k < 2 ^ 23 → q.psn < 2 ^ 24 → w.psn = (q.psn + k) % 2 ^ 24 → refused (.nakSequence w.part w.qp)) ∧
          (∀ k, 0 < k → k ≤ 2 ^ 23 → w.psn < 2 ^ 24 → q.psn = (w.psn + k) % 2 ^ 24 → refused (.ack w.part w.qp)) ∧
          (w.psn = q.psn → packetWrite q w = none → Ends (.rdmaWrite w) s fun r => SameMemory s r ∧ KeepsRegs s r ∧
            r.hostOut = s.hostOut ++ [.nakInvalid w.part w.qp] ∧ r.partHas w.part fun z =>
              z.qps = p.qps.map fun y => if y.num = w.qp then { y with error := true } else y) ∧
          (∀ x, w.psn = q.psn → packetWrite q w = some x →
            ((∀ y ∈ p.regions, regionTakes w.qp x.rkey x.addr x.left (regionNow p y) = false) →
              refused (.nakAccess w.part w.qp)) ∧
            (∀ y t, (p.regions.map (regionNow p)).find? (regionTakes w.qp x.rkey x.addr x.left) = some y →
              writeBytes s w.part y.ctx x.addr w.data = (t, .ok ()) →
              Ends (.rdmaWrite w) s fun r => KeepsRegs s r ∧ (∀ q, r.byteAt q = t.byteAt q) ∧
                r.hostOut = s.hostOut ++ [.ack w.part w.qp] ∧ r.partHas w.part fun z =>
                  (z.qps = p.qps.map fun v => if v.num = w.qp then
                    { v with psn := (v.psn + 1) % 2 ^ 24,
                             write := if n = x.left then none else some { x with addr := x.addr + n, left := x.left - n } }
                    else v) ∧
                  (y.area = none ∨ n ≠ x.left → z.armed = p.armed ∧ z.regs = p.regs) ∧
                  ∀ a, y.area = some a → n = x.left →
                    let k := (p.reg 0x0512 a + x.len) / 128 - p.reg 0x0512 a / 128
                    let le := fun (x y : Nat × Nat) => x.1 < y.1 ∨ (x.1 = y.1 ∧ x.2 ≤ y.2)
                    z.reg 0x0512 a = (p.reg 0x0512 a + x.len) % 2 ^ 64 ∧ z.armed.length = p.armed.length + k ∧
                    (∀ v ∈ p.armed, v ∈ z.armed) ∧ (∀ v ∈ z.armed, v ∈ p.armed ∨ v = (s.clock, a)) ∧
                    (p.armed.Pairwise le → (∀ v ∈ p.armed, v.1 ≤ s.clock) → z.armed.Pairwise le)))))) ∧
  (∀ (q : QueuePair) (w : RdmaWrite),
    let n := w.data.length
    let whole : HostWrite := ⟨w.rkey, w.addr, w.len, w.len⟩
    (q.write = none → ∀ x,
      (w.op = .only → (packetWrite q w = some x ↔ n = w.len ∧ n ≤ q.mtu ∧ x = whole)) ∧
      (w.op = .first → (packetWrite q w = some x ↔ n = q.mtu ∧ n < w.len ∧ x = whole)) ∧
      (w.op = .middle ∨ w.op = .last → packetWrite q w = none)) ∧
    (∀ y, q.write = some y → ∀ x,
      (w.op = .middle → (packetWrite q w = some x ↔ n = q.mtu ∧ n < y.left ∧ x = y)) ∧
      (w.op = .last → (packetWrite q w = some x ↔ n = y.left ∧ n ≤ q.mtu ∧ x = y)) ∧
      (w.op = .only ∨ w.op = .first → packetWrite q w = none))) ∧
  (∀ (qp : Nat) (rkey : BitVec 32) (addr len : Nat) (x : Region), regionTakes qp rkey addr len x = true ↔
    x.rkey = rkey ∧ x.base ≤ addr ∧ addr + len ≤ x.base + x.len ∧ ∀ q, x.qp = some q → q = qp) ∧
  (∀ (p : Partition) (port : Nat), portOk p port = true ↔
    let shape := bitsOf (p.reg 0x0002 0) 3 2
    (shape = 0 → port < 2) ∧ (shape = 1 → port = p.num) ∧ (2 ≤ shape → port = p.num / 2)) ∧
  (∀ (s : State) (part qp : Nat) (p : Partition), s.part? part = some p →
    ((∃ q ∈ p.qps, q.num = qp) → Ends (.invalidRequest part qp) s fun r => SameMemory s r ∧ KeepsRegs s r ∧
      r.hostOut = s.hostOut ++ [.nakInvalid part qp] ∧ r.partHas part fun q =>
        q.qps = p.qps.map fun x => if x.num = qp then { x with error := true } else x) ∧
    ((∀ q ∈ p.qps, q.num ≠ qp) → exec (.invalidRequest part qp) s = .next s) ∧
    (∀ (x : Region) (q : QpSpec), 3 ≤ s.bootstage → p.qps.length < 64 → (∀ y ∈ p.qps, y.num ≠ q.num) →
      p.regions.length < 64 → portOk p q.port = true → q.mtu = 1024 ∨ q.mtu = 2048 ∨ q.mtu = 4096 → q.psn < 2 ^ 24 →
      Ends (.queuePairCreate part q [x]) s fun r => SameMemory s r ∧ KeepsRegs s r ∧ r.partHas part fun z =>
        z.qps = p.qps ++ [{ num := q.num, port := q.port, mtu := q.mtu, psn := q.psn, write := none, error := false }] ∧
        (x.len % 128 = 0 → x.area = none → z.regions = p.regions ++ [x]) ∧ (x.len % 128 ≠ 0 → z.regions = p.regions) ∧
        ∀ a, x.area = some a → x.qp = none ∨ 8 ≤ a ∨ (∃ y ∈ p.regions, y.area = some a) → z.regions = p.regions) ∧
    (∀ xs (q : QpSpec), portOk p q.port = false ∨ (q.mtu ≠ 1024 ∧ q.mtu ≠ 2048 ∧ q.mtu ≠ 4096) →
      exec (.queuePairCreate part q xs) s = .next s) ∧
    (∀ xs q, 64 ≤ p.qps.length → exec (.queuePairCreate part q xs) s = .next s) ∧
    (∀ d, p.dumps.find? (fun d => !d.sent) = some d → Ends (.dumpSend part) s fun r => SameMemory s r ∧ KeepsRegs s r ∧
      (r.partHas part fun q => { d with sent := true } ∈ q.dumps ∧ q.dumps.length = p.dumps.length) ∧
      ∃ bs, r.hostOut = s.hostOut ++ [.data part 3 (leBytes 4 d.len ++ leBytes 4 d.vblk ++ leBytes 8 d.time ++ bs)] ∧
        bs.length = d.len ∧ ∀ k, k < d.len → bs.getD k 0 = s.mem.get (p.reg 0x0121 0 + d.off + k)) ∧
    ((∀ d ∈ p.dumps, d.sent = true) → exec (.dumpSend part) s = .next s) ∧
    (∀ d rest, p.dumps = d :: rest → Ends (.dumpAcknowledged part) s fun r => SameMemory s r ∧ KeepsRegs s r ∧
      r.partHas part fun q => q.dumps = if d.sent then rest else p.dumps) ∧
    (Ends (.telemetryRingSend part) s fun r => SameMemory s r ∧ KeepsRegs s r ∧
      (r.partHas part fun q => q.telSent = p.reg 0x0422 0) ∧ ∃ tel tr fq,
        r.hostOut = s.hostOut ++ [.data part 0 tel, .data part 1 tr, .data part 2 fq] ∧
        (p.reg 0x0422 0 = p.telSent → tel = []) ∧ (p.reg 0x0312 0 = p.reg 0x0313 0 → tr = []) ∧
        (p.reg 0x0012 0 = p.reg 0x0013 0 → fq = []) ∧
        (∀ t bs, p.reg 0x0422 0 = p.telSent + 1 → 0 < p.reg 0x0421 0 →
          readBytes s part 0 (p.reg 0x0420 0 + 64 * (p.telSent % p.reg 0x0421 0)) 64 .read = (t, .ok bs) → tel = bs))) ∧
  (∀ (s : State) (nonce : BitVec 256),
    (3 ≤ s.bootstage → s.idKey = true → Ends (.attestationRequest nonce) s fun r => SameMemory s r ∧ KeepsRegs s r ∧ ∃ sig,
      r.hostOut = s.hostOut ++ [.attest s.meas s.lcstate (s.parts.map fun p => word (p.reg 0x0002 0)) nonce sig]) ∧
    (s.bootstage < 3 ∨ s.idKey = false → exec (.attestationRequest nonce) s = .next s))

/-- R347, R350, R394, R396, R397: above its threshold a core sheds its longest-resident team of at least 2 ms, or, with
none left, is hot and throttled until it has cooled; at 115 °C it stops issuing and at 105 °C it issues again; a sample
sets the limiter, throttles above the last ceiling and on a hot core, runs holding steps below the last floor where no
filler waits, and posts a record of the layout of R397 once the partition's limiter runs; before the first lock the
clock is set, from then on only slewed, and a relock more than 200 ns off takes the links down.
The model's choice where the spec leaves it open: log entries 4, 25, 60, 75, 76, 107, 118. -/
def Obligations.PowerAndTime : Prop :=
  (∀ (s : State) (core temp : Nat) (p : Partition), corePart s core = some p →
    let due := fun (t : Team) => t.core = core ∧ t.status = .running ∧ t.isSup = false ∧ t.stopping = false ∧
      t.since + 2 * msClocks ≤ s.clock
    (temp ≤ p.reg 0x0413 0 → Ends (.thermalMigration core temp) s fun r => SameMemory s r ∧ KeepsRegs s r ∧
      r.teams = s.teams ∧ ∀ c, c ∈ r.hot ↔ c ∈ s.hot ∧ c ≠ core) ∧
    (p.reg 0x0413 0 < temp → (∀ t ∈ s.teams, ¬ due t) → Ends (.thermalMigration core temp) s fun r => SameMemory s r ∧
      KeepsRegs s r ∧ r.teams = s.teams ∧ ∀ c, c ∈ r.hot ↔ c ∈ s.hot ∨ c = core) ∧
    (∀ t n, p.reg 0x0413 0 < temp → s.team? t.uid = some t → t ∈ s.teams → due t →
      (∀ u ∈ s.teams, due u → u ≠ t → t.since < u.since) → s.launchOf t = some n → unitGangs n t.index = [] →
      (s.part? t.part).isSome = true → t ∈ unitTeams s t → allIdem s n (unitOf n t.index) = false →
      Ends (.thermalMigration core temp) s fun r => SameMemory s r ∧ KeepsRegs s r ∧ r.teamHas t.uid fun u =>
        (t.stop = .none → u.stop = .save ∧ u.stopSince = s.clock) ∧
        (t.stop ≠ .none → u.stop = t.stop ∧ u.wantStop = .save))) ∧
  (∀ (s : State) (core temp : Nat),
    (920 ≤ temp → core < 256 → Ends (.thermalTrip core temp) s fun r => SameMemory s r ∧ KeepsRegs s r ∧ core ∈ r.tripped) ∧
    (temp < 920 → exec (.thermalTrip core temp) s = .next s) ∧
    (temp ≤ 840 → Ends (.thermalRecover core temp) s fun r => SameMemory s r ∧ KeepsRegs s r ∧
      ∀ c, c ∈ r.tripped ↔ c ∈ s.tripped ∧ c ≠ core) ∧
    (840 < temp → exec (.thermalRecover core temp) s = .next s)) ∧
  (∀ (s : State) (part : Nat) (x : PowerReading) (p : Partition), s.part? part = some p →
    Ends (.powerSample part x) s fun r => KeepsRegs s r ∧
      (r.partHas part fun q => q.floor = x.partW - p.reg 0x0410 0 ∧ q.ceil = min (p.reg 0x0411 0) (x.partW + p.reg 0x0410 0) ∧
        (x.partW ≤ p.ceil → (∀ c ∈ s.hot, bitAt p.quarters (c / 64) = false) → q.throttle = 0) ∧ q.throttle < 64 ∧
        (p.ceil < x.partW ∨ (∃ c ∈ s.hot, bitAt p.quarters (c / 64) = true) → 1 ≤ q.throttle) ∧
        (p.floor ≤ x.partW → q.holding = 0) ∧ q.holding ≤ 100 ∧
        (x.partW < p.floor → (∀ n ∈ s.launches, n.part = part → n.prio ≠ 0) → 1 ≤ q.holding)) ∧
      (p.stage < 5 → SameMemory s r ∧ r.partHas part fun q => q.reg 0x0412 0 = x.partW % 2 ^ 64 ∧
        q.reg 0x0422 0 = p.reg 0x0422 0) ∧
      (5 ≤ p.stage → ∃ v q, SameMemory s v ∧ v.time = s.time ∧ v.part? part = some q ∧
        ∀ w, writeBytes v part 0 (p.reg 0x0420 0 + 64 * (p.reg 0x0422 0 % p.reg 0x0421 0)) (telemetryBytes v q x) = (w, .ok ()) →
          (∀ y, r.byteAt y = w.byteAt y) ∧ r.partHas part fun z => z.reg 0x0422 0 = (p.reg 0x0422 0 + 1) % 2 ^ 64)) ∧
  (∀ (s : State) (p : Partition) (x : PowerReading),
    let m := leNat (telemetryBytes s p x)
    (telemetryBytes s p x).length = 64 ∧ bitsOf m 63 0 = p.reg 0x0422 0 ∧ bitsOf m 255 64 = 0 ∧
    bitsOf m 263 256 = p.holding % 256 ∧ bitsOf m 271 264 = p.throttle % 256 ∧ bitsOf m 303 272 = x.proc.toNat ∧
    bitsOf m 335 304 = x.vcore.toNat ∧ bitsOf m 383 336 = x.temp.toNat ∧ bitsOf m 399 384 = p.ceil % 65536 ∧
    bitsOf m 415 400 = p.floor % 65536 ∧ bitsOf m 431 416 = x.partW % 65536 ∧ bitsOf m 447 432 = x.pkgW % 65536 ∧
    bitsOf m 511 448 = s.time % 2 ^ 64) ∧
  (∀ (s : State) (m : PtpMessage),
    let quiet := fun (i : Instr) (Q : State → Prop) => Ends i s fun r => SameMemory s r ∧ KeepsRegs s r ∧ Q r
    (s.ptpLocked = true → quiet (.ptpMessage m) fun r => r.time = s.time ∧ r.slew = -m.offset ∧ r.ptpLocked = true) ∧
    (s.ptpLocked = false → m.locked = true → s.ptpSynced = false → (0 : Int) ≤ (s.time : Int) - m.offset →
      quiet (.ptpMessage m) fun r => (r.time : Int) = (s.time : Int) - m.offset ∧ r.ptpLocked = true ∧
        r.ptpSynced = true ∧ r.slew = 0) ∧
    (s.ptpLocked = false → m.locked = true → s.ptpSynced = true → exec (.ptpMessage m) s = exec (.ptpRelock m) s) ∧
    (s.ptpLocked = false → m.locked = false → quiet (.ptpMessage m) fun r => r.time = s.time ∧ r.ptpLocked = false) ∧
    (quiet .ptpLockLost fun r => r.ptpLocked = false ∧ r.ptpSynced = s.ptpSynced ∧ r.time = s.time ∧
      r.links = s.links ∧ r.slew = 0) ∧
    (quiet (.ptpRelock m) fun r => r.ptpLocked = true ∧ r.ptpSynced = true ∧ r.time = s.time ∧ r.slew = -m.offset ∧
      (s.boot = none ∨ (∀ q ∈ s.parts, 7 ≤ q.stage) → (m.offset.natAbs ≤ 200 → r.links = s.links) ∧
        (200 < m.offset.natAbs → ∀ l ∈ r.links, l.up = false))))

/-- R324, R326, R395, R398-R401: a power-on or warm reset clears memory, teams, launches, links and the clock and begins
bring-up; it stays at stage 1 where the root image does not verify, which takes a signature under the key whose digest
is fused and, in the manufacturing state, a test image of Slomor's, and it goes no further than the step that fails; a
partition reset, a new shape and a life-cycle step, which the root performs once it runs, kill what runs and wipe, and
a partition reset leaves the other partitions as they are; a wipe's end lets the partition go on; a sanitised device is
clean; and Gazebo sets the registers that are its own, within their limits.
The model's choice where the spec leaves it open: log entries 5, 73, 74, 108, 119, 120. -/
def Obligations.ResetsAndWipes : Prop :=
  (∀ (s : State) (b : BringUp),
    let after := fun (i : Instr) => Ends i s fun r =>
      (∀ a, r.mem.get a = 0) ∧ (∀ a, r.chip.get a = 0) ∧ r.teams = [] ∧ r.launches = [] ∧ r.links = [] ∧ r.clock = 0 ∧
      r.time = 0 ∧ r.lcstate = s.lcstate ∧ r.devid = s.devid ∧ r.fusedKey = s.fusedKey ∧ r.pkgSlope = b.slope ∧
      r.parts.length = shapeCount b.shape ∧ (∀ c ∈ r.cxl, c.clean = false) ∧ (∀ p ∈ r.parts, p.open_ = false ∧ p.regs = []) ∧
      let ok := b.sigOk = true ∧ b.keyDigest = s.fusedKey ∧ (s.lcstate = 0 → b.testImage = true)
      (ok → b.fails ≠ some 1 → b.fails ≠ some 2 → b.fails ≠ some 3 →
        r.bootstage = 3 ∧ r.boot = some b ∧ (∀ p ∈ r.parts, p.stage = 3 ∧ p.wiping = true) ∧ (s.lcstate = 0 → r.idKey = true)) ∧
      (¬ ok → b.fails ≠ some 1 → r.bootstage = 1 ∧ r.boot = none ∧ r.idKey = s.idKey) ∧
      (∀ k, 1 ≤ k → k ≤ 3 → ok → b.fails = some k →
        r.bootstage = k - 1 ∧ r.boot = none ∧ ∀ p ∈ r.parts, p.stage = k - 1 ∧ p.wiping = false)
    after (.powerOnReset b) ∧ after (.warmReset b)) ∧
  (∀ (s : State) (part : Nat) (p : Partition), s.part? part = some p →
    (s.bootstage < 2 → exec (.partitionReset part) s = .next s) ∧
    (2 ≤ s.bootstage → Ends (.partitionReset part) s fun r =>
      (∀ t ∈ r.teams, t.part ≠ part) ∧ (∀ n ∈ r.launches, n.part ≠ part) ∧
      (∀ a, bitAt p.quarters (addrQuarter a) = true → r.mem.get a = 0) ∧
      (∀ a, bitAt p.quarters (a / Config.chipPart) = true → r.chip.get a = 0) ∧
      (∀ l ∈ r.links, bitAt p.quarters (l.num / 1024) = true → l.tx.key = none ∧ l.rx.key0 = none ∧ l.rx.key1 = none) ∧
      (r.partHas part fun q => q.wiping = true ∧ q.regs = [] ∧ q.queue = [] ∧ q.open_ = false ∧ q.stage = 3) ∧
      r.bootstage = s.bootstage ∧ ∀ num q, num ≠ part → s.part? num = some q → ∃ z, r.part? num = some z ∧
        z.stage = q.stage ∧ z.regs = q.regs ∧ z.open_ = q.open_ ∧ z.wiping = q.wiping)) ∧
  (∀ (s : State) (shape : Nat),
    (3 ≤ shape ∨ s.bootstage < 2 → exec (.partitionShapeChange shape) s = .next s) ∧
    (shape < 3 → 2 ≤ s.bootstage → Ends (.partitionShapeChange shape) s fun r => r.parts.length = shapeCount shape ∧
      (∀ p ∈ r.parts, p.wiping = true ∧ p.regs = [] ∧ p.stage = 3) ∧ (∀ t ∈ r.teams, ∀ p ∈ s.parts, t.part ≠ p.num) ∧
      ∀ a, addrQuarter a < 4 → r.mem.get a = 0)) ∧
  (∀ (s : State) (target : Nat) (signed : Bool),
    (signed = false ∨ target ≠ s.lcstate + 1 ∨ 3 < target ∨ s.lcNext ≠ none ∨ s.bootstage < 2 →
      exec (.lifeCycleCommand target signed) s = .next s) ∧
    (signed = true → target = s.lcstate + 1 → target ≤ 3 → s.lcNext = none → 2 ≤ s.bootstage →
      Ends (.lifeCycleCommand target signed) s fun r => r.lcNext = some target ∧ r.lcstate = s.lcstate ∧
        (∀ p ∈ r.parts, p.wiping = true ∧ p.dumps = []) ∧ (∀ l ∈ r.links, l.up = false) ∧
        (∀ t ∈ r.teams, ∀ p ∈ s.parts, t.part ≠ p.num) ∧ ∀ a, addrQuarter a < 4 → r.mem.get a = 0)) ∧
  (∀ (s : State) (part : Nat) (p : Partition), s.part? part = some p →
    (p.wiping = false → exec (.wipeComplete part) s = .next s) ∧
    (p.wiping = true → Ends (.wipeComplete part) s fun r => SameMemory s r ∧ KeepsRegs s r ∧
      (r.partHas part fun q => q.wiping = false) ∧
      (∀ t, s.lcNext = some t → (∀ q ∈ s.parts, q.num ≠ part → q.wiping = false) → r.lcstate = t ∧ r.lcNext = none) ∧
      (∀ t, s.lcNext = some t → (∃ q ∈ s.parts, q.num ≠ part ∧ q.wiping = true) → r.lcstate = s.lcstate ∧ r.lcNext = some t) ∧
      (∀ b, s.boot = some b → b.shape < 3 → part < shapeCount b.shape → p.stage = 3 → p.stuck = false → (∀ k, b.fails = some k → k < 4 ∨ 5 < k) →
        r.partHas part fun q => 5 ≤ q.stage ∧ q.quarters = shapeQuarters b.shape part) ∧
      (∀ b k, s.boot = some b → p.stage = 3 → p.stuck = false → b.fails = some k → k = 4 ∨ k = 5 →
        .failed part k ∈ r.hostOut ∧ r.partHas part fun q => q.stage = k - 1 ∧ q.stuck = true))) ∧
  (∀ (s : State) (port : Nat), Ends (.cxlSanitizeComplete port) s fun r => SameMemory s r ∧ KeepsRegs s r ∧
    r.cxl.length = s.cxl.length ∧ ∀ (k : Nat) (c : CxlPort), s.cxl[k]? = some c →
      r.cxl[k]? = some (if c.port = port then { c with clean := true } else c)) ∧
  (∀ (s : State) (part num idx : Nat) (v : Word) (p : Partition), s.part? part = some p →
    let w := v.toNat &&& assignedBits num idx
    (s.bootstage < 2 ∨ (∀ x, regRow num = some x → x.access ≠ .g) ∨ num = 0x0002 →
      exec (.gazeboRegisterWrite part num idx v) s = .next s) ∧
    (∀ x, 2 ≤ s.bootstage → regRow num = some x → x.access = .g → num ≠ 0x0002 → num ≠ 0x0500 → idx < regCount num →
      (limitGazebo s p num w = false → Ends (.gazeboRegisterWrite part num idx v) s fun r => SameMemory s r ∧
        KeepsRegs s r ∧ r.parts = s.parts ∧ r.gazebo = s.gazebo ++ [.refused part num idx]) ∧
      (limitGazebo s p num w = true → Ends (.gazeboRegisterWrite part num idx v) s fun r => SameMemory s r ∧
        KeepsRegs s r ∧ r.partHas part fun q => q.reg num idx = w ∧ (num = 0x0411 → q.ceil ≤ w) ∧
          ∀ m j, j < 65536 → (m ≠ num ∨ j ≠ idx) → q.reg m j = p.reg m j)) ∧
    (limitGazebo s p 0x0201 v.toNat = true → ∀ a, a < 5 → bitsOf v.toNat (6 * a + 5) (6 * a) ≤ 32) ∧
    (limitGazebo s p 0x0410 v.toNat = true → 1 ≤ v.toNat ∧ v.toNat ≤ 1000) ∧
    (limitGazebo s p 0x0411 v.toNat = true → 100 ≤ v.toNat ∧ v.toNat ≤ 4500))

/-- R382-R387, R390: a breakpoint that a group of its launch meets at an instruction with S = 1 asks its team to stop, after a
stop of another kind already asked for, and the lowest rank of one clock stands; the stop's record waits once every braid stands; resume and step let it run again; samples and records are posted to
the ring with the layout of R382, and a sample is dropped where the ring is full; a trial starts with its counters at
zero, and its end leaves a record of its clocks and delay; and rpmode arms a binding that waits to start.
The model's choice where the spec leaves it open: log entries 22, 60, 64, 65, 66. -/
def Obligations.DebugEvents : Prop :=
  (∀ (s : State) (x : BraidRef) (pc bp : Nat) (t : Team) (b : Braid) (p : Partition), s.team? x.uid = some t →
    s.part? t.part = some p → t.braids[x.rank]? = some b →
    (breakpointHits s p t pc bp = true → safePointAt s t pc = true → b.groupAt pc ≠ 0 → b.groupAt pc &&& ~~~ b.passed ≠ 0 →
      b.handler = none → t.status = .running →
      (t.stop = .none → t.dbgStopped = false → Ends (.breakpointMatch x pc bp) s fun r => SameMemory s r ∧ KeepsRegs s r ∧
        r.teamHas x.uid fun u => u.stop = .debug 1 bp x.rank (BitVec.ofNat 32 pc) (b.groupAt pc) ∧ u.braids = t.braids) ∧
      (t.stop ≠ .none → (∀ c d k a m, t.stop ≠ .debug c d k a m) → t.wantStop = .none → t.dbgStopped = false →
        Ends (.breakpointMatch x pc bp) s fun r => SameMemory s r ∧ KeepsRegs s r ∧ r.teamHas x.uid fun u =>
          u.stop = t.stop ∧ u.wantStop = .debug 1 bp x.rank (BitVec.ofNat 32 pc) (b.groupAt pc) ∧ u.braids = t.braids) ∧
      (∀ c d k a m, t.stop = .debug c d k a m → t.dbgStopped = false → Ends (.breakpointMatch x pc bp) s fun r =>
        SameMemory s r ∧ KeepsRegs s r ∧ r.teamHas x.uid fun u => u.braids = t.braids ∧ u.stop =
          if t.stopSince = s.clock ∧ x.rank < k then .debug 1 bp x.rank (BitVec.ofNat 32 pc) (b.groupAt pc) else t.stop) ∧
      (t.dbgStopped = true → Ends (.breakpointMatch x pc bp) s fun r => r.team? x.uid = some t)) ∧
    (breakpointHits s p t pc bp = false ∨ safePointAt s t pc = false ∨ b.handler ≠ none →
      exec (.breakpointMatch x pc bp) s = .next s)) ∧
  (∀ (s : State) (uid cause d1 rank : Nat) (pc : Pc) (lanes : Mask) (t : Team) (p : Partition), s.team? uid = some t →
    s.part? t.part = some p → t.stop = .debug cause d1 rank pc lanes →
    (t.stopped = false → exec (.debugStopComplete uid) s = .next s) ∧
    (t.stopped = true → Ends (.debugStopComplete uid) s fun r => SameMemory s r ∧ KeepsRegs s r ∧
      (r.teamHas uid fun u => u.stop = t.wantStop ∧ u.wantStop = .none ∧ u.dbgStopped = true ∧ u.dbgStep = false ∧ u.stopSince = t.wantSince ∧
        u.braids = t.braids) ∧
      r.partHas t.part fun q => ∃ y, q.traceWait = p.traceWait ++ [y] ∧ y.type = (if cause = 4 then 4 else 2) ∧
        y.rank = rank ∧ y.lanes = lanes ∧ y.team = t.index ∧ y.data1 = word d1 ∧ (cause ≠ 4 → y.data0 = word cause) ∧
        y.stamp = s.time)) ∧
  (∀ (s : State) (part binding : Nat) (t : Team), teamAt s part binding = some t → s.team? t.uid = some t →
    let runs := fun (i : Instr) (step : Bool) => Ends i s fun r => SameMemory s r ∧ KeepsRegs s r ∧ r.teamHas t.uid fun u =>
      u.dbgStopped = false ∧ u.dbgStep = step ∧ ∀ (k : Nat) (b : Braid), t.braids[k]? = some b → ∃ c, u.braids[k]? = some c ∧
        c.passed = b.liveMask ∧ c.stop = if b.stop = .safePoint ∧ t.status = .running then .running else b.stop
    (t.dbgStopped = true → runs (.debugResume part binding) false ∧ runs (.debugStep part binding) true) ∧
    (t.dbgStopped = false → exec (.debugResume part binding) s = .next s ∧ exec (.debugStep part binding) s = .next s) ∧
    (t.status = .prepared ∨ t.status = .restored → ∀ p, s.part? part = some p → Ends (.replayArm part binding) s fun r =>
      SameMemory s r ∧ KeepsRegs s r ∧ r.teamHas t.uid fun u => u.replay = some (p.reg 0x0334 0)) ∧
    (t.status ≠ .prepared → t.status ≠ .restored → exec (.replayArm part binding) s = .next s)) ∧
  (∀ (s : State) (core : Nat) (x : BraidRef) (t : Team) (b : Braid) (p : Partition),
    s.team? x.uid = some t → s.part? t.part = some p → t.braids[x.rank]? = some b →
    let every := p.reg 0x0315 0
    let due := every ≠ 0 ∧ s.clock % every = 0 ∧ t.core = core ∧ b.slot % 4 = s.clock / every % 4 ∧ s.cur.uid = x.uid ∧
      s.cur.rank = x.rank ∧ s.cur.second = false ∧ (∀ i ∈ s.issued, i.1 ≠ sideOf core b.slot) ∧ s.dbgFlag t 1 = true
    let y := traceOf s t 1 x.rank s.cur.pc.toNat s.cur.lanes (2 * bit b.meld) 0
    let full := p.reg 0x0311 0 ≤ p.reg 0x0312 0 - p.reg 0x0313 0
    (¬ due → exec (.traceSample core x) s = .next s) ∧
    (due → full → Ends (.traceSample core x) s fun r => SameMemory s r ∧ KeepsRegs s r ∧ r.partHas t.part fun q =>
      q.reg 0x0314 0 = (p.reg 0x0314 0 + 1) % 2 ^ 64 ∧ q.reg 0x0312 0 = p.reg 0x0312 0) ∧
    (∀ w, due → ¬ full →
      writeBytes s p.num 0 (p.reg 0x0310 0 + 64 * (p.reg 0x0312 0 % p.reg 0x0311 0)) (y.bytes (p.reg 0x0312 0)) = (w, .ok ()) →
      Ends (.traceSample core x) s fun r => (∀ q, r.byteAt q = w.byteAt q) ∧ KeepsRegs s r ∧ r.partHas t.part fun q =>
        q.reg 0x0312 0 = (p.reg 0x0312 0 + 1) % 2 ^ 64)) ∧
  (∀ (s : State) (part : Nat) (p : Partition) (y : TraceRec) (rest : List TraceRec), s.part? part = some p →
    p.traceWait = y :: rest →
    let full := p.reg 0x0311 0 ≤ p.reg 0x0312 0 - p.reg 0x0313 0
    (full → exec (.traceRecordPost part) s = .next s) ∧
    (∀ w, ¬ full →
      writeBytes s p.num 0 (p.reg 0x0310 0 + 64 * (p.reg 0x0312 0 % p.reg 0x0311 0)) (y.bytes (p.reg 0x0312 0)) = (w, .ok ()) →
      Ends (.traceRecordPost part) s fun r => (∀ q, r.byteAt q = w.byteAt q) ∧ KeepsRegs s r ∧ r.partHas part fun q =>
        q.traceWait = rest ∧ q.reg 0x0312 0 = (p.reg 0x0312 0 + 1) % 2 ^ 64)) ∧
  (∀ (y : TraceRec) (seq : Nat),
    let m := leNat (y.bytes seq)
    (y.bytes seq).length = 64 ∧ bitsOf m 3 0 = y.type % 16 ∧ bitsOf m 7 4 = 0 ∧ bitsOf m 12 8 = y.rank % 32 ∧
    bitsOf m 63 13 = 0 ∧ bitsOf m 127 64 = seq % 2 ^ 64 ∧ bitsOf m 191 128 = y.data1.toNat ∧
    bitsOf m 255 192 = y.data0.toNat ∧ bitsOf m 287 256 = y.lanes.toNat ∧ bitsOf m 319 288 = y.off % 2 ^ 32 ∧
    bitsOf m 351 320 = y.ord % 2 ^ 32 ∧ bitsOf m 383 352 = y.team % 2 ^ 32 ∧ bitsOf m 447 384 = y.launch.toNat ∧
    bitsOf m 511 448 = y.stamp % 2 ^ 64) ∧
  (∀ (s : State) (part : Nat) (ctl : Word) (p : Partition), s.part? part = some p →
    let v := ctl.toNat &&& assignedBits 0x0320 0
    (trialOk p v = true → Ends (.follyTrialStart part ctl) s fun r => SameMemory s r ∧ KeepsRegs s r ∧
      r.partHas part fun q => q.reg 0x0320 0 = v ∧ (∀ k, k < 16 → q.reg 0x0322 k = 0) ∧ ∃ x, q.trial = some x ∧
        x.g = 0 ∧ x.del = bitsOf v 23 16 ∧ x.start = s.clock ∧ x.till = s.clock + bitsOf v 63 32 * 1750 ∧
        ∀ t ∈ r.teams, t.launch = some x.launch → ∀ b ∈ t.braids, b.follyC = 0 ∧ b.follyPaid = 0) ∧
    (trialOk p v = false → exec (.follyTrialStart part ctl) s = .next s) ∧
    (∀ x, p.trial = some x →
      let past := fun (i : Instr) => Ends i s fun r => SameMemory s r ∧ KeepsRegs s r ∧ r.teams = s.teams ∧
        r.partHas part fun q => q.trial = none ∧ q.reg 0x0320 0 % 2 = 0 ∧ ∃ y, q.traceWait = p.traceWait ++ [y] ∧ y.type = 3 ∧
          y.data0 = word (s.clock - x.start) ∧ y.data1 = word x.g
      past (.follyTrialStop part) ∧ (x.till ≤ s.clock → past (.follyTrialExpiry part)) ∧
      (s.clock < x.till → exec (.follyTrialExpiry part) s = .next s)) ∧
    (p.trial = none → exec (.follyTrialStop part) s = .next s ∧ exec (.follyTrialExpiry part) s = .next s)) ∧
  (∀ (s : State) (x : BraidRef), exec (.follyHoldEnd x) s = .next s) ∧
  (∀ (s : State) (t : Team) (b : Braid) (p : Partition) (x : Trial), s.part? t.part = some p → p.trial = some x →
    (follyHeld s t b = true ↔ t.launch = some x.launch ∧ b.follyPaid + b.follyC < x.g))
end

