-- ==== Sys2Proof/Laws/Elems.lean ====
section
/-! SUPPORT. Elements of a register: reading back what `fromElems` packs, and the values of wrapped integers. -/

namespace Sys2Proof.Machine

theorem packElems_elem (w : Nat) (es : List Nat) (k : Nat) :
    packElems w es / 2 ^ (w * k) % 2 ^ w = es.getD k 0 % 2 ^ w := by
  induction es generalizing k with
  | nil => simp [packElems]
  | cons a as ih =>
    cases k with
    | zero => simp [packElems, Nat.add_mul_mod_self_left]
    | succ k =>
      have h : packElems w (a :: as) / 2 ^ (w * (k + 1)) = packElems w as / 2 ^ (w * k) := by
        rw [Nat.mul_succ, Nat.add_comm (w * k), Nat.pow_add, ← Nat.div_div_eq_div_mul, packElems,
          Nat.add_mul_div_left _ _ (Nat.two_pow_pos w), Nat.div_eq_of_lt (Nat.mod_lt _ (Nat.two_pow_pos w)), Nat.zero_add]
      rw [h, ih]
      simp

theorem packElems_lt (w : Nat) (es : List Nat) : packElems w es < 2 ^ (w * es.length) := by
  induction es with
  | nil => simp [packElems]
  | cons a as ih =>
    have h1 : a % 2 ^ w < 2 ^ w := Nat.mod_lt _ (Nat.two_pow_pos w)
    have h2 : packElems w as + 1 ≤ 2 ^ (w * as.length) := ih
    have h3 : 2 ^ w * (packElems w as + 1) ≤ 2 ^ w * 2 ^ (w * as.length) := Nat.mul_le_mul_left _ h2
    rw [List.length_cons, Nat.mul_succ, Nat.add_comm (w * as.length), Nat.pow_add, packElems]
    rw [Nat.mul_add] at h3
    omega

/-- A format's elements fit a register (R89). -/
theorem fmtWidth_mul_count (t : Tag) : fmtWidth t * fmtCount t ≤ 64 := by
  revert t; decide

theorem fmtWidth_pos (t : Tag) : 0 < fmtWidth t := by
  revert t; decide

/-- Reading back an element of a packed register. -/
theorem elemOf_fromElems (t : Tag) (es : List Nat) (k : Nat) (h : es.length ≤ fmtCount t) :
    elemOf (fmtWidth t) k (fromElems t es) = es.getD k 0 % 2 ^ fmtWidth t := by
  have h1 : packElems (fmtWidth t) es < 2 ^ 64 :=
    Nat.lt_of_lt_of_le (packElems_lt _ _) (Nat.pow_le_pow_right (by omega)
      (Nat.le_trans (Nat.mul_le_mul_left _ h) (fmtWidth_mul_count t)))
  simp only [elemOf, fromElems, word, BitVec.toNat_ofNat, Nat.mod_eq_of_lt h1]
  exact packElems_elem _ _ _

theorem elemOf_lt (w k : Nat) (r : Word) : elemOf w k r < 2 ^ w := Nat.mod_lt _ (Nat.two_pow_pos w)

/-- An element of a register built position by position. -/
theorem elemOf_range (t : Tag) (g : Nat → Nat) (k : Nat) (hk : k < fmtCount t) :
    elemOf (fmtWidth t) k (fromElems t ((List.range (fmtCount t)).map g)) = g k % 2 ^ fmtWidth t := by
  rw [elemOf_fromElems _ _ _ (by simp)]
  simp [List.getD_eq_getElem?_getD, hk]

theorem mapElems_elem (t : Tag) (g : Nat → Nat → Nat) (a : Word) (k : Nat) (hk : k < fmtCount t) :
    elemOf (fmtWidth t) k (mapElems t g a) = g k (elemOf (fmtWidth t) k a) % 2 ^ fmtWidth t := elemOf_range t _ k hk

theorem mapElems2_elem (t : Tag) (g : Nat → Nat → Nat → Nat) (a b : Word) (k : Nat) (hk : k < fmtCount t) :
    elemOf (fmtWidth t) k (mapElems2 t g a b)
      = g k (elemOf (fmtWidth t) k a) (elemOf (fmtWidth t) k b) % 2 ^ fmtWidth t := elemOf_range t _ k hk

theorem mapElems3_elem (t : Tag) (g : Nat → Nat → Nat → Nat → Nat) (a b c : Word) (k : Nat) (hk : k < fmtCount t) :
    elemOf (fmtWidth t) k (mapElems3 t g a b c)
      = g k (elemOf (fmtWidth t) k a) (elemOf (fmtWidth t) k b) (elemOf (fmtWidth t) k c) % 2 ^ fmtWidth t :=
  elemOf_range t _ k hk

/-! Integers modulo a power of two -/

theorem wrapInt_lt (w : Nat) (v : Int) : wrapInt w v < 2 ^ w := by
  have h : (0 : Int) < Int.ofNat (2 ^ w) := Int.ofNat_lt.2 (Nat.two_pow_pos w)
  have h1 := Int.emod_lt_of_pos v h
  have h2 := Int.emod_nonneg v (Int.ne_of_gt h)
  have h3 : ((2 ^ w : Nat) : Int) = Int.ofNat (2 ^ w) := rfl
  generalize hq : Int.ofNat (2 ^ w) = q at h h1 h2 h3
  unfold wrapInt
  rw [hq]
  have h4 : (((v % q).toNat : Nat) : Int) < ((2 ^ w : Nat) : Int) := by omega
  exact Int.ofNat_lt.1 h4

theorem wrapInt_mod (w : Nat) (v : Int) : wrapInt w v % 2 ^ w = wrapInt w v := Nat.mod_eq_of_lt (wrapInt_lt w v)

theorem wrapInt_cast (w : Nat) (v : Int) : (Int.ofNat (wrapInt w v)) = v % Int.ofNat (2 ^ w) := by
  have h : (0 : Int) < Int.ofNat (2 ^ w) := Int.ofNat_lt.2 (Nat.two_pow_pos w)
  exact Int.toNat_of_nonneg (Int.emod_nonneg v (Int.ne_of_gt h))

/-- A wrapped value read as two's complement. -/
theorem signed_wrapInt (w : Nat) (hw : 0 < w) (v : Int) : signed w (wrapInt w v) = Int.bmod v (2 ^ w) := by
  have hp : 2 ^ w = 2 * 2 ^ (w - 1) := by
    conv => lhs; rw [show w = (w - 1) + 1 by omega, Nat.pow_succ]
    omega
  have hc := wrapInt_cast w v
  unfold signed Int.bmod
  rw [wrapInt_mod]
  have hh : ((2 ^ w : Nat) : Int) = 2 * ((2 ^ (w - 1) : Nat) : Int) := by rw [hp]; simp
  have he : v % ((2 ^ w : Nat) : Int) = ((wrapInt w v : Nat) : Int) := hc.symm
  rw [he, hh]
  have h3 : (2 * ((2 ^ (w - 1) : Nat) : Int) + 1) / 2 = ((2 ^ (w - 1) : Nat) : Int) := by omega
  rw [h3]
  by_cases hlt : wrapInt w v < 2 ^ (w - 1)
  · have : ((wrapInt w v : Nat) : Int) < ((2 ^ (w - 1) : Nat) : Int) := Int.ofNat_lt.2 hlt
    rw [if_pos hlt, if_pos this]; rfl
  · have : ¬ ((wrapInt w v : Nat) : Int) < ((2 ^ (w - 1) : Nat) : Int) := fun q => hlt (Int.ofNat_lt.1 q)
    rw [if_neg hlt, if_neg this]
    rw [hp]
    simp

/-- A wrapped value in its format's signedness (R92). -/
theorem intVal_wrapInt (t : Tag) (v : Int) : intVal t (wrapInt (fmtWidth t) v) = wrappedInt t v := by
  unfold intVal wrappedInt
  split
  · rw [signed_wrapInt _ (fmtWidth_pos t)]
  · rw [wrapInt_cast]; simp

end Sys2Proof.Machine
end

