-- ==== Sys2Proof/Laws/Image.lean ====
section
/-! SUPPORT. The lengths of what a team is written as: the braid and team areas, and its context image. -/

namespace Sys2Proof.Machine

theorem padTo_length (n : Nat) (bs : List Byte) : (padTo n bs).length = n := by
  simp only [padTo, List.length_append, List.length_take, List.length_replicate]; omega

theorem leBytes_length (n : Nat) : ∀ v, (leBytes n v).length = n := by
  induction n with
  | zero => intro v; rfl
  | succ n ih => intro v; rw [leBytes, List.length_cons, ih]

theorem Memory.read_length (m : Memory) (n : Nat) : ∀ a, (m.read a n).length = n := by
  induction n with
  | zero => intro a; rfl
  | succ n ih => intro a; rw [Memory.read, List.length_cons, ih]

theorem flatMap_length {α : Type} (g : α → List Byte) (k : Nat) : ∀ xs : List α, (∀ x ∈ xs, (g x).length = k) →
    (xs.flatMap g).length = k * xs.length := by
  intro xs h
  induction xs with
  | nil => rfl
  | cons x xs ih =>
    rw [List.flatMap_cons, List.length_append, h x List.mem_cons_self, ih fun y hy => h y (List.mem_cons_of_mem _ hy),
      List.length_cons, Nat.mul_succ, Nat.add_comm]

/-- R54: a braid area is 8192 bytes. -/
theorem braidArea_length (b : Braid) : (braidArea b).length = 8192 := by
  simp [braidArea, padTo_length, flatMap_length _ 64, flatMap_length _ 96, tagBytes, allLanes]

/-- R68: a team area is 4096 bytes. -/
theorem teamArea_length (s : State) (t : Team) : (teamArea s t).length = 4096 := padTo_length _ _

/-- R53: a vector area is 256 bytes a register. -/
theorem vectorArea_length (t : Team) (b : Braid) : (vectorArea t b).length = 256 * t.nv := by
  rw [vectorArea, flatMap_length _ 256, List.length_range]
  intro n _
  rw [flatMap_length _ 8 _ fun l _ => leBytes_length _ _]; rfl

/-- R67: the length of an image. -/
theorem imageBytes_length (s : State) (t : Team) : (imageBytes s t).length = 4096 + (8192 + 256 * t.nv) * t.braids.length + 4096 * t.scrGran +
    16384 * t.tiles.length + 8192 * ((List.range 64).filterMap fun k => (t.slots.find? fun x => x.1 == k).map (·.2)).length := by
  simp only [imageBytes, List.length_append, teamArea_length, Memory.read_length]
  rw [flatMap_length _ (8192 + 256 * t.nv) _ fun b _ => by rw [List.length_append, braidArea_length, vectorArea_length],
    flatMap_length _ 16384 _ fun m _ => Memory.read_length m _ _, flatMap_length _ 8192 _ fun m _ => Memory.read_length m _ _]

end Sys2Proof.Machine
end

