-- ==== Sys2Proof/Laws/Memory.lean ====
section
/-! SUPPORT. The laws of memory: every operation keeps the canonical form, a byte stored is the byte read, and a
store leaves every other address alone. -/

namespace Sys2Proof.Machine

/-! The canonical form -/

theorem Memory.wfFrom_mono {lo lo' : Nat} {m : Memory} (h : m.wfFrom lo = true) (hl : lo' ≤ lo) :
    m.wfFrom lo' = true := by
  cases m with
  | nil => rfl
  | cons c m =>
    simp only [Memory.wfFrom, Bool.and_eq_true, decide_eq_true_eq] at h ⊢
    exact ⟨⟨by omega, h.1.2⟩, h.2⟩

theorem Memory.wfFrom_cons {lo a : Nat} {w : Byte} {m : Memory} :
    Memory.wfFrom lo ((a, w) :: m) = true ↔ lo ≤ a ∧ w ≠ 0 ∧ m.wfFrom (a + 1) = true := by
  simp only [Memory.wfFrom, Bool.and_eq_true, decide_eq_true_eq, bne_iff_ne, and_assoc]

theorem Memory.filter_wfFrom (p : Host.Cell → Bool) : ∀ {m : Memory} {lo : Nat}, m.wfFrom lo = true →
    Memory.wfFrom lo (m.filter p) = true := by
  intro m
  induction m with
  | nil => intro lo _; rfl
  | cons c m ih =>
    intro lo h
    simp only [Memory.wfFrom, Bool.and_eq_true, decide_eq_true_eq] at h
    rw [List.filter_cons]
    split
    · simp only [Memory.wfFrom, Bool.and_eq_true, decide_eq_true_eq]
      exact ⟨h.1, ih h.2⟩
    · exact Memory.wfFrom_mono (ih h.2) (by omega)

/-- The canonical form begins above an address that every cell lies above. -/
theorem Memory.wfFrom_above {m : Memory} {lo k : Nat} (h : m.wfFrom lo = true) (hk : ∀ c ∈ m, k ≤ c.1) : m.wfFrom k = true := by
  cases m with
  | nil => rfl
  | cons c m =>
    simp only [Memory.wfFrom, Bool.and_eq_true, decide_eq_true_eq] at h ⊢
    exact ⟨⟨hk c (List.mem_cons_self ..), h.1.2⟩, h.2⟩

theorem Memory.append_wfFrom {k : Nat} {m : Memory} (hm : m.wfFrom k = true) : ∀ {n : Memory} {lo : Nat},
    n.wfFrom lo = true → lo ≤ k → (∀ c ∈ n, c.1 < k) → Memory.wfFrom lo (n ++ m) = true := by
  intro n
  induction n with
  | nil => intro lo _ hl _; exact Memory.wfFrom_mono hm hl
  | cons c n ih =>
    intro lo h _ hn
    simp only [Memory.wfFrom, List.cons_append, Bool.and_eq_true, decide_eq_true_eq] at h ⊢
    exact ⟨h.1, ih h.2 (hn c (List.mem_cons_self ..)) fun d hd => hn d (List.mem_cons_of_mem _ hd)⟩

theorem Memory.cells_wfFrom (bs : List Byte) : ∀ a, (Memory.cells a bs).wfFrom a = true := by
  induction bs with
  | nil => intro a; rfl
  | cons b bs ih =>
    intro a
    by_cases hb : b = 0
    · simpa [Memory.cells, hb] using Memory.wfFrom_mono (ih (a + 1)) (Nat.le_succ a)
    · simp only [Memory.cells, hb, if_false]
      exact Memory.wfFrom_cons.2 ⟨Nat.le_refl a, hb, ih (a + 1)⟩

theorem Memory.cells_lt (bs : List Byte) : ∀ a, ∀ c ∈ Memory.cells a bs, a ≤ c.1 ∧ c.1 < a + bs.length := by
  induction bs with
  | nil => intro a c hc; cases hc
  | cons b bs ih =>
    intro a c hc
    simp only [Memory.cells] at hc
    rw [List.length_cons]
    split at hc
    · have := ih (a + 1) c hc; omega
    · rcases List.mem_cons.1 hc with rfl | h
      · exact ⟨Nat.le_refl _, by simp⟩
      · have := ih (a + 1) c h; omega

/-- Storing bytes keeps the canonical form. -/
theorem Memory.write_wf (bs : List Byte) {m : Memory} (a : Nat) (h : m.wf = true) : (m.write a bs).wf = true := by
  have high : Memory.wfFrom (a + bs.length) (m.filter fun c => decide (a + bs.length ≤ c.1)) = true :=
    Memory.wfFrom_above (Memory.filter_wfFrom _ h) fun c hc => by simpa using (List.mem_filter.1 hc).2
  have mid := Memory.append_wfFrom high (Memory.cells_wfFrom bs a) (Nat.le_add_right ..) fun c hc => (Memory.cells_lt bs a c hc).2
  exact Memory.append_wfFrom mid (Memory.filter_wfFrom _ h) (Nat.zero_le _) fun c hc => by simpa using (List.mem_filter.1 hc).2

theorem Memory.putNat_wf {m : Memory} (h : m.wf = true) (a n v : Nat) : (m.putNat a n v).wf = true :=
  Memory.write_wf _ a h

/-- Forgetting bytes keeps the canonical form. -/
theorem Memory.filter_wf (p : Host.Cell → Bool) {m : Memory} (h : m.wf = true) : Memory.wf (m.filter p) = true :=
  Memory.filter_wfFrom p h

theorem Memory.clear_wf {m : Memory} (h : m.wf = true) (lo hi : Nat) : (m.clear lo hi).wf = true :=
  Memory.filter_wf _ h

/-! Reading what was stored -/

theorem Memory.get_filter (p : Nat → Bool) (j : Nat) : ∀ m : Memory, Memory.get (m.filter fun c => p c.1) j = if p j then m.get j else 0 := by
  intro m
  induction m with
  | nil => simp [Memory.get]
  | cons c m ih =>
    obtain ⟨a, v⟩ := c
    rw [List.filter_cons]
    by_cases ha : a = j
    · subst ha
      by_cases hp : p a = true
      · simp [hp, Memory.get]
      · rw [if_neg hp, ih, if_neg hp, if_neg hp]
    · by_cases hp : p a = true
      · simp only [hp, if_true, Memory.get, if_neg ha, ih]
      · rw [if_neg hp, ih, Memory.get, if_neg ha]

/-- A byte that the one memory does not list is read in the other. -/
theorem Memory.get_append (j : Nat) (n : Memory) : ∀ m : Memory, (∀ c ∈ m, c.1 ≠ j) → Memory.get (m ++ n) j = n.get j := by
  intro m
  induction m with
  | nil => intro _; rfl
  | cons c m ih =>
    intro h
    obtain ⟨a, v⟩ := c
    simp only [List.cons_append, Memory.get]
    rw [if_neg (h (a, v) (List.mem_cons_self ..)), ih fun d hd => h d (List.mem_cons_of_mem _ hd)]

theorem Memory.get_append_left (j : Nat) (n : Memory) (hn : n.get j = 0) : ∀ m : Memory, Memory.get (m ++ n) j = m.get j := by
  intro m
  induction m with
  | nil => exact hn
  | cons c m ih =>
    obtain ⟨a, v⟩ := c
    simp only [List.cons_append, Memory.get, ih]

theorem Memory.get_of_none (j : Nat) : ∀ m : Memory, (∀ c ∈ m, c.1 ≠ j) → m.get j = 0 := by
  intro m h
  simpa [Memory.get] using Memory.get_append j [] m h

theorem Memory.get_cells (j : Nat) (bs : List Byte) : ∀ a,
    (Memory.cells a bs).get j = if a ≤ j ∧ j < a + bs.length then bs.getD (j - a) 0 else 0 := by
  induction bs with
  | nil => intro a; simp [Memory.cells, Memory.get, show ¬(a ≤ j ∧ j < a) by omega]
  | cons b bs ih =>
    intro a
    have key : (Memory.cells a (b :: bs)).get j = if a = j then b else (Memory.cells (a + 1) bs).get j := by
      simp only [Memory.cells]
      by_cases hb : b = 0
      · rw [if_pos hb]
        by_cases ha : a = j
        · rw [if_pos ha, hb]
          exact Memory.get_of_none j _ fun c hc => by have := (Memory.cells_lt bs (a + 1) c hc).1; omega
        · rw [if_neg ha]
      · rw [if_neg hb]; rfl
    rw [key, ih, List.length_cons]
    by_cases ha : a = j
    · subst ha
      simp
    · rw [if_neg ha]
      by_cases h2 : a + 1 ≤ j ∧ j < a + 1 + bs.length
      · rw [if_pos h2, if_pos (by omega), show j - a = (j - (a + 1)) + 1 by omega, List.getD_cons_succ]
      · rw [if_neg h2, if_neg (by omega)]

/-- A byte read after bytes stored: the stored byte inside their range, what it was outside. -/
theorem Memory.get_write (bs : List Byte) {m : Memory} (a j : Nat) :
    (m.write a bs).get j = if a ≤ j ∧ j < a + bs.length then bs.getD (j - a) 0 else m.get j := by
  have low := Memory.get_filter (fun k => decide (k < a)) j m
  have high := Memory.get_filter (fun k => decide (a + bs.length ≤ k)) j m
  have mid := Memory.get_cells j bs a
  simp only [decide_eq_true_eq] at low high
  unfold Memory.write
  by_cases h1 : j < a
  · rw [if_neg (by omega), Memory.get_append_left, low, if_pos h1]
    rw [Memory.get_append_left, mid, if_neg (by omega)]
    rw [high, if_neg (by omega)]
  · rw [Memory.get_append]
    · by_cases h2 : j < a + bs.length
      · rw [Memory.get_append_left, mid, if_pos (by omega), if_pos (by omega)]
        rw [high, if_neg (by omega)]
      · rw [Memory.get_append, high, if_pos (by omega), if_neg (by omega)]
        intro c hc
        have := Memory.cells_lt bs a c hc
        omega
    · intro c hc
      have : c.1 < a := by simpa using (List.mem_filter.1 hc).2
      omega

/-- Bytes read where bytes were stored are those. -/
theorem Memory.read_write (bs : List Byte) {m : Memory} (a : Nat) :
    (m.write a bs).read a bs.length = bs := by
  have step : ∀ (n d : Nat), d + n = bs.length → (m.write a bs).read (a + d) n = bs.drop d := by
    intro n
    induction n with
    | zero => intro d hd; rw [List.drop_eq_nil_of_le (by omega)]; rfl
    | succ n ih =>
      intro d hd
      have hlt : d < bs.length := by omega
      rw [Memory.read, Memory.get_write bs a (a + d), if_pos (by omega), List.drop_eq_getElem_cons hlt,
        show a + d + 1 = a + (d + 1) by omega, ih (d + 1) (by omega)]
      simp [hlt]
  simpa using step bs.length 0 (by omega)

end Sys2Proof.Machine
end

