-- ==== Sys2Proof/Laws/State.lean ====
section
/-! SUPPORT. What each update of the state leaves alone: one lemma per field per update, so that no later proof
unfolds a record update. -/

namespace Sys2Proof.Machine

variable (s : State) (t : Team) (b : Braid) (x : Lane) (uid rank n : Nat) (m : Mask) (v : Word) (g : Tag)


/-! State.setTeam -/

@[simp] theorem State.setTeam_mem : (s.setTeam t).mem = s.mem := rfl
@[simp] theorem State.setTeam_chip : (s.setTeam t).chip = s.chip := rfl
@[simp] theorem State.setTeam_launches : (s.setTeam t).launches = s.launches := rfl
@[simp] theorem State.setTeam_parts : (s.setTeam t).parts = s.parts := rfl
@[simp] theorem State.setTeam_clock : (s.setTeam t).clock = s.clock := rfl
@[simp] theorem State.setTeam_time : (s.setTeam t).time = s.time := rfl
@[simp] theorem State.setTeam_timeFrac : (s.setTeam t).timeFrac = s.timeFrac := rfl
@[simp] theorem State.setTeam_ptpLocked : (s.setTeam t).ptpLocked = s.ptpLocked := rfl
@[simp] theorem State.setTeam_ptpPort1 : (s.setTeam t).ptpPort1 = s.ptpPort1 := rfl
@[simp] theorem State.setTeam_ptpOffset : (s.setTeam t).ptpOffset = s.ptpOffset := rfl
@[simp] theorem State.setTeam_slew : (s.setTeam t).slew = s.slew := rfl
@[simp] theorem State.setTeam_devid : (s.setTeam t).devid = s.devid := rfl
@[simp] theorem State.setTeam_lcstate : (s.setTeam t).lcstate = s.lcstate := rfl
@[simp] theorem State.setTeam_lcNext : (s.setTeam t).lcNext = s.lcNext := rfl
@[simp] theorem State.setTeam_bootstage : (s.setTeam t).bootstage = s.bootstage := rfl
@[simp] theorem State.setTeam_boot : (s.setTeam t).boot = s.boot := rfl
@[simp] theorem State.setTeam_meas : (s.setTeam t).meas = s.meas := rfl
@[simp] theorem State.setTeam_idKey : (s.setTeam t).idKey = s.idKey := rfl
@[simp] theorem State.setTeam_pkgSlope : (s.setTeam t).pkgSlope = s.pkgSlope := rfl
@[simp] theorem State.setTeam_cxl : (s.setTeam t).cxl = s.cxl := rfl
@[simp] theorem State.setTeam_soft : (s.setTeam t).soft = s.soft := rfl
@[simp] theorem State.setTeam_pointers : (s.setTeam t).pointers = s.pointers := rfl
@[simp] theorem State.setTeam_served : (s.setTeam t).served = s.served := rfl
@[simp] theorem State.setTeam_busyNext : (s.setTeam t).busyNext = s.busyNext := rfl
@[simp] theorem State.setTeam_issued : (s.setTeam t).issued = s.issued := rfl
@[simp] theorem State.setTeam_turns : (s.setTeam t).turns = s.turns := rfl
@[simp] theorem State.setTeam_autoDone : (s.setTeam t).autoDone = s.autoDone := rfl
@[simp] theorem State.setTeam_tripped : (s.setTeam t).tripped = s.tripped := rfl
@[simp] theorem State.setTeam_copies : (s.setTeam t).copies = s.copies := rfl
@[simp] theorem State.setTeam_held : (s.setTeam t).held = s.held := rfl
@[simp] theorem State.setTeam_fetched : (s.setTeam t).fetched = s.fetched := rfl
@[simp] theorem State.setTeam_shadow : (s.setTeam t).shadow = s.shadow := rfl
@[simp] theorem State.setTeam_shadowRoom : (s.setTeam t).shadowRoom = s.shadowRoom := rfl
@[simp] theorem State.setTeam_locRels : (s.setTeam t).locRels = s.locRels := rfl
@[simp] theorem State.setTeam_parties : (s.setTeam t).parties = s.parties := rfl
@[simp] theorem State.setTeam_uids : (s.setTeam t).uids = s.uids := rfl
@[simp] theorem State.setTeam_launchNums : (s.setTeam t).launchNums = s.launchNums := rfl
@[simp] theorem State.setTeam_faultIds : (s.setTeam t).faultIds = s.faultIds := rfl
@[simp] theorem State.setTeam_tags : (s.setTeam t).tags = s.tags := rfl
@[simp] theorem State.setTeam_choices : (s.setTeam t).choices = s.choices := rfl
@[simp] theorem State.setTeam_ptpSynced : (s.setTeam t).ptpSynced = s.ptpSynced := rfl
@[simp] theorem State.setTeam_fusedKey : (s.setTeam t).fusedKey = s.fusedKey := rfl
@[simp] theorem State.setTeam_hot : (s.setTeam t).hot = s.hot := rfl
@[simp] theorem State.setTeam_fabOut : (s.setTeam t).fabOut = s.fabOut := rfl
@[simp] theorem State.setTeam_txs : (s.setTeam t).txs = s.txs := rfl
@[simp] theorem State.setTeam_ackSums : (s.setTeam t).ackSums = s.ackSums := rfl
@[simp] theorem State.setTeam_reds : (s.setTeam t).reds = s.reds := rfl
@[simp] theorem State.setTeam_rcv : (s.setTeam t).rcv = s.rcv := rfl
@[simp] theorem State.setTeam_atomLog : (s.setTeam t).atomLog = s.atomLog := rfl
@[simp] theorem State.setTeam_links : (s.setTeam t).links = s.links := rfl
@[simp] theorem State.setTeam_linkOut : (s.setTeam t).linkOut = s.linkOut := rfl
@[simp] theorem State.setTeam_routes : (s.setTeam t).routes = s.routes := rfl
@[simp] theorem State.setTeam_sched : (s.setTeam t).sched = s.sched := rfl
@[simp] theorem State.setTeam_relay : (s.setTeam t).relay = s.relay := rfl
@[simp] theorem State.setTeam_hostOut : (s.setTeam t).hostOut = s.hostOut := rfl
@[simp] theorem State.setTeam_gazebo : (s.setTeam t).gazebo = s.gazebo := rfl
@[simp] theorem State.setTeam_cur : (s.setTeam t).cur = s.cur := rfl
@[simp] theorem State.setTeam_second : (s.setTeam t).second = s.second := rfl
@[simp] theorem State.setTeam_inputs : (s.setTeam t).inputs = s.inputs := rfl
@[simp] theorem State.setTeam_deferred : (s.setTeam t).deferred = s.deferred := rfl

/-! State.modTeam -/

@[simp] theorem State.modTeam_mem (k : Team → Team) : (s.modTeam uid k).mem = s.mem := rfl
@[simp] theorem State.modTeam_chip (k : Team → Team) : (s.modTeam uid k).chip = s.chip := rfl
@[simp] theorem State.modTeam_launches (k : Team → Team) : (s.modTeam uid k).launches = s.launches := rfl
@[simp] theorem State.modTeam_parts (k : Team → Team) : (s.modTeam uid k).parts = s.parts := rfl
@[simp] theorem State.modTeam_clock (k : Team → Team) : (s.modTeam uid k).clock = s.clock := rfl
@[simp] theorem State.modTeam_time (k : Team → Team) : (s.modTeam uid k).time = s.time := rfl
@[simp] theorem State.modTeam_timeFrac (k : Team → Team) : (s.modTeam uid k).timeFrac = s.timeFrac := rfl
@[simp] theorem State.modTeam_ptpLocked (k : Team → Team) : (s.modTeam uid k).ptpLocked = s.ptpLocked := rfl
@[simp] theorem State.modTeam_ptpPort1 (k : Team → Team) : (s.modTeam uid k).ptpPort1 = s.ptpPort1 := rfl
@[simp] theorem State.modTeam_ptpOffset (k : Team → Team) : (s.modTeam uid k).ptpOffset = s.ptpOffset := rfl
@[simp] theorem State.modTeam_slew (k : Team → Team) : (s.modTeam uid k).slew = s.slew := rfl
@[simp] theorem State.modTeam_devid (k : Team → Team) : (s.modTeam uid k).devid = s.devid := rfl
@[simp] theorem State.modTeam_lcstate (k : Team → Team) : (s.modTeam uid k).lcstate = s.lcstate := rfl
@[simp] theorem State.modTeam_lcNext (k : Team → Team) : (s.modTeam uid k).lcNext = s.lcNext := rfl
@[simp] theorem State.modTeam_bootstage (k : Team → Team) : (s.modTeam uid k).bootstage = s.bootstage := rfl
@[simp] theorem State.modTeam_boot (k : Team → Team) : (s.modTeam uid k).boot = s.boot := rfl
@[simp] theorem State.modTeam_meas (k : Team → Team) : (s.modTeam uid k).meas = s.meas := rfl
@[simp] theorem State.modTeam_idKey (k : Team → Team) : (s.modTeam uid k).idKey = s.idKey := rfl
@[simp] theorem State.modTeam_pkgSlope (k : Team → Team) : (s.modTeam uid k).pkgSlope = s.pkgSlope := rfl
@[simp] theorem State.modTeam_cxl (k : Team → Team) : (s.modTeam uid k).cxl = s.cxl := rfl
@[simp] theorem State.modTeam_soft (k : Team → Team) : (s.modTeam uid k).soft = s.soft := rfl
@[simp] theorem State.modTeam_pointers (k : Team → Team) : (s.modTeam uid k).pointers = s.pointers := rfl
@[simp] theorem State.modTeam_served (k : Team → Team) : (s.modTeam uid k).served = s.served := rfl
@[simp] theorem State.modTeam_busyNext (k : Team → Team) : (s.modTeam uid k).busyNext = s.busyNext := rfl
@[simp] theorem State.modTeam_issued (k : Team → Team) : (s.modTeam uid k).issued = s.issued := rfl
@[simp] theorem State.modTeam_turns (k : Team → Team) : (s.modTeam uid k).turns = s.turns := rfl
@[simp] theorem State.modTeam_autoDone (k : Team → Team) : (s.modTeam uid k).autoDone = s.autoDone := rfl
@[simp] theorem State.modTeam_tripped (k : Team → Team) : (s.modTeam uid k).tripped = s.tripped := rfl
@[simp] theorem State.modTeam_copies (k : Team → Team) : (s.modTeam uid k).copies = s.copies := rfl
@[simp] theorem State.modTeam_held (k : Team → Team) : (s.modTeam uid k).held = s.held := rfl
@[simp] theorem State.modTeam_fetched (k : Team → Team) : (s.modTeam uid k).fetched = s.fetched := rfl
@[simp] theorem State.modTeam_shadow (k : Team → Team) : (s.modTeam uid k).shadow = s.shadow := rfl
@[simp] theorem State.modTeam_shadowRoom (k : Team → Team) : (s.modTeam uid k).shadowRoom = s.shadowRoom := rfl
@[simp] theorem State.modTeam_locRels (k : Team → Team) : (s.modTeam uid k).locRels = s.locRels := rfl
@[simp] theorem State.modTeam_parties (k : Team → Team) : (s.modTeam uid k).parties = s.parties := rfl
@[simp] theorem State.modTeam_uids (k : Team → Team) : (s.modTeam uid k).uids = s.uids := rfl
@[simp] theorem State.modTeam_launchNums (k : Team → Team) : (s.modTeam uid k).launchNums = s.launchNums := rfl
@[simp] theorem State.modTeam_faultIds (k : Team → Team) : (s.modTeam uid k).faultIds = s.faultIds := rfl
@[simp] theorem State.modTeam_tags (k : Team → Team) : (s.modTeam uid k).tags = s.tags := rfl
@[simp] theorem State.modTeam_choices (k : Team → Team) : (s.modTeam uid k).choices = s.choices := rfl
@[simp] theorem State.modTeam_ptpSynced (k : Team → Team) : (s.modTeam uid k).ptpSynced = s.ptpSynced := rfl
@[simp] theorem State.modTeam_fusedKey (k : Team → Team) : (s.modTeam uid k).fusedKey = s.fusedKey := rfl
@[simp] theorem State.modTeam_hot (k : Team → Team) : (s.modTeam uid k).hot = s.hot := rfl
@[simp] theorem State.modTeam_fabOut (k : Team → Team) : (s.modTeam uid k).fabOut = s.fabOut := rfl
@[simp] theorem State.modTeam_txs (k : Team → Team) : (s.modTeam uid k).txs = s.txs := rfl
@[simp] theorem State.modTeam_ackSums (k : Team → Team) : (s.modTeam uid k).ackSums = s.ackSums := rfl
@[simp] theorem State.modTeam_reds (k : Team → Team) : (s.modTeam uid k).reds = s.reds := rfl
@[simp] theorem State.modTeam_rcv (k : Team → Team) : (s.modTeam uid k).rcv = s.rcv := rfl
@[simp] theorem State.modTeam_atomLog (k : Team → Team) : (s.modTeam uid k).atomLog = s.atomLog := rfl
@[simp] theorem State.modTeam_links (k : Team → Team) : (s.modTeam uid k).links = s.links := rfl
@[simp] theorem State.modTeam_linkOut (k : Team → Team) : (s.modTeam uid k).linkOut = s.linkOut := rfl
@[simp] theorem State.modTeam_routes (k : Team → Team) : (s.modTeam uid k).routes = s.routes := rfl
@[simp] theorem State.modTeam_sched (k : Team → Team) : (s.modTeam uid k).sched = s.sched := rfl
@[simp] theorem State.modTeam_relay (k : Team → Team) : (s.modTeam uid k).relay = s.relay := rfl
@[simp] theorem State.modTeam_hostOut (k : Team → Team) : (s.modTeam uid k).hostOut = s.hostOut := rfl
@[simp] theorem State.modTeam_gazebo (k : Team → Team) : (s.modTeam uid k).gazebo = s.gazebo := rfl
@[simp] theorem State.modTeam_cur (k : Team → Team) : (s.modTeam uid k).cur = s.cur := rfl
@[simp] theorem State.modTeam_second (k : Team → Team) : (s.modTeam uid k).second = s.second := rfl
@[simp] theorem State.modTeam_inputs (k : Team → Team) : (s.modTeam uid k).inputs = s.inputs := rfl
@[simp] theorem State.modTeam_deferred (k : Team → Team) : (s.modTeam uid k).deferred = s.deferred := rfl

/-! State.modLaunch -/

@[simp] theorem State.modLaunch_mem (k : Launch → Launch) : (s.modLaunch n k).mem = s.mem := rfl
@[simp] theorem State.modLaunch_chip (k : Launch → Launch) : (s.modLaunch n k).chip = s.chip := rfl
@[simp] theorem State.modLaunch_teams (k : Launch → Launch) : (s.modLaunch n k).teams = s.teams := rfl
@[simp] theorem State.modLaunch_parts (k : Launch → Launch) : (s.modLaunch n k).parts = s.parts := rfl
@[simp] theorem State.modLaunch_clock (k : Launch → Launch) : (s.modLaunch n k).clock = s.clock := rfl
@[simp] theorem State.modLaunch_time (k : Launch → Launch) : (s.modLaunch n k).time = s.time := rfl
@[simp] theorem State.modLaunch_timeFrac (k : Launch → Launch) : (s.modLaunch n k).timeFrac = s.timeFrac := rfl
@[simp] theorem State.modLaunch_ptpLocked (k : Launch → Launch) : (s.modLaunch n k).ptpLocked = s.ptpLocked := rfl
@[simp] theorem State.modLaunch_ptpPort1 (k : Launch → Launch) : (s.modLaunch n k).ptpPort1 = s.ptpPort1 := rfl
@[simp] theorem State.modLaunch_ptpOffset (k : Launch → Launch) : (s.modLaunch n k).ptpOffset = s.ptpOffset := rfl
@[simp] theorem State.modLaunch_slew (k : Launch → Launch) : (s.modLaunch n k).slew = s.slew := rfl
@[simp] theorem State.modLaunch_devid (k : Launch → Launch) : (s.modLaunch n k).devid = s.devid := rfl
@[simp] theorem State.modLaunch_lcstate (k : Launch → Launch) : (s.modLaunch n k).lcstate = s.lcstate := rfl
@[simp] theorem State.modLaunch_lcNext (k : Launch → Launch) : (s.modLaunch n k).lcNext = s.lcNext := rfl
@[simp] theorem State.modLaunch_bootstage (k : Launch → Launch) : (s.modLaunch n k).bootstage = s.bootstage := rfl
@[simp] theorem State.modLaunch_boot (k : Launch → Launch) : (s.modLaunch n k).boot = s.boot := rfl
@[simp] theorem State.modLaunch_meas (k : Launch → Launch) : (s.modLaunch n k).meas = s.meas := rfl
@[simp] theorem State.modLaunch_idKey (k : Launch → Launch) : (s.modLaunch n k).idKey = s.idKey := rfl
@[simp] theorem State.modLaunch_pkgSlope (k : Launch → Launch) : (s.modLaunch n k).pkgSlope = s.pkgSlope := rfl
@[simp] theorem State.modLaunch_cxl (k : Launch → Launch) : (s.modLaunch n k).cxl = s.cxl := rfl
@[simp] theorem State.modLaunch_soft (k : Launch → Launch) : (s.modLaunch n k).soft = s.soft := rfl
@[simp] theorem State.modLaunch_pointers (k : Launch → Launch) : (s.modLaunch n k).pointers = s.pointers := rfl
@[simp] theorem State.modLaunch_served (k : Launch → Launch) : (s.modLaunch n k).served = s.served := rfl
@[simp] theorem State.modLaunch_busyNext (k : Launch → Launch) : (s.modLaunch n k).busyNext = s.busyNext := rfl
@[simp] theorem State.modLaunch_issued (k : Launch → Launch) : (s.modLaunch n k).issued = s.issued := rfl
@[simp] theorem State.modLaunch_turns (k : Launch → Launch) : (s.modLaunch n k).turns = s.turns := rfl
@[simp] theorem State.modLaunch_autoDone (k : Launch → Launch) : (s.modLaunch n k).autoDone = s.autoDone := rfl
@[simp] theorem State.modLaunch_tripped (k : Launch → Launch) : (s.modLaunch n k).tripped = s.tripped := rfl
@[simp] theorem State.modLaunch_copies (k : Launch → Launch) : (s.modLaunch n k).copies = s.copies := rfl
@[simp] theorem State.modLaunch_held (k : Launch → Launch) : (s.modLaunch n k).held = s.held := rfl
@[simp] theorem State.modLaunch_fetched (k : Launch → Launch) : (s.modLaunch n k).fetched = s.fetched := rfl
@[simp] theorem State.modLaunch_shadow (k : Launch → Launch) : (s.modLaunch n k).shadow = s.shadow := rfl
@[simp] theorem State.modLaunch_shadowRoom (k : Launch → Launch) : (s.modLaunch n k).shadowRoom = s.shadowRoom := rfl
@[simp] theorem State.modLaunch_locRels (k : Launch → Launch) : (s.modLaunch n k).locRels = s.locRels := rfl
@[simp] theorem State.modLaunch_parties (k : Launch → Launch) : (s.modLaunch n k).parties = s.parties := rfl
@[simp] theorem State.modLaunch_uids (k : Launch → Launch) : (s.modLaunch n k).uids = s.uids := rfl
@[simp] theorem State.modLaunch_launchNums (k : Launch → Launch) : (s.modLaunch n k).launchNums = s.launchNums := rfl
@[simp] theorem State.modLaunch_faultIds (k : Launch → Launch) : (s.modLaunch n k).faultIds = s.faultIds := rfl
@[simp] theorem State.modLaunch_tags (k : Launch → Launch) : (s.modLaunch n k).tags = s.tags := rfl
@[simp] theorem State.modLaunch_choices (k : Launch → Launch) : (s.modLaunch n k).choices = s.choices := rfl
@[simp] theorem State.modLaunch_ptpSynced (k : Launch → Launch) : (s.modLaunch n k).ptpSynced = s.ptpSynced := rfl
@[simp] theorem State.modLaunch_fusedKey (k : Launch → Launch) : (s.modLaunch n k).fusedKey = s.fusedKey := rfl
@[simp] theorem State.modLaunch_hot (k : Launch → Launch) : (s.modLaunch n k).hot = s.hot := rfl
@[simp] theorem State.modLaunch_fabOut (k : Launch → Launch) : (s.modLaunch n k).fabOut = s.fabOut := rfl
@[simp] theorem State.modLaunch_txs (k : Launch → Launch) : (s.modLaunch n k).txs = s.txs := rfl
@[simp] theorem State.modLaunch_ackSums (k : Launch → Launch) : (s.modLaunch n k).ackSums = s.ackSums := rfl
@[simp] theorem State.modLaunch_reds (k : Launch → Launch) : (s.modLaunch n k).reds = s.reds := rfl
@[simp] theorem State.modLaunch_rcv (k : Launch → Launch) : (s.modLaunch n k).rcv = s.rcv := rfl
@[simp] theorem State.modLaunch_atomLog (k : Launch → Launch) : (s.modLaunch n k).atomLog = s.atomLog := rfl
@[simp] theorem State.modLaunch_links (k : Launch → Launch) : (s.modLaunch n k).links = s.links := rfl
@[simp] theorem State.modLaunch_linkOut (k : Launch → Launch) : (s.modLaunch n k).linkOut = s.linkOut := rfl
@[simp] theorem State.modLaunch_routes (k : Launch → Launch) : (s.modLaunch n k).routes = s.routes := rfl
@[simp] theorem State.modLaunch_sched (k : Launch → Launch) : (s.modLaunch n k).sched = s.sched := rfl
@[simp] theorem State.modLaunch_relay (k : Launch → Launch) : (s.modLaunch n k).relay = s.relay := rfl
@[simp] theorem State.modLaunch_hostOut (k : Launch → Launch) : (s.modLaunch n k).hostOut = s.hostOut := rfl
@[simp] theorem State.modLaunch_gazebo (k : Launch → Launch) : (s.modLaunch n k).gazebo = s.gazebo := rfl
@[simp] theorem State.modLaunch_cur (k : Launch → Launch) : (s.modLaunch n k).cur = s.cur := rfl
@[simp] theorem State.modLaunch_second (k : Launch → Launch) : (s.modLaunch n k).second = s.second := rfl
@[simp] theorem State.modLaunch_inputs (k : Launch → Launch) : (s.modLaunch n k).inputs = s.inputs := rfl
@[simp] theorem State.modLaunch_deferred (k : Launch → Launch) : (s.modLaunch n k).deferred = s.deferred := rfl

/-! State.modPart -/

@[simp] theorem State.modPart_mem (k : Partition → Partition) : (s.modPart n k).mem = s.mem := rfl
@[simp] theorem State.modPart_chip (k : Partition → Partition) : (s.modPart n k).chip = s.chip := rfl
@[simp] theorem State.modPart_teams (k : Partition → Partition) : (s.modPart n k).teams = s.teams := rfl
@[simp] theorem State.modPart_launches (k : Partition → Partition) : (s.modPart n k).launches = s.launches := rfl
@[simp] theorem State.modPart_clock (k : Partition → Partition) : (s.modPart n k).clock = s.clock := rfl
@[simp] theorem State.modPart_time (k : Partition → Partition) : (s.modPart n k).time = s.time := rfl
@[simp] theorem State.modPart_timeFrac (k : Partition → Partition) : (s.modPart n k).timeFrac = s.timeFrac := rfl
@[simp] theorem State.modPart_ptpLocked (k : Partition → Partition) : (s.modPart n k).ptpLocked = s.ptpLocked := rfl
@[simp] theorem State.modPart_ptpPort1 (k : Partition → Partition) : (s.modPart n k).ptpPort1 = s.ptpPort1 := rfl
@[simp] theorem State.modPart_ptpOffset (k : Partition → Partition) : (s.modPart n k).ptpOffset = s.ptpOffset := rfl
@[simp] theorem State.modPart_slew (k : Partition → Partition) : (s.modPart n k).slew = s.slew := rfl
@[simp] theorem State.modPart_devid (k : Partition → Partition) : (s.modPart n k).devid = s.devid := rfl
@[simp] theorem State.modPart_lcstate (k : Partition → Partition) : (s.modPart n k).lcstate = s.lcstate := rfl
@[simp] theorem State.modPart_lcNext (k : Partition → Partition) : (s.modPart n k).lcNext = s.lcNext := rfl
@[simp] theorem State.modPart_bootstage (k : Partition → Partition) : (s.modPart n k).bootstage = s.bootstage := rfl
@[simp] theorem State.modPart_boot (k : Partition → Partition) : (s.modPart n k).boot = s.boot := rfl
@[simp] theorem State.modPart_meas (k : Partition → Partition) : (s.modPart n k).meas = s.meas := rfl
@[simp] theorem State.modPart_idKey (k : Partition → Partition) : (s.modPart n k).idKey = s.idKey := rfl
@[simp] theorem State.modPart_pkgSlope (k : Partition → Partition) : (s.modPart n k).pkgSlope = s.pkgSlope := rfl
@[simp] theorem State.modPart_cxl (k : Partition → Partition) : (s.modPart n k).cxl = s.cxl := rfl
@[simp] theorem State.modPart_soft (k : Partition → Partition) : (s.modPart n k).soft = s.soft := rfl
@[simp] theorem State.modPart_pointers (k : Partition → Partition) : (s.modPart n k).pointers = s.pointers := rfl
@[simp] theorem State.modPart_served (k : Partition → Partition) : (s.modPart n k).served = s.served := rfl
@[simp] theorem State.modPart_busyNext (k : Partition → Partition) : (s.modPart n k).busyNext = s.busyNext := rfl
@[simp] theorem State.modPart_issued (k : Partition → Partition) : (s.modPart n k).issued = s.issued := rfl
@[simp] theorem State.modPart_turns (k : Partition → Partition) : (s.modPart n k).turns = s.turns := rfl
@[simp] theorem State.modPart_autoDone (k : Partition → Partition) : (s.modPart n k).autoDone = s.autoDone := rfl
@[simp] theorem State.modPart_tripped (k : Partition → Partition) : (s.modPart n k).tripped = s.tripped := rfl
@[simp] theorem State.modPart_copies (k : Partition → Partition) : (s.modPart n k).copies = s.copies := rfl
@[simp] theorem State.modPart_held (k : Partition → Partition) : (s.modPart n k).held = s.held := rfl
@[simp] theorem State.modPart_fetched (k : Partition → Partition) : (s.modPart n k).fetched = s.fetched := rfl
@[simp] theorem State.modPart_shadow (k : Partition → Partition) : (s.modPart n k).shadow = s.shadow := rfl
@[simp] theorem State.modPart_shadowRoom (k : Partition → Partition) : (s.modPart n k).shadowRoom = s.shadowRoom := rfl
@[simp] theorem State.modPart_locRels (k : Partition → Partition) : (s.modPart n k).locRels = s.locRels := rfl
@[simp] theorem State.modPart_parties (k : Partition → Partition) : (s.modPart n k).parties = s.parties := rfl
@[simp] theorem State.modPart_uids (k : Partition → Partition) : (s.modPart n k).uids = s.uids := rfl
@[simp] theorem State.modPart_launchNums (k : Partition → Partition) : (s.modPart n k).launchNums = s.launchNums := rfl
@[simp] theorem State.modPart_faultIds (k : Partition → Partition) : (s.modPart n k).faultIds = s.faultIds := rfl
@[simp] theorem State.modPart_tags (k : Partition → Partition) : (s.modPart n k).tags = s.tags := rfl
@[simp] theorem State.modPart_choices (k : Partition → Partition) : (s.modPart n k).choices = s.choices := rfl
@[simp] theorem State.modPart_ptpSynced (k : Partition → Partition) : (s.modPart n k).ptpSynced = s.ptpSynced := rfl
@[simp] theorem State.modPart_fusedKey (k : Partition → Partition) : (s.modPart n k).fusedKey = s.fusedKey := rfl
@[simp] theorem State.modPart_hot (k : Partition → Partition) : (s.modPart n k).hot = s.hot := rfl
@[simp] theorem State.modPart_fabOut (k : Partition → Partition) : (s.modPart n k).fabOut = s.fabOut := rfl
@[simp] theorem State.modPart_txs (k : Partition → Partition) : (s.modPart n k).txs = s.txs := rfl
@[simp] theorem State.modPart_ackSums (k : Partition → Partition) : (s.modPart n k).ackSums = s.ackSums := rfl
@[simp] theorem State.modPart_reds (k : Partition → Partition) : (s.modPart n k).reds = s.reds := rfl
@[simp] theorem State.modPart_rcv (k : Partition → Partition) : (s.modPart n k).rcv = s.rcv := rfl
@[simp] theorem State.modPart_atomLog (k : Partition → Partition) : (s.modPart n k).atomLog = s.atomLog := rfl
@[simp] theorem State.modPart_links (k : Partition → Partition) : (s.modPart n k).links = s.links := rfl
@[simp] theorem State.modPart_linkOut (k : Partition → Partition) : (s.modPart n k).linkOut = s.linkOut := rfl
@[simp] theorem State.modPart_routes (k : Partition → Partition) : (s.modPart n k).routes = s.routes := rfl
@[simp] theorem State.modPart_sched (k : Partition → Partition) : (s.modPart n k).sched = s.sched := rfl
@[simp] theorem State.modPart_relay (k : Partition → Partition) : (s.modPart n k).relay = s.relay := rfl
@[simp] theorem State.modPart_hostOut (k : Partition → Partition) : (s.modPart n k).hostOut = s.hostOut := rfl
@[simp] theorem State.modPart_gazebo (k : Partition → Partition) : (s.modPart n k).gazebo = s.gazebo := rfl
@[simp] theorem State.modPart_cur (k : Partition → Partition) : (s.modPart n k).cur = s.cur := rfl
@[simp] theorem State.modPart_second (k : Partition → Partition) : (s.modPart n k).second = s.second := rfl
@[simp] theorem State.modPart_inputs (k : Partition → Partition) : (s.modPart n k).inputs = s.inputs := rfl
@[simp] theorem State.modPart_deferred (k : Partition → Partition) : (s.modPart n k).deferred = s.deferred := rfl

/-! State.modBraid -/

@[simp] theorem State.modBraid_mem (k : Braid → Braid) : (s.modBraid uid rank k).mem = s.mem := rfl
@[simp] theorem State.modBraid_chip (k : Braid → Braid) : (s.modBraid uid rank k).chip = s.chip := rfl
@[simp] theorem State.modBraid_launches (k : Braid → Braid) : (s.modBraid uid rank k).launches = s.launches := rfl
@[simp] theorem State.modBraid_parts (k : Braid → Braid) : (s.modBraid uid rank k).parts = s.parts := rfl
@[simp] theorem State.modBraid_clock (k : Braid → Braid) : (s.modBraid uid rank k).clock = s.clock := rfl
@[simp] theorem State.modBraid_time (k : Braid → Braid) : (s.modBraid uid rank k).time = s.time := rfl
@[simp] theorem State.modBraid_timeFrac (k : Braid → Braid) : (s.modBraid uid rank k).timeFrac = s.timeFrac := rfl
@[simp] theorem State.modBraid_ptpLocked (k : Braid → Braid) : (s.modBraid uid rank k).ptpLocked = s.ptpLocked := rfl
@[simp] theorem State.modBraid_ptpPort1 (k : Braid → Braid) : (s.modBraid uid rank k).ptpPort1 = s.ptpPort1 := rfl
@[simp] theorem State.modBraid_ptpOffset (k : Braid → Braid) : (s.modBraid uid rank k).ptpOffset = s.ptpOffset := rfl
@[simp] theorem State.modBraid_slew (k : Braid → Braid) : (s.modBraid uid rank k).slew = s.slew := rfl
@[simp] theorem State.modBraid_devid (k : Braid → Braid) : (s.modBraid uid rank k).devid = s.devid := rfl
@[simp] theorem State.modBraid_lcstate (k : Braid → Braid) : (s.modBraid uid rank k).lcstate = s.lcstate := rfl
@[simp] theorem State.modBraid_lcNext (k : Braid → Braid) : (s.modBraid uid rank k).lcNext = s.lcNext := rfl
@[simp] theorem State.modBraid_bootstage (k : Braid → Braid) : (s.modBraid uid rank k).bootstage = s.bootstage := rfl
@[simp] theorem State.modBraid_boot (k : Braid → Braid) : (s.modBraid uid rank k).boot = s.boot := rfl
@[simp] theorem State.modBraid_meas (k : Braid → Braid) : (s.modBraid uid rank k).meas = s.meas := rfl
@[simp] theorem State.modBraid_idKey (k : Braid → Braid) : (s.modBraid uid rank k).idKey = s.idKey := rfl
@[simp] theorem State.modBraid_pkgSlope (k : Braid → Braid) : (s.modBraid uid rank k).pkgSlope = s.pkgSlope := rfl
@[simp] theorem State.modBraid_cxl (k : Braid → Braid) : (s.modBraid uid rank k).cxl = s.cxl := rfl
@[simp] theorem State.modBraid_soft (k : Braid → Braid) : (s.modBraid uid rank k).soft = s.soft := rfl
@[simp] theorem State.modBraid_pointers (k : Braid → Braid) : (s.modBraid uid rank k).pointers = s.pointers := rfl
@[simp] theorem State.modBraid_served (k : Braid → Braid) : (s.modBraid uid rank k).served = s.served := rfl
@[simp] theorem State.modBraid_busyNext (k : Braid → Braid) : (s.modBraid uid rank k).busyNext = s.busyNext := rfl
@[simp] theorem State.modBraid_issued (k : Braid → Braid) : (s.modBraid uid rank k).issued = s.issued := rfl
@[simp] theorem State.modBraid_turns (k : Braid → Braid) : (s.modBraid uid rank k).turns = s.turns := rfl
@[simp] theorem State.modBraid_autoDone (k : Braid → Braid) : (s.modBraid uid rank k).autoDone = s.autoDone := rfl
@[simp] theorem State.modBraid_tripped (k : Braid → Braid) : (s.modBraid uid rank k).tripped = s.tripped := rfl
@[simp] theorem State.modBraid_copies (k : Braid → Braid) : (s.modBraid uid rank k).copies = s.copies := rfl
@[simp] theorem State.modBraid_held (k : Braid → Braid) : (s.modBraid uid rank k).held = s.held := rfl
@[simp] theorem State.modBraid_fetched (k : Braid → Braid) : (s.modBraid uid rank k).fetched = s.fetched := rfl
@[simp] theorem State.modBraid_shadow (k : Braid → Braid) : (s.modBraid uid rank k).shadow = s.shadow := rfl
@[simp] theorem State.modBraid_shadowRoom (k : Braid → Braid) : (s.modBraid uid rank k).shadowRoom = s.shadowRoom := rfl
@[simp] theorem State.modBraid_locRels (k : Braid → Braid) : (s.modBraid uid rank k).locRels = s.locRels := rfl
@[simp] theorem State.modBraid_parties (k : Braid → Braid) : (s.modBraid uid rank k).parties = s.parties := rfl
@[simp] theorem State.modBraid_uids (k : Braid → Braid) : (s.modBraid uid rank k).uids = s.uids := rfl
@[simp] theorem State.modBraid_launchNums (k : Braid → Braid) : (s.modBraid uid rank k).launchNums = s.launchNums := rfl
@[simp] theorem State.modBraid_faultIds (k : Braid → Braid) : (s.modBraid uid rank k).faultIds = s.faultIds := rfl
@[simp] theorem State.modBraid_tags (k : Braid → Braid) : (s.modBraid uid rank k).tags = s.tags := rfl
@[simp] theorem State.modBraid_choices (k : Braid → Braid) : (s.modBraid uid rank k).choices = s.choices := rfl
@[simp] theorem State.modBraid_ptpSynced (k : Braid → Braid) : (s.modBraid uid rank k).ptpSynced = s.ptpSynced := rfl
@[simp] theorem State.modBraid_fusedKey (k : Braid → Braid) : (s.modBraid uid rank k).fusedKey = s.fusedKey := rfl
@[simp] theorem State.modBraid_hot (k : Braid → Braid) : (s.modBraid uid rank k).hot = s.hot := rfl
@[simp] theorem State.modBraid_fabOut (k : Braid → Braid) : (s.modBraid uid rank k).fabOut = s.fabOut := rfl
@[simp] theorem State.modBraid_txs (k : Braid → Braid) : (s.modBraid uid rank k).txs = s.txs := rfl
@[simp] theorem State.modBraid_ackSums (k : Braid → Braid) : (s.modBraid uid rank k).ackSums = s.ackSums := rfl
@[simp] theorem State.modBraid_reds (k : Braid → Braid) : (s.modBraid uid rank k).reds = s.reds := rfl
@[simp] theorem State.modBraid_rcv (k : Braid → Braid) : (s.modBraid uid rank k).rcv = s.rcv := rfl
@[simp] theorem State.modBraid_atomLog (k : Braid → Braid) : (s.modBraid uid rank k).atomLog = s.atomLog := rfl
@[simp] theorem State.modBraid_links (k : Braid → Braid) : (s.modBraid uid rank k).links = s.links := rfl
@[simp] theorem State.modBraid_linkOut (k : Braid → Braid) : (s.modBraid uid rank k).linkOut = s.linkOut := rfl
@[simp] theorem State.modBraid_routes (k : Braid → Braid) : (s.modBraid uid rank k).routes = s.routes := rfl
@[simp] theorem State.modBraid_sched (k : Braid → Braid) : (s.modBraid uid rank k).sched = s.sched := rfl
@[simp] theorem State.modBraid_relay (k : Braid → Braid) : (s.modBraid uid rank k).relay = s.relay := rfl
@[simp] theorem State.modBraid_hostOut (k : Braid → Braid) : (s.modBraid uid rank k).hostOut = s.hostOut := rfl
@[simp] theorem State.modBraid_gazebo (k : Braid → Braid) : (s.modBraid uid rank k).gazebo = s.gazebo := rfl
@[simp] theorem State.modBraid_cur (k : Braid → Braid) : (s.modBraid uid rank k).cur = s.cur := rfl
@[simp] theorem State.modBraid_second (k : Braid → Braid) : (s.modBraid uid rank k).second = s.second := rfl
@[simp] theorem State.modBraid_inputs (k : Braid → Braid) : (s.modBraid uid rank k).inputs = s.inputs := rfl
@[simp] theorem State.modBraid_deferred (k : Braid → Braid) : (s.modBraid uid rank k).deferred = s.deferred := rfl

/-! State.modLanes -/

@[simp] theorem State.modLanes_mem (k : Nat → Lane → Lane) : (s.modLanes uid rank m k).mem = s.mem := rfl
@[simp] theorem State.modLanes_chip (k : Nat → Lane → Lane) : (s.modLanes uid rank m k).chip = s.chip := rfl
@[simp] theorem State.modLanes_launches (k : Nat → Lane → Lane) : (s.modLanes uid rank m k).launches = s.launches := rfl
@[simp] theorem State.modLanes_parts (k : Nat → Lane → Lane) : (s.modLanes uid rank m k).parts = s.parts := rfl
@[simp] theorem State.modLanes_clock (k : Nat → Lane → Lane) : (s.modLanes uid rank m k).clock = s.clock := rfl
@[simp] theorem State.modLanes_time (k : Nat → Lane → Lane) : (s.modLanes uid rank m k).time = s.time := rfl
@[simp] theorem State.modLanes_timeFrac (k : Nat → Lane → Lane) : (s.modLanes uid rank m k).timeFrac = s.timeFrac := rfl
@[simp] theorem State.modLanes_ptpLocked (k : Nat → Lane → Lane) : (s.modLanes uid rank m k).ptpLocked = s.ptpLocked := rfl
@[simp] theorem State.modLanes_ptpPort1 (k : Nat → Lane → Lane) : (s.modLanes uid rank m k).ptpPort1 = s.ptpPort1 := rfl
@[simp] theorem State.modLanes_ptpOffset (k : Nat → Lane → Lane) : (s.modLanes uid rank m k).ptpOffset = s.ptpOffset := rfl
@[simp] theorem State.modLanes_slew (k : Nat → Lane → Lane) : (s.modLanes uid rank m k).slew = s.slew := rfl
@[simp] theorem State.modLanes_devid (k : Nat → Lane → Lane) : (s.modLanes uid rank m k).devid = s.devid := rfl
@[simp] theorem State.modLanes_lcstate (k : Nat → Lane → Lane) : (s.modLanes uid rank m k).lcstate = s.lcstate := rfl
@[simp] theorem State.modLanes_lcNext (k : Nat → Lane → Lane) : (s.modLanes uid rank m k).lcNext = s.lcNext := rfl
@[simp] theorem State.modLanes_bootstage (k : Nat → Lane → Lane) : (s.modLanes uid rank m k).bootstage = s.bootstage := rfl
@[simp] theorem State.modLanes_boot (k : Nat → Lane → Lane) : (s.modLanes uid rank m k).boot = s.boot := rfl
@[simp] theorem State.modLanes_meas (k : Nat → Lane → Lane) : (s.modLanes uid rank m k).meas = s.meas := rfl
@[simp] theorem State.modLanes_idKey (k : Nat → Lane → Lane) : (s.modLanes uid rank m k).idKey = s.idKey := rfl
@[simp] theorem State.modLanes_pkgSlope (k : Nat → Lane → Lane) : (s.modLanes uid rank m k).pkgSlope = s.pkgSlope := rfl
@[simp] theorem State.modLanes_cxl (k : Nat → Lane → Lane) : (s.modLanes uid rank m k).cxl = s.cxl := rfl
@[simp] theorem State.modLanes_soft (k : Nat → Lane → Lane) : (s.modLanes uid rank m k).soft = s.soft := rfl
@[simp] theorem State.modLanes_pointers (k : Nat → Lane → Lane) : (s.modLanes uid rank m k).pointers = s.pointers := rfl
@[simp] theorem State.modLanes_served (k : Nat → Lane → Lane) : (s.modLanes uid rank m k).served = s.served := rfl
@[simp] theorem State.modLanes_busyNext (k : Nat → Lane → Lane) : (s.modLanes uid rank m k).busyNext = s.busyNext := rfl
@[simp] theorem State.modLanes_issued (k : Nat → Lane → Lane) : (s.modLanes uid rank m k).issued = s.issued := rfl
@[simp] theorem State.modLanes_turns (k : Nat → Lane → Lane) : (s.modLanes uid rank m k).turns = s.turns := rfl
@[simp] theorem State.modLanes_autoDone (k : Nat → Lane → Lane) : (s.modLanes uid rank m k).autoDone = s.autoDone := rfl
@[simp] theorem State.modLanes_tripped (k : Nat → Lane → Lane) : (s.modLanes uid rank m k).tripped = s.tripped := rfl
@[simp] theorem State.modLanes_copies (k : Nat → Lane → Lane) : (s.modLanes uid rank m k).copies = s.copies := rfl
@[simp] theorem State.modLanes_held (k : Nat → Lane → Lane) : (s.modLanes uid rank m k).held = s.held := rfl
@[simp] theorem State.modLanes_fetched (k : Nat → Lane → Lane) : (s.modLanes uid rank m k).fetched = s.fetched := rfl
@[simp] theorem State.modLanes_shadow (k : Nat → Lane → Lane) : (s.modLanes uid rank m k).shadow = s.shadow := rfl
@[simp] theorem State.modLanes_shadowRoom (k : Nat → Lane → Lane) : (s.modLanes uid rank m k).shadowRoom = s.shadowRoom := rfl
@[simp] theorem State.modLanes_locRels (k : Nat → Lane → Lane) : (s.modLanes uid rank m k).locRels = s.locRels := rfl
@[simp] theorem State.modLanes_parties (k : Nat → Lane → Lane) : (s.modLanes uid rank m k).parties = s.parties := rfl
@[simp] theorem State.modLanes_uids (k : Nat → Lane → Lane) : (s.modLanes uid rank m k).uids = s.uids := rfl
@[simp] theorem State.modLanes_launchNums (k : Nat → Lane → Lane) : (s.modLanes uid rank m k).launchNums = s.launchNums := rfl
@[simp] theorem State.modLanes_faultIds (k : Nat → Lane → Lane) : (s.modLanes uid rank m k).faultIds = s.faultIds := rfl
@[simp] theorem State.modLanes_tags (k : Nat → Lane → Lane) : (s.modLanes uid rank m k).tags = s.tags := rfl
@[simp] theorem State.modLanes_choices (k : Nat → Lane → Lane) : (s.modLanes uid rank m k).choices = s.choices := rfl
@[simp] theorem State.modLanes_ptpSynced (k : Nat → Lane → Lane) : (s.modLanes uid rank m k).ptpSynced = s.ptpSynced := rfl
@[simp] theorem State.modLanes_fusedKey (k : Nat → Lane → Lane) : (s.modLanes uid rank m k).fusedKey = s.fusedKey := rfl
@[simp] theorem State.modLanes_hot (k : Nat → Lane → Lane) : (s.modLanes uid rank m k).hot = s.hot := rfl
@[simp] theorem State.modLanes_fabOut (k : Nat → Lane → Lane) : (s.modLanes uid rank m k).fabOut = s.fabOut := rfl
@[simp] theorem State.modLanes_txs (k : Nat → Lane → Lane) : (s.modLanes uid rank m k).txs = s.txs := rfl
@[simp] theorem State.modLanes_ackSums (k : Nat → Lane → Lane) : (s.modLanes uid rank m k).ackSums = s.ackSums := rfl
@[simp] theorem State.modLanes_reds (k : Nat → Lane → Lane) : (s.modLanes uid rank m k).reds = s.reds := rfl
@[simp] theorem State.modLanes_rcv (k : Nat → Lane → Lane) : (s.modLanes uid rank m k).rcv = s.rcv := rfl
@[simp] theorem State.modLanes_atomLog (k : Nat → Lane → Lane) : (s.modLanes uid rank m k).atomLog = s.atomLog := rfl
@[simp] theorem State.modLanes_links (k : Nat → Lane → Lane) : (s.modLanes uid rank m k).links = s.links := rfl
@[simp] theorem State.modLanes_linkOut (k : Nat → Lane → Lane) : (s.modLanes uid rank m k).linkOut = s.linkOut := rfl
@[simp] theorem State.modLanes_routes (k : Nat → Lane → Lane) : (s.modLanes uid rank m k).routes = s.routes := rfl
@[simp] theorem State.modLanes_sched (k : Nat → Lane → Lane) : (s.modLanes uid rank m k).sched = s.sched := rfl
@[simp] theorem State.modLanes_relay (k : Nat → Lane → Lane) : (s.modLanes uid rank m k).relay = s.relay := rfl
@[simp] theorem State.modLanes_hostOut (k : Nat → Lane → Lane) : (s.modLanes uid rank m k).hostOut = s.hostOut := rfl
@[simp] theorem State.modLanes_gazebo (k : Nat → Lane → Lane) : (s.modLanes uid rank m k).gazebo = s.gazebo := rfl
@[simp] theorem State.modLanes_cur (k : Nat → Lane → Lane) : (s.modLanes uid rank m k).cur = s.cur := rfl
@[simp] theorem State.modLanes_second (k : Nat → Lane → Lane) : (s.modLanes uid rank m k).second = s.second := rfl
@[simp] theorem State.modLanes_inputs (k : Nat → Lane → Lane) : (s.modLanes uid rank m k).inputs = s.inputs := rfl
@[simp] theorem State.modLanes_deferred (k : Nat → Lane → Lane) : (s.modLanes uid rank m k).deferred = s.deferred := rfl

/-! State.dropCopies -/

@[simp] theorem State.dropCopies_mem : (s.dropCopies n rank).mem = s.mem := by unfold State.dropCopies; split <;> rfl
@[simp] theorem State.dropCopies_chip : (s.dropCopies n rank).chip = s.chip := by unfold State.dropCopies; split <;> rfl
@[simp] theorem State.dropCopies_teams : (s.dropCopies n rank).teams = s.teams := by unfold State.dropCopies; split <;> rfl
@[simp] theorem State.dropCopies_launches : (s.dropCopies n rank).launches = s.launches := by unfold State.dropCopies; split <;> rfl
@[simp] theorem State.dropCopies_parts : (s.dropCopies n rank).parts = s.parts := by unfold State.dropCopies; split <;> rfl
@[simp] theorem State.dropCopies_clock : (s.dropCopies n rank).clock = s.clock := by unfold State.dropCopies; split <;> rfl
@[simp] theorem State.dropCopies_time : (s.dropCopies n rank).time = s.time := by unfold State.dropCopies; split <;> rfl
@[simp] theorem State.dropCopies_timeFrac : (s.dropCopies n rank).timeFrac = s.timeFrac := by unfold State.dropCopies; split <;> rfl
@[simp] theorem State.dropCopies_ptpLocked : (s.dropCopies n rank).ptpLocked = s.ptpLocked := by unfold State.dropCopies; split <;> rfl
@[simp] theorem State.dropCopies_ptpPort1 : (s.dropCopies n rank).ptpPort1 = s.ptpPort1 := by unfold State.dropCopies; split <;> rfl
@[simp] theorem State.dropCopies_ptpOffset : (s.dropCopies n rank).ptpOffset = s.ptpOffset := by unfold State.dropCopies; split <;> rfl
@[simp] theorem State.dropCopies_slew : (s.dropCopies n rank).slew = s.slew := by unfold State.dropCopies; split <;> rfl
@[simp] theorem State.dropCopies_devid : (s.dropCopies n rank).devid = s.devid := by unfold State.dropCopies; split <;> rfl
@[simp] theorem State.dropCopies_lcstate : (s.dropCopies n rank).lcstate = s.lcstate := by unfold State.dropCopies; split <;> rfl
@[simp] theorem State.dropCopies_lcNext : (s.dropCopies n rank).lcNext = s.lcNext := by unfold State.dropCopies; split <;> rfl
@[simp] theorem State.dropCopies_bootstage : (s.dropCopies n rank).bootstage = s.bootstage := by unfold State.dropCopies; split <;> rfl
@[simp] theorem State.dropCopies_boot : (s.dropCopies n rank).boot = s.boot := by unfold State.dropCopies; split <;> rfl
@[simp] theorem State.dropCopies_meas : (s.dropCopies n rank).meas = s.meas := by unfold State.dropCopies; split <;> rfl
@[simp] theorem State.dropCopies_idKey : (s.dropCopies n rank).idKey = s.idKey := by unfold State.dropCopies; split <;> rfl
@[simp] theorem State.dropCopies_pkgSlope : (s.dropCopies n rank).pkgSlope = s.pkgSlope := by unfold State.dropCopies; split <;> rfl
@[simp] theorem State.dropCopies_cxl : (s.dropCopies n rank).cxl = s.cxl := by unfold State.dropCopies; split <;> rfl
@[simp] theorem State.dropCopies_soft : (s.dropCopies n rank).soft = s.soft := by unfold State.dropCopies; split <;> rfl
@[simp] theorem State.dropCopies_pointers : (s.dropCopies n rank).pointers = s.pointers := by unfold State.dropCopies; split <;> rfl
@[simp] theorem State.dropCopies_served : (s.dropCopies n rank).served = s.served := by unfold State.dropCopies; split <;> rfl
@[simp] theorem State.dropCopies_busyNext : (s.dropCopies n rank).busyNext = s.busyNext := by unfold State.dropCopies; split <;> rfl
@[simp] theorem State.dropCopies_issued : (s.dropCopies n rank).issued = s.issued := by unfold State.dropCopies; split <;> rfl
@[simp] theorem State.dropCopies_turns : (s.dropCopies n rank).turns = s.turns := by unfold State.dropCopies; split <;> rfl
@[simp] theorem State.dropCopies_autoDone : (s.dropCopies n rank).autoDone = s.autoDone := by unfold State.dropCopies; split <;> rfl
@[simp] theorem State.dropCopies_tripped : (s.dropCopies n rank).tripped = s.tripped := by unfold State.dropCopies; split <;> rfl
@[simp] theorem State.dropCopies_held : (s.dropCopies n rank).held = s.held := by unfold State.dropCopies; split <;> rfl
@[simp] theorem State.dropCopies_fetched : (s.dropCopies n rank).fetched = s.fetched := by unfold State.dropCopies; split <;> rfl
@[simp] theorem State.dropCopies_shadow : (s.dropCopies n rank).shadow = s.shadow := by unfold State.dropCopies; split <;> rfl
@[simp] theorem State.dropCopies_shadowRoom : (s.dropCopies n rank).shadowRoom = s.shadowRoom := by unfold State.dropCopies; split <;> rfl
@[simp] theorem State.dropCopies_locRels : (s.dropCopies n rank).locRels = s.locRels := by unfold State.dropCopies; split <;> rfl
@[simp] theorem State.dropCopies_parties : (s.dropCopies n rank).parties = s.parties := by unfold State.dropCopies; split <;> rfl
@[simp] theorem State.dropCopies_uids : (s.dropCopies n rank).uids = s.uids := by unfold State.dropCopies; split <;> rfl
@[simp] theorem State.dropCopies_launchNums : (s.dropCopies n rank).launchNums = s.launchNums := by unfold State.dropCopies; split <;> rfl
@[simp] theorem State.dropCopies_faultIds : (s.dropCopies n rank).faultIds = s.faultIds := by unfold State.dropCopies; split <;> rfl
@[simp] theorem State.dropCopies_tags : (s.dropCopies n rank).tags = s.tags := by unfold State.dropCopies; split <;> rfl
@[simp] theorem State.dropCopies_choices : (s.dropCopies n rank).choices = s.choices := by unfold State.dropCopies; split <;> rfl
@[simp] theorem State.dropCopies_ptpSynced : (s.dropCopies n rank).ptpSynced = s.ptpSynced := by unfold State.dropCopies; split <;> rfl
@[simp] theorem State.dropCopies_fusedKey : (s.dropCopies n rank).fusedKey = s.fusedKey := by unfold State.dropCopies; split <;> rfl
@[simp] theorem State.dropCopies_hot : (s.dropCopies n rank).hot = s.hot := by unfold State.dropCopies; split <;> rfl
@[simp] theorem State.dropCopies_fabOut : (s.dropCopies n rank).fabOut = s.fabOut := by unfold State.dropCopies; split <;> rfl
@[simp] theorem State.dropCopies_txs : (s.dropCopies n rank).txs = s.txs := by unfold State.dropCopies; split <;> rfl
@[simp] theorem State.dropCopies_ackSums : (s.dropCopies n rank).ackSums = s.ackSums := by unfold State.dropCopies; split <;> rfl
@[simp] theorem State.dropCopies_reds : (s.dropCopies n rank).reds = s.reds := by unfold State.dropCopies; split <;> rfl
@[simp] theorem State.dropCopies_rcv : (s.dropCopies n rank).rcv = s.rcv := by unfold State.dropCopies; split <;> rfl
@[simp] theorem State.dropCopies_atomLog : (s.dropCopies n rank).atomLog = s.atomLog := by unfold State.dropCopies; split <;> rfl
@[simp] theorem State.dropCopies_links : (s.dropCopies n rank).links = s.links := by unfold State.dropCopies; split <;> rfl
@[simp] theorem State.dropCopies_linkOut : (s.dropCopies n rank).linkOut = s.linkOut := by unfold State.dropCopies; split <;> rfl
@[simp] theorem State.dropCopies_routes : (s.dropCopies n rank).routes = s.routes := by unfold State.dropCopies; split <;> rfl
@[simp] theorem State.dropCopies_sched : (s.dropCopies n rank).sched = s.sched := by unfold State.dropCopies; split <;> rfl
@[simp] theorem State.dropCopies_relay : (s.dropCopies n rank).relay = s.relay := by unfold State.dropCopies; split <;> rfl
@[simp] theorem State.dropCopies_hostOut : (s.dropCopies n rank).hostOut = s.hostOut := by unfold State.dropCopies; split <;> rfl
@[simp] theorem State.dropCopies_gazebo : (s.dropCopies n rank).gazebo = s.gazebo := by unfold State.dropCopies; split <;> rfl
@[simp] theorem State.dropCopies_cur : (s.dropCopies n rank).cur = s.cur := by unfold State.dropCopies; split <;> rfl
@[simp] theorem State.dropCopies_second : (s.dropCopies n rank).second = s.second := by unfold State.dropCopies; split <;> rfl
@[simp] theorem State.dropCopies_inputs : (s.dropCopies n rank).inputs = s.inputs := by unfold State.dropCopies; split <;> rfl
@[simp] theorem State.dropCopies_deferred : (s.dropCopies n rank).deferred = s.deferred := by unfold State.dropCopies; split <;> rfl

/-! Team.modBraid -/

@[simp] theorem Team.modBraid_uid (k : Braid → Braid) : (t.modBraid rank k).uid = t.uid := rfl
@[simp] theorem Team.modBraid_launch (k : Braid → Braid) : (t.modBraid rank k).launch = t.launch := rfl
@[simp] theorem Team.modBraid_index (k : Braid → Braid) : (t.modBraid rank k).index = t.index := rfl
@[simp] theorem Team.modBraid_part (k : Braid → Braid) : (t.modBraid rank k).part = t.part := rfl
@[simp] theorem Team.modBraid_core (k : Braid → Braid) : (t.modBraid rank k).core = t.core := rfl
@[simp] theorem Team.modBraid_status (k : Braid → Braid) : (t.modBraid rank k).status = t.status := rfl
@[simp] theorem Team.modBraid_base (k : Braid → Braid) : (t.modBraid rank k).base = t.base := rfl
@[simp] theorem Team.modBraid_phTiles (k : Braid → Braid) : (t.modBraid rank k).phTiles = t.phTiles := rfl
@[simp] theorem Team.modBraid_vblk (k : Braid → Braid) : (t.modBraid rank k).vblk = t.vblk := rfl
@[simp] theorem Team.modBraid_scrGran (k : Braid → Braid) : (t.modBraid rank k).scrGran = t.scrGran := rfl
@[simp] theorem Team.modBraid_ctx (k : Braid → Braid) : (t.modBraid rank k).ctx = t.ctx := rfl
@[simp] theorem Team.modBraid_code (k : Braid → Braid) : (t.modBraid rank k).code = t.code := rfl
@[simp] theorem Team.modBraid_handles (k : Braid → Braid) : (t.modBraid rank k).handles = t.handles := rfl
@[simp] theorem Team.modBraid_entry (k : Braid → Braid) : (t.modBraid rank k).entry = t.entry := rfl
@[simp] theorem Team.modBraid_codeLen (k : Braid → Braid) : (t.modBraid rank k).codeLen = t.codeLen := rfl
@[simp] theorem Team.modBraid_emulVec (k : Braid → Braid) : (t.modBraid rank k).emulVec = t.emulVec := rfl
@[simp] theorem Team.modBraid_scratch (k : Braid → Braid) : (t.modBraid rank k).scratch = t.scratch := rfl
@[simp] theorem Team.modBraid_k (k : Braid → Braid) : (t.modBraid rank k).k = t.k := rfl
@[simp] theorem Team.modBraid_kRel (k : Braid → Braid) : (t.modBraid rank k).kRel = t.kRel := rfl
@[simp] theorem Team.modBraid_trackers (k : Braid → Braid) : (t.modBraid rank k).trackers = t.trackers := rfl
@[simp] theorem Team.modBraid_issued (k : Braid → Braid) : (t.modBraid rank k).issued = t.issued := rfl
@[simp] theorem Team.modBraid_nodes (k : Braid → Braid) : (t.modBraid rank k).nodes = t.nodes := rfl
@[simp] theorem Team.modBraid_carve (k : Braid → Braid) : (t.modBraid rank k).carve = t.carve := rfl
@[simp] theorem Team.modBraid_carveDue (k : Braid → Braid) : (t.modBraid rank k).carveDue = t.carveDue := rfl
@[simp] theorem Team.modBraid_tiles (k : Braid → Braid) : (t.modBraid rank k).tiles = t.tiles := rfl
@[simp] theorem Team.modBraid_tileTags (k : Braid → Braid) : (t.modBraid rank k).tileTags = t.tileTags := rfl
@[simp] theorem Team.modBraid_slots (k : Braid → Braid) : (t.modBraid rank k).slots = t.slots := rfl
@[simp] theorem Team.modBraid_batches (k : Braid → Braid) : (t.modBraid rank k).batches = t.batches := rfl
@[simp] theorem Team.modBraid_entries (k : Braid → Braid) : (t.modBraid rank k).entries = t.entries := rfl
@[simp] theorem Team.modBraid_posted (k : Braid → Braid) : (t.modBraid rank k).posted = t.posted := rfl
@[simp] theorem Team.modBraid_ords (k : Braid → Braid) : (t.modBraid rank k).ords = t.ords := rfl
@[simp] theorem Team.modBraid_barPhase (k : Braid → Braid) : (t.modBraid rank k).barPhase = t.barPhase := rfl
@[simp] theorem Team.modBraid_barRel (k : Braid → Braid) : (t.modBraid rank k).barRel = t.barRel := rfl
@[simp] theorem Team.modBraid_idem (k : Braid → Braid) : (t.modBraid rank k).idem = t.idem := rfl
@[simp] theorem Team.modBraid_triggered (k : Braid → Braid) : (t.modBraid rank k).triggered = t.triggered := rfl
@[simp] theorem Team.modBraid_detached (k : Braid → Braid) : (t.modBraid rank k).detached = t.detached := rfl
@[simp] theorem Team.modBraid_locks (k : Braid → Braid) : (t.modBraid rank k).locks = t.locks := rfl
@[simp] theorem Team.modBraid_stop (k : Braid → Braid) : (t.modBraid rank k).stop = t.stop := rfl
@[simp] theorem Team.modBraid_dbgStopped (k : Braid → Braid) : (t.modBraid rank k).dbgStopped = t.dbgStopped := rfl
@[simp] theorem Team.modBraid_dbgStep (k : Braid → Braid) : (t.modBraid rank k).dbgStep = t.dbgStep := rfl
@[simp] theorem Team.modBraid_since (k : Braid → Braid) : (t.modBraid rank k).since = t.since := rfl
@[simp] theorem Team.modBraid_stopSince (k : Braid → Braid) : (t.modBraid rank k).stopSince = t.stopSince := rfl
@[simp] theorem Team.modBraid_wantSince (k : Braid → Braid) : (t.modBraid rank k).wantSince = t.wantSince := rfl
@[simp] theorem Team.modBraid_lateTold (k : Braid → Braid) : (t.modBraid rank k).lateTold = t.lateTold := rfl
@[simp] theorem Team.modBraid_shortTold (k : Braid → Braid) : (t.modBraid rank k).shortTold = t.shortTold := rfl
@[simp] theorem Team.modBraid_dumped (k : Braid → Braid) : (t.modBraid rank k).dumped = t.dumped := rfl
@[simp] theorem Team.modBraid_exited (k : Braid → Braid) : (t.modBraid rank k).exited = t.exited := rfl
@[simp] theorem Team.modBraid_replay (k : Braid → Braid) : (t.modBraid rank k).replay = t.replay := rfl
@[simp] theorem Team.modBraid_logged (k : Braid → Braid) : (t.modBraid rank k).logged = t.logged := rfl
@[simp] theorem Team.modBraid_logQueue (k : Braid → Braid) : (t.modBraid rank k).logQueue = t.logQueue := rfl
@[simp] theorem Team.modBraid_pendE (k : Braid → Braid) : (t.modBraid rank k).pendE = t.pendE := rfl
@[simp] theorem Team.modBraid_wantStop (k : Braid → Braid) : (t.modBraid rank k).wantStop = t.wantStop := rfl

/-! Braid.modLanes and Braid.setS -/

@[simp] theorem Braid.modLanes_slot (k : Nat → Lane → Lane) : (b.modLanes m k).slot = b.slot := rfl
@[simp] theorem Braid.modLanes_s (k : Nat → Lane → Lane) : (b.modLanes m k).s = b.s := rfl
@[simp] theorem Braid.modLanes_nmode (k : Nat → Lane → Lane) : (b.modLanes m k).nmode = b.nmode := rfl
@[simp] theorem Braid.modLanes_path (k : Nat → Lane → Lane) : (b.modLanes m k).path = b.path := rfl
@[simp] theorem Braid.modLanes_meld (k : Nat → Lane → Lane) : (b.modLanes m k).meld = b.meld := rfl
@[simp] theorem Braid.modLanes_mt0 (k : Nat → Lane → Lane) : (b.modLanes m k).mt0 = b.mt0 := rfl
@[simp] theorem Braid.modLanes_mt1 (k : Nat → Lane → Lane) : (b.modLanes m k).mt1 = b.mt1 := rfl
@[simp] theorem Braid.modLanes_pres (k : Nat → Lane → Lane) : (b.modLanes m k).pres = b.pres := rfl
@[simp] theorem Braid.modLanes_handler (k : Nat → Lane → Lane) : (b.modLanes m k).handler = b.handler := rfl
@[simp] theorem Braid.modLanes_stop (k : Nat → Lane → Lane) : (b.modLanes m k).stop = b.stop := rfl
@[simp] theorem Braid.modLanes_fresh (k : Nat → Lane → Lane) : (b.modLanes m k).fresh = b.fresh := rfl
@[simp] theorem Braid.modLanes_hist (k : Nat → Lane → Lane) : (b.modLanes m k).hist = b.hist := rfl
@[simp] theorem Braid.modLanes_pendX (k : Nat → Lane → Lane) : (b.modLanes m k).pendX = b.pendX := rfl
@[simp] theorem Braid.modLanes_follyC (k : Nat → Lane → Lane) : (b.modLanes m k).follyC = b.follyC := rfl
@[simp] theorem Braid.modLanes_follyPaid (k : Nat → Lane → Lane) : (b.modLanes m k).follyPaid = b.follyPaid := rfl
@[simp] theorem Braid.modLanes_stepIssues (k : Nat → Lane → Lane) : (b.modLanes m k).stepIssues = b.stepIssues := rfl
@[simp] theorem Braid.modLanes_passed (k : Nat → Lane → Lane) : (b.modLanes m k).passed = b.passed := rfl
@[simp] theorem Braid.modLanes_base (k : Nat → Lane → Lane) : (b.modLanes m k).base = b.base := rfl
@[simp] theorem Braid.setS_slot : (b.setS n v).slot = b.slot := rfl
@[simp] theorem Braid.setS_nmode : (b.setS n v).nmode = b.nmode := rfl
@[simp] theorem Braid.setS_path : (b.setS n v).path = b.path := rfl
@[simp] theorem Braid.setS_meld : (b.setS n v).meld = b.meld := rfl
@[simp] theorem Braid.setS_mt0 : (b.setS n v).mt0 = b.mt0 := rfl
@[simp] theorem Braid.setS_mt1 : (b.setS n v).mt1 = b.mt1 := rfl
@[simp] theorem Braid.setS_pres : (b.setS n v).pres = b.pres := rfl
@[simp] theorem Braid.setS_handler : (b.setS n v).handler = b.handler := rfl
@[simp] theorem Braid.setS_lanes : (b.setS n v).lanes = b.lanes := rfl
@[simp] theorem Braid.setS_stop : (b.setS n v).stop = b.stop := rfl
@[simp] theorem Braid.setS_fresh : (b.setS n v).fresh = b.fresh := rfl
@[simp] theorem Braid.setS_hist : (b.setS n v).hist = b.hist := rfl
@[simp] theorem Braid.setS_pendX : (b.setS n v).pendX = b.pendX := rfl
@[simp] theorem Braid.setS_follyC : (b.setS n v).follyC = b.follyC := rfl
@[simp] theorem Braid.setS_follyPaid : (b.setS n v).follyPaid = b.follyPaid := rfl
@[simp] theorem Braid.setS_stepIssues : (b.setS n v).stepIssues = b.stepIssues := rfl
@[simp] theorem Braid.setS_passed : (b.setS n v).passed = b.passed := rfl
@[simp] theorem Braid.setS_base : (b.setS n v).base = b.base := rfl

/-! Lane.setV and Lane.setPred -/

@[simp] theorem Lane.setV_pc : (x.setV n v g).pc = x.pc := rfl
@[simp] theorem Lane.setV_live : (x.setV n v g).live = x.live := rfl
@[simp] theorem Lane.setV_preds : (x.setV n v g).preds = x.preds := rfl
@[simp] theorem Lane.setV_depth : (x.setV n v g).depth = x.depth := rfl
@[simp] theorem Lane.setV_stack : (x.setV n v g).stack = x.stack := rfl
@[simp] theorem Lane.setV_priv : (x.setV n v g).priv = x.priv := rfl
@[simp] theorem Lane.setV_age : (x.setV n v g).age = x.age := rfl
@[simp] theorem Lane.setV_wait : (x.setV n v g).wait = x.wait := rfl
@[simp] theorem Lane.setV_sleepUntil : (x.setV n v g).sleepUntil = x.sleepUntil := rfl
@[simp] theorem Lane.setV_yielded : (x.setV n v g).yielded = x.yielded := rfl
@[simp] theorem Lane.setV_arrTeam : (x.setV n v g).arrTeam = x.arrTeam := rfl
@[simp] theorem Lane.setV_arrGroup : (x.setV n v g).arrGroup = x.arrGroup := rfl
@[simp] theorem Lane.setV_vc : (x.setV n v g).vc = x.vc := rfl
@[simp] theorem Lane.setV_fences : (x.setV n v g).fences = x.fences := rfl
@[simp] theorem Lane.setV_seen : (x.setV n v g).seen = x.seen := rfl
@[simp] theorem Lane.setV_met : (x.setV n v g).met = x.met := rfl
@[simp] theorem Lane.setPred_pc (w : Bool) : (x.setPred n w).pc = x.pc := by unfold Lane.setPred; split <;> rfl
@[simp] theorem Lane.setPred_live (w : Bool) : (x.setPred n w).live = x.live := by unfold Lane.setPred; split <;> rfl
@[simp] theorem Lane.setPred_depth (w : Bool) : (x.setPred n w).depth = x.depth := by unfold Lane.setPred; split <;> rfl
@[simp] theorem Lane.setPred_stack (w : Bool) : (x.setPred n w).stack = x.stack := by unfold Lane.setPred; split <;> rfl
@[simp] theorem Lane.setPred_priv (w : Bool) : (x.setPred n w).priv = x.priv := by unfold Lane.setPred; split <;> rfl
@[simp] theorem Lane.setPred_v (w : Bool) : (x.setPred n w).v = x.v := by unfold Lane.setPred; split <;> rfl
@[simp] theorem Lane.setPred_tags (w : Bool) : (x.setPred n w).tags = x.tags := by unfold Lane.setPred; split <;> rfl
@[simp] theorem Lane.setPred_age (w : Bool) : (x.setPred n w).age = x.age := by unfold Lane.setPred; split <;> rfl
@[simp] theorem Lane.setPred_wait (w : Bool) : (x.setPred n w).wait = x.wait := by unfold Lane.setPred; split <;> rfl
@[simp] theorem Lane.setPred_sleepUntil (w : Bool) : (x.setPred n w).sleepUntil = x.sleepUntil := by unfold Lane.setPred; split <;> rfl
@[simp] theorem Lane.setPred_yielded (w : Bool) : (x.setPred n w).yielded = x.yielded := by unfold Lane.setPred; split <;> rfl
@[simp] theorem Lane.setPred_arrTeam (w : Bool) : (x.setPred n w).arrTeam = x.arrTeam := by unfold Lane.setPred; split <;> rfl
@[simp] theorem Lane.setPred_arrGroup (w : Bool) : (x.setPred n w).arrGroup = x.arrGroup := by unfold Lane.setPred; split <;> rfl
@[simp] theorem Lane.setPred_vc (w : Bool) : (x.setPred n w).vc = x.vc := by unfold Lane.setPred; split <;> rfl
@[simp] theorem Lane.setPred_fences (w : Bool) : (x.setPred n w).fences = x.fences := by unfold Lane.setPred; split <;> rfl
@[simp] theorem Lane.setPred_seen (w : Bool) : (x.setPred n w).seen = x.seen := by unfold Lane.setPred; split <;> rfl
@[simp] theorem Lane.setPred_met (w : Bool) : (x.setPred n w).met = x.met := by unfold Lane.setPred; split <;> rfl

end Sys2Proof.Machine
end

