-- ==== Sys2Proof/Laws/Ops.lean ====
section
/-! SUPPORT. What the shared operations do: the frame in which an instruction is performed, the tag checks, and the
lanes of a mask. -/

namespace Sys2Proof.Machine

/-- Lanes listed in a mask are those whose bit is set. -/
theorem mem_lanes (m : Mask) (l : Nat) : l ∈ Mask.lanes m ↔ l < 32 ∧ m.getLsbD l = true := by
  simp [Mask.lanes, allLanes]

theorem lanes_lt {m : Mask} {l : Nat} (h : l ∈ Mask.lanes m) : l < 32 := ((mem_lanes m l).1 h).1

/-- The mask of no lane. -/
theorem maskOf_nil : maskOf [] = 0 := rfl

/-- A mask with bit l of every listed lane. -/
theorem maskOf_or (ls : List Nat) (m : Mask) (k : Nat) (h : ∀ l ∈ ls, l < 32) :
    (ls.foldl (fun m l => m ||| BitVec.ofNat 32 (2 ^ l)) m).getLsbD k = (m.getLsbD k || ls.contains k) := by
  induction ls generalizing m with
  | nil => simp
  | cons a as ih =>
    have ha := h a (by simp)
    rw [List.foldl_cons, ih _ fun l hl => h l (by simp [hl])]
    have hb : (BitVec.ofNat 32 (2 ^ a)).getLsbD k = (k == a) := by
      rw [BitVec.getLsbD_ofNat, Nat.testBit_two_pow]
      by_cases e : k = a
      · simp [e]; omega
      · have e' : ¬ a = k := fun q => e q.symm
        simp [e, e']
    rw [BitVec.getLsbD_or, hb, List.contains_cons, Bool.or_assoc]

theorem maskOf_bit (ls : List Nat) (k : Nat) (h : ∀ l ∈ ls, l < 32) :
    (maskOf ls).getLsbD k = ls.contains k := by
  simpa [maskOf] using maskOf_or ls 0 k h

/-- The lanes of the mask where a test holds. -/
theorem maskWhere_bit (p : Nat → Bool) (k : Nat) (hk : k < 32) : (maskWhere p).getLsbD k = p k := by
  rw [maskWhere, maskOf_bit _ _ (by simp [allLanes]; intros; omega)]
  rw [Bool.eq_iff_iff]
  simp [allLanes, hk]

theorem mem_lanes_maskWhere (p : Nat → Bool) (l : Nat) : l ∈ Mask.lanes (maskWhere p) ↔ l < 32 ∧ p l = true := by
  rw [mem_lanes]
  constructor
  · rintro ⟨h, h'⟩; exact ⟨h, by rwa [maskWhere_bit p l h] at h'⟩
  · rintro ⟨h, h'⟩; exact ⟨h, by rwa [maskWhere_bit p l h]⟩

/-- A filter that nothing passes gives the empty mask. -/
theorem maskOf_filter_none (m : Mask) (p : Nat → Bool) (h : ∀ l ∈ Mask.lanes m, p l = false) :
    maskOf ((Mask.lanes m).filter p) = 0 := by
  have : (Mask.lanes m).filter p = [] := by
    rw [List.filter_eq_nil_iff]
    intro l hl
    simp [h l hl]
  rw [this]; rfl

/-! The environment of an issue -/

section
variable {i : Instr} {n : Info} {s : State} {e : Env}

theorem Issues.s_eq (h : Issues i n s e) : e.s = s := by rw [h.env]; rfl
theorem Issues.i_eq (h : Issues i n s e) : e.i = i := by rw [h.env]; rfl
theorem Issues.f_eq (h : Issues i n s e) : e.f = n.fields := by rw [h.env]; rfl
theorem Issues.pc_eq (h : Issues i n s e) : e.pc = s.cur.pc := by rw [h.env]; rfl
theorem Issues.rank_eq (h : Issues i n s e) : e.rank = s.cur.rank := by rw [Env.rank, h.s_eq]
theorem Issues.part_eq (h : Issues i n s e) : e.part = s.cur.lanes &&& e.b.liveMask := by
  have := congrArg Env.part h.env; simpa [mkEnv] using this
theorem Issues.act_eq (h : Issues i n s e) :
    e.act = maskWhere fun l => e.part.getLsbD l && guardHolds e.f.g (e.b.lane l) := by
  have h1 := congrArg Env.act h.env
  have h2 := h.part_eq
  have h3 := h.f_eq
  simp only [mkEnv] at h1
  rw [h2, h3]; exact h1

/-- The frame of an issue: what the shared operation does with a meaning (R146, R157). -/
theorem perform_issue (h : Issues i n s e) (body : Env → Act) :
    perform i s body = .next (finish e
      (match earlyTrap e n with
       | some x => .trap x
       | none =>
         if e.act == 0 then .go s
         else match nvTrap e n.vecs with
           | some x => .trap x
           | none => body e)) := by
  simp only [perform, h.team, h.braid, h.info, ← h.env, withParity, h.s_eq, h.sound, List.isEmpty_nil, if_true]
  cases earlyTrap e n with
  | some x => rfl
  | none =>
    cases hz : (e.act == 0)
    · cases nvTrap e n.vecs with
      | some x => rfl
      | none => cases body e <;> rfl
    · rfl

/-- An issue with no active lane only moves its lanes on (R78, R157, R187). -/
theorem perform_idle (h : Issues i n s e) (ha : e.act = 0) (hp : n.cls = .priv → e.t.launch = none) (body : Env → Act) :
    perform i s body = .next (finish e (.go s)) := by
  have h1 : earlyTrap e n = none := by
    have : (n.cls == .priv && !e.t.isSup) = false := by
      by_cases hc : n.cls = .priv
      · simp [Team.isSup, hp hc]
      · simp [hc]
    simp [earlyTrap, this, ha]
  rw [perform_issue h, h1]
  simp [ha]

theorem earlyTrap_none (h : Performs i n s e) : earlyTrap e n = none := by
  have h1 : (n.cls == .priv && !e.t.isSup) = false := by
    by_cases hc : n.cls = .priv
    · simp [Team.isSup, h.priv hc]
    · simp [hc]
  have h2 : (e.act == 0) = false := by simpa using h.active
  have h3 : (e.f.m && !e.b.meld && n.vecs.any) = false := by
    have := h.meld
    cases hm : e.f.m <;> cases hv : n.vecs.any <;> simp
    exact this hm hv
  have h4 : (match e.i with | .unmeld _ => !e.b.meld | _ => false) = false := by
    have key : ∀ j : Instr, (∀ f, j = .unmeld f → e.b.meld = true) →
        (match j with | .unmeld _ => !e.b.meld | _ => false) = false := by
      intro j hj
      cases j <;> first | rfl | (rw [hj _ rfl]; rfl)
    exact key _ (h.i_eq ▸ h.unmeld)
  have h5 : (match e.i with | .meld _ => e.b.meld | _ => false) = false := by
    have key : ∀ j : Instr, (∀ f, j = .meld f → e.b.meld = false) →
        (match j with | .meld _ => e.b.meld | _ => false) = false := by
      intro j hj
      cases j <;> first | rfl | (rw [hj _ rfl])
    exact key _ (h.i_eq ▸ h.nested)
  have h6 : (e.i.braidWide && e.act != e.b.liveMask) = false := by
    have := h.wide
    rw [h.i_eq]
    cases hw : i.braidWide <;> simp_all
  unfold earlyTrap
  rw [h1, h2]
  simp only [h3, h6, Bool.false_or, Bool.false_eq_true, if_false]
  refine (if_neg ?_).trans ((if_neg ?_).trans rfl)
  · exact fun q => Bool.noConfusion (h4.symm.trans q)
  · exact fun q => Bool.noConfusion (h5.symm.trans q)

theorem nvTrap_none (h : Performs i n s e) : nvTrap e n.vecs = none := by
  have key : ∀ r : BitVec 7, (∀ l ∈ Mask.lanes e.act, e.b.vecName e.f l r < e.t.nv) →
      maskOf ((Mask.lanes e.act).filter fun l => decide (e.t.nv ≤ e.b.vecName e.f l r)) = 0 := by
    intro r hr
    apply maskOf_filter_none
    intro l hl
    simpa using hr l hl
  have kd := key e.f.d
  have ka := key e.f.a
  have kb := key e.f.b
  have kc := key e.f.c
  have hn := h.named
  have hd : n.vecs.d = true → maskOf ((Mask.lanes e.act).filter fun l => decide (e.t.nv ≤ e.b.vecName e.f l e.f.d)) = 0 :=
    fun q => kd fun l hl => (hn l hl).1 q
  have hA : n.vecs.a = true → maskOf ((Mask.lanes e.act).filter fun l => decide (e.t.nv ≤ e.b.vecName e.f l e.f.a)) = 0 :=
    fun q => ka fun l hl => (hn l hl).2.1 q
  have hB : n.vecs.b = true → maskOf ((Mask.lanes e.act).filter fun l => decide (e.t.nv ≤ e.b.vecName e.f l e.f.b)) = 0 :=
    fun q => kb fun l hl => (hn l hl).2.2.1 q
  have hC : n.vecs.c = true → maskOf ((Mask.lanes e.act).filter fun l => decide (e.t.nv ≤ e.b.vecName e.f l e.f.c)) = 0 :=
    fun q => kc fun l hl => (hn l hl).2.2.2 q
  unfold nvTrap
  cases h1 : n.vecs.d <;> cases h2 : n.vecs.a <;> cases h3 : n.vecs.b <;> cases h4 : n.vecs.c <;>
    simp_all

/-- Where nothing of R146 stands in the way, an instruction does what its meaning says. -/
theorem perform_body (h : Performs i n s e) (body : Env → Act) :
    perform i s body = .next (finish e (body e)) := by
  rw [perform_issue h.toIssues, earlyTrap_none h, nvTrap_none h]
  have : (e.act == 0) = false := by simpa using h.active
  simp only [this]
  rfl

end

/-! Tags -/

theorem Check.bad_none {e : Env} {c : Check} (h : c.vec = true → ∀ l ∈ Mask.lanes e.act, e.srcTag false c.reg l = c.want) :
    c.bad e = 0 := by
  unfold Check.bad
  split
  · next hv =>
    apply maskOf_filter_none
    intro l hl
    simp [h hv l hl]
  · rfl

/-- Tagged operands raise no trap (R59). -/
theorem tagTrap_none {e : Env} {cs : List Check} (h : e.tagged cs) : tagTrap e cs = none := by
  have : cs.find? (fun c => c.bad e != 0) = none := by
    rw [List.find?_eq_none]
    intro c hc
    simp [Check.bad_none (h c hc)]
  simp only [tagTrap, this]

theorem withTags_go {e : Env} {cs : List Check} (h : e.tagged cs) (k : State) : withTags e cs k = .go k := by
  simp [withTags, tagTrap_none h]

/-- Some operand's tag fails in some active lane, so that the tag-check trap is raised (R59). -/
theorem withTags_trap {e : Env} {cs : List Check} {x : Trap} (h : tagTrap e cs = some x) (k : State) :
    withTags e cs k = .trap x := by
  simp [withTags, h]

/-! Teams and braids in a state -/

theorem State.team?_modTeam (s : State) (uid : Nat) (g : Team → Team) (hg : ∀ t, (g t).uid = t.uid) (u : Nat) :
    (s.modTeam uid g).team? u = (s.team? u).map fun t => if u = uid then g t else t := by
  simp only [State.team?, State.modTeam]
  induction s.teams with
  | nil => rfl
  | cons t ts ih =>
    simp only [List.map_cons, List.find?_cons]
    by_cases h1 : t.uid = uid
    · simp only [h1, beq_self_eq_true, if_true, hg]
      by_cases h2 : uid = u
      · simp [h2]
      · have : (uid == u) = false := by simpa using h2
        simp only [this, ih]
    · have e1 : (t.uid == uid) = false := by simpa using h1
      simp only [e1]
      by_cases h2 : t.uid = u
      · have : ¬ u = uid := fun h => h1 (h2.trans h)
        simp [h2, this]
      · have : (t.uid == u) = false := by simpa using h2
        simpa [this] using ih

theorem State.team?_uid {s : State} {u : Nat} {t : Team} (h : s.team? u = some t) : t.uid = u := by
  have := List.find?_some h
  simpa using this

theorem Team.modBraid_get (t : Team) (rank : Nat) (g : Braid → Braid) (r : Nat) :
    (t.modBraid rank g).braids[r]? = (t.braids[r]?).map fun b => if r = rank then g b else b := by
  simp only [Team.modBraid, List.getElem?_modify]
  by_cases h : rank = r
  · simp [h]
  · have h' : ¬ r = rank := fun q => h q.symm
    simp [h, h']

theorem State.braid?_modBraid (s : State) (uid rank : Nat) (g : Braid → Braid) (u r : Nat) :
    (s.modBraid uid rank g).braid? u r = (s.braid? u r).map fun b => if u = uid ∧ r = rank then g b else b := by
  simp only [State.braid?, State.modBraid]
  rw [State.team?_modTeam _ _ _ (by intro t; rfl)]
  cases s.team? u with
  | none => rfl
  | some t =>
    by_cases h : u = uid
    · simp [h, Team.modBraid_get]
    · simp [h]

/-- The lanes of a braid after some are changed. -/
theorem Braid.modLanes_lane (b : Braid) (m : Mask) (g : Nat → Lane → Lane) (l : Nat) (h : l < b.lanes.length) :
    (b.modLanes m g).lane l = if m.getLsbD l then g l (b.lane l) else b.lane l := by
  simp [Braid.modLanes, Braid.lane, List.getD_eq_getElem?_getD, h]

/-- A lane beyond the braid has exited. -/
theorem Braid.live_lt {b : Braid} {l : Nat} (h : (b.lane l).live = true) : l < b.lanes.length := by
  refine Decidable.byContradiction fun hc => ?_
  have : b.lane l = Lane.dead := by
    simp [Braid.lane, List.getD_eq_getElem?_getD, List.getElem?_eq_none (Nat.le_of_not_lt hc)]
  rw [this] at h
  cases h

end Sys2Proof.Machine
end

