-- ==== Sys2Proof/Laws/PerInstr.lean ====
section
/-! SUPPORT. One family of statements per instruction: the opcode map read both ways (R142). What the map says of an
instruction leads back to the instruction through the decoder's table; events have no opcode. -/

namespace Sys2Proof.Laws.Assembles

/-- Of two complaints, none stands only where neither does. -/
theorem orElse_none {p q : Bad} (h : p.orElse q = none) : p = none ∧ q = none := by
  cases p with
  | none => exact ⟨rfl, h⟩
  | some w => exact absurd h (by simp [Bad.orElse])

/-- A check that does not complain holds. -/
theorem need_none {ok : Bool} {k : Nat} (h : need ok k = none) : ok = true := by
  cases ok with
  | true => rfl
  | false => simp [need] at h

/-- Of a legal instruction the check of X does not complain. -/
theorem legal_x {n : Info} (h : n.illegal = none) : n.shape.x = none := by
  simp only [Info.illegal] at h
  split at h
  · simp at h
  · split at h
    · simp at h
    · have h := (orElse_none (orElse_none (orElse_none (orElse_none h).2).2).2).2
      exact (orElse_none (orElse_none (orElse_none (orElse_none h).2).2).2).1

/-- A format packs at most sixteen elements. -/
theorem fmtCount_le (t : Tag) : fmtCount t / 2 ≤ 8 := by revert t; decide

/-- The opcode and the fields of a legal instruction assemble to it. -/
def Statement (i : Instr) : Prop :=
  match i.info with
  | some n => n.illegal = none → assemble n.op n.fields = some i
  | none => True

theorem nop (f : Fields) : Statement (.nop f) := fun _ => rfl
theorem add (f : Fields) : Statement (.add f) := fun _ => rfl
theorem sub (f : Fields) : Statement (.sub f) := fun _ => rfl
theorem addc (f : Fields) : Statement (.addc f) := fun _ => rfl
theorem subb (f : Fields) : Statement (.subb f) := fun _ => rfl
theorem mul (f : Fields) : Statement (.mul f) := fun _ => rfl
theorem mulh (f : Fields) : Statement (.mulh f) := fun _ => rfl
theorem mad (f : Fields) : Statement (.mad f) := fun _ => rfl
theorem div (f : Fields) : Statement (.div f) := fun _ => rfl
theorem rem (f : Fields) : Statement (.rem f) := fun _ => rfl
theorem min (f : Fields) : Statement (.min f) := fun _ => rfl
theorem max (f : Fields) : Statement (.max f) := fun _ => rfl
theorem abs (f : Fields) : Statement (.abs f) := fun _ => rfl
theorem neg (f : Fields) : Statement (.neg f) := fun _ => rfl
theorem and (f : Fields) : Statement (.and f) := fun _ => rfl
theorem or (f : Fields) : Statement (.or f) := fun _ => rfl
theorem xor (f : Fields) : Statement (.xor f) := fun _ => rfl
theorem not (f : Fields) : Statement (.not f) := fun _ => rfl
theorem shl (f : Fields) : Statement (.shl f) := fun _ => rfl
theorem shr (f : Fields) : Statement (.shr f) := fun _ => rfl
theorem sar (f : Fields) : Statement (.sar f) := fun _ => rfl
theorem rot (f : Fields) : Statement (.rot f) := fun _ => rfl
theorem bfx (f : Fields) : Statement (.bfx f) := fun _ => rfl
theorem bfi (f : Fields) : Statement (.bfi f) := fun _ => rfl
theorem popc (f : Fields) : Statement (.popc f) := fun _ => rfl
theorem clz (f : Fields) : Statement (.clz f) := fun _ => rfl
theorem brev (f : Fields) : Statement (.brev f) := fun _ => rfl
theorem sel (f : Fields) : Statement (.sel f) := fun _ => rfl
theorem cmp (f : Fields) : Statement (.cmp f) := fun _ => rfl
theorem lea (f : Fields) : Statement (.lea f) := fun _ => rfl
theorem fadd (f : Fields) : Statement (.fadd f) := fun _ => rfl
theorem fsub (f : Fields) : Statement (.fsub f) := fun _ => rfl
theorem fmul (f : Fields) : Statement (.fmul f) := fun _ => rfl
theorem fma (f : Fields) : Statement (.fma f) := fun _ => rfl
theorem fmin (f : Fields) : Statement (.fmin f) := fun _ => rfl
theorem fmax (f : Fields) : Statement (.fmax f) := fun _ => rfl
theorem fcmp (f : Fields) : Statement (.fcmp f) := fun _ => rfl
theorem fdiv (f : Fields) : Statement (.fdiv f) := fun _ => rfl
theorem frcp (f : Fields) : Statement (.frcp f) := fun _ => rfl
theorem frsq (f : Fields) : Statement (.frsq f) := fun _ => rfl
theorem fsqrt (f : Fields) : Statement (.fsqrt f) := fun _ => rfl
theorem fexp2 (f : Fields) : Statement (.fexp2 f) := fun _ => rfl
theorem flog2 (f : Fields) : Statement (.flog2 f) := fun _ => rfl
theorem fsin (f : Fields) : Statement (.fsin f) := fun _ => rfl
theorem fcos (f : Fields) : Statement (.fcos f) := fun _ => rfl
theorem frnd (f : Fields) : Statement (.frnd f) := fun _ => rfl
theorem fclass (f : Fields) : Statement (.fclass f) := fun _ => rfl
theorem cvt (f : Fields) : Statement (.cvt f) := fun _ => rfl
theorem pack (f : Fields) : Statement (.pack f) := fun _ => rfl
theorem unpk (f : Fields) : Statement (.unpk f) := fun _ => rfl
theorem qnt (f : Fields) : Statement (.qnt f) := by
  intro h
  have h := of_decide_eq_true (need_none (legal_x h))
  have h' := fmtCount_le f.f
  have hv : f.variant < 8 := Nat.lt_of_lt_of_le h h'
  exact congrArg some (if_pos hv)
theorem qntDerive (f : Fields) : Statement (.qntDerive f) := by
  intro h
  have h := need_none (legal_x h)
  simp only [beq_iff_eq] at h
  have hv : ¬ f.variant < 8 := by
    have h : f.variant = 8 := h
    omega
  exact congrArg some (if_neg hv)
theorem dqnt (f : Fields) : Statement (.dqnt f) := fun _ => rfl
theorem hadq (f : Fields) : Statement (.hadq f) := fun _ => rfl
theorem tag (f : Fields) : Statement (.tag f) := fun _ => rfl
theorem xlr (f : Fields) : Statement (.xlr f) := fun _ => rfl
theorem xlb (f : Fields) : Statement (.xlb f) := fun _ => rfl
theorem xls (f : Fields) : Statement (.xls f) := fun _ => rfl
theorem vote (f : Fields) : Statement (.vote f) := fun _ => rfl
theorem matchLanes (f : Fields) : Statement (.matchLanes f) := fun _ => rfl
theorem red (f : Fields) : Statement (.red f) := fun _ => rfl
theorem scan (f : Fields) : Statement (.scan f) := fun _ => rfl
theorem mov (f : Fields) : Statement (.mov f) := fun _ => rfl
theorem movi (f : Fields) : Statement (.movi f) := fun _ => rfl
theorem mfs (f : Fields) : Statement (.mfs f) := fun _ => rfl
theorem mts (f : Fields) : Statement (.mts f) := fun _ => rfl
theorem br (f : Fields) : Statement (.br f) := fun _ => rfl
theorem brm (f : Fields) : Statement (.brm f) := fun _ => rfl
theorem jtb (f : Fields) : Statement (.jtb f) := fun _ => rfl
theorem call (f : Fields) : Statement (.call f) := fun _ => rfl
theorem calli (f : Fields) : Statement (.calli f) := fun _ => rfl
theorem ret (f : Fields) : Statement (.ret f) := fun _ => rfl
theorem exit (f : Fields) : Statement (.exit f) := fun _ => rfl
theorem meld (f : Fields) : Statement (.meld f) := fun _ => rfl
theorem mapt (f : Fields) : Statement (.mapt f) := fun _ => rfl
theorem unmeld (f : Fields) : Statement (.unmeld f) := fun _ => rfl
theorem barArv (f : Fields) : Statement (.barArv f) := fun _ => rfl
theorem barWait (f : Fields) : Statement (.barWait f) := fun _ => rfl
theorem pharr (f : Fields) : Statement (.pharr f) := fun _ => rfl
theorem phwait (f : Fields) : Statement (.phwait f) := fun _ => rfl
theorem tktTake (f : Fields) : Statement (.tktTake f) := fun _ => rfl
theorem tktWait (f : Fields) : Statement (.tktWait f) := fun _ => rfl
theorem hitchWait (f : Fields) : Statement (.hitchWait f) := fun _ => rfl
theorem hitchPass (f : Fields) : Statement (.hitchPass f) := fun _ => rfl
theorem fence (f : Fields) : Statement (.fence f) := fun _ => rfl
theorem trig (f : Fields) : Statement (.trig f) := fun _ => rfl
theorem yield (f : Fields) : Statement (.yield f) := fun _ => rfl
theorem sleep (f : Fields) : Statement (.sleep f) := fun _ => rfl
theorem sleepExpiry (b : BraidRef) : Statement (.sleepExpiry b) := trivial
theorem launch (f : Fields) : Statement (.launch f) := by
  intro h
  have h := need_none (legal_x h)
  simp only [beq_iff_eq] at h
  have hv : f.variant = 0 := h
  exact congrArg some (if_pos (by simp [hv]))
theorem launchUni (f : Fields) : Statement (.launchUni f) := by
  intro h
  have h := need_none (legal_x h)
  simp only [beq_iff_eq] at h
  have hv : f.variant = 1 := h
  exact congrArg some (if_neg (by simp [hv]))
theorem carve (f : Fields) : Statement (.carve f) := fun _ => rfl
theorem carveTakesEffect (uid base : Nat) : Statement (.carveTakesEffect uid base) := trivial
theorem detach (f : Fields) : Statement (.detach f) := fun _ => rfl
theorem idemBegin (f : Fields) : Statement (.idemBegin f) := fun _ => rfl
theorem idemEnd (f : Fields) : Statement (.idemEnd f) := fun _ => rfl
theorem trap (f : Fields) : Statement (.trap f) := fun _ => rfl
theorem bkpt (f : Fields) : Statement (.bkpt f) := fun _ => rfl
theorem emret (f : Fields) : Statement (.emret f) := fun _ => rfl
theorem rng (f : Fields) : Statement (.rng f) := fun _ => rfl
theorem clk (f : Fields) : Statement (.clk f) := fun _ => rfl
theorem prog (f : Fields) : Statement (.prog f) := fun _ => rfl
theorem illegalEncoding (i : Illegal) : Statement (.illegalEncoding i) := trivial
theorem ld (f : Fields) : Statement (.ld f) := fun _ => rfl
theorem st (f : Fields) : Statement (.st f) := fun _ => rfl
theorem ldu (f : Fields) : Statement (.ldu f) := fun _ => rfl
theorem pf (f : Fields) : Statement (.pf f) := fun _ => rfl
theorem atom (f : Fields) : Statement (.atom f) := fun _ => rfl
theorem ldx (f : Fields) : Statement (.ldx f) := fun _ => rfl
theorem stx (f : Fields) : Statement (.stx f) := fun _ => rfl
theorem atx (f : Fields) : Statement (.atx f) := fun _ => rfl
theorem rstx (f : Fields) : Statement (.rstx f) := fun _ => rfl
theorem bclose (f : Fields) : Statement (.bclose f) := fun _ => rfl
theorem closeTimeout (uid bt : Nat) : Statement (.closeTimeout uid bt) := trivial
theorem cpy (f : Fields) : Statement (.cpy f) := fun _ => rfl
theorem gath (f : Fields) : Statement (.gath f) := fun _ => rfl
theorem scat (f : Fields) : Statement (.scat f) := fun _ => rfl
theorem dgn (f : Fields) : Statement (.dgn f) := fun _ => rfl
theorem dgl (f : Fields) : Statement (.dgl f) := fun _ => rfl
theorem claim (f : Fields) : Statement (.claim f) := fun _ => rfl
theorem release (f : Fields) : Statement (.release f) := fun _ => rfl
theorem mma (f : Fields) : Statement (.mma f) := fun _ => rfl
theorem gmma (f : Fields) : Statement (.gmma f) := fun _ => rfl
theorem accz (f : Fields) : Statement (.accz f) := fun _ => rfl
theorem accrd (f : Fields) : Statement (.accrd f) := fun _ => rfl
theorem accwr (f : Fields) : Statement (.accwr f) := fun _ => rfl
theorem accst (f : Fields) : Statement (.accst f) := fun _ => rfl
theorem hadt (f : Fields) : Statement (.hadt f) := fun _ => rfl
theorem qtile (f : Fields) : Statement (.qtile f) := fun _ => rfl
theorem qpwPost (f : Fields) : Statement (.qpwPost f) := fun _ => rfl
theorem qpwArm (f : Fields) : Statement (.qpwArm f) := fun _ => rfl
theorem cntAdd (f : Fields) : Statement (.cntAdd f) := fun _ => rfl
theorem cntWait (f : Fields) : Statement (.cntWait f) := fun _ => rfl
theorem srd (f : Fields) : Statement (.srd f) := fun _ => rfl
theorem swr (f : Fields) : Statement (.swr f) := fun _ => rfl
theorem ctxsv (f : Fields) : Statement (.ctxsv f) := fun _ => rfl
theorem ctxld (f : Fields) : Statement (.ctxld f) := fun _ => rfl
theorem tlbi (f : Fields) : Statement (.tlbi f) := fun _ => rfl
theorem iretResume (f : Fields) : Statement (.iretResume f) := by
  intro h
  have h : f.x = 0 := eq_of_beq (need_none (legal_x h))
  show some (if f.x.toNat % 4 == 1 then Instr.iretKill f else if f.x.toNat % 4 == 2 then Instr.iretCancel f
    else Instr.iretResume f) = _
  rw [h]
  rfl
theorem iretKill (f : Fields) : Statement (.iretKill f) := by
  intro h
  have h : f.x = 1 := eq_of_beq (need_none (legal_x h))
  show some (if f.x.toNat % 4 == 1 then Instr.iretKill f else if f.x.toNat % 4 == 2 then Instr.iretCancel f
    else Instr.iretResume f) = _
  rw [h]
  rfl
theorem iretCancel (f : Fields) : Statement (.iretCancel f) := by
  intro h
  have h : f.x = 2 := eq_of_beq (need_none (legal_x h))
  show some (if f.x.toNat % 4 == 1 then Instr.iretKill f else if f.x.toNat % 4 == 2 then Instr.iretCancel f
    else Instr.iretResume f) = _
  rw [h]
  rfl
theorem engineElementLands (uid trk elem : Nat) : Statement (.engineElementLands uid trk elem) := trivial
theorem nodeStart (uid off : Nat) : Statement (.nodeStart uid off) := trivial
theorem mmaStep (uid trk : Nat) : Statement (.mmaStep uid trk) := trivial
theorem matrixRowStep (uid trk row : Nat) : Statement (.matrixRowStep uid trk row) := trivial
theorem translationWalk (part ctx va : Nat) (kind : AccessKind) : Statement (.translationWalk part ctx va kind) := trivial
theorem faultRecordPost (part : Nat) : Statement (.faultRecordPost part) := trivial
theorem heldExitComplete (uid : Nat) : Statement (.heldExitComplete uid) := trivial
theorem launchValidation (part : Nat) : Statement (.launchValidation part) := trivial
theorem predecessorPoll (launch : Nat) : Statement (.predecessorPoll launch) := trivial
theorem teamKill (launch index : Nat) : Statement (.teamKill launch index) := trivial
theorem launchKill (part : Nat) (doneRec : Word) : Statement (.launchKill part doneRec) := trivial
theorem bind (r : BindRec) (sup : SupParams) : Statement (.bind r sup) := trivial
theorem prepareForRestore (r : BindRec) : Statement (.prepareForRestore r) := trivial
theorem stop (r : BindRec) : Statement (.stop r) := trivial
theorem teamSaved (uid off : Nat) : Statement (.teamSaved uid off) := trivial
theorem move (r : BindRec) : Statement (.move r) := trivial
theorem start (r : BindRec) : Statement (.start r) := trivial
theorem releaseBinding (r : BindRec) : Statement (.releaseBinding r) := trivial
theorem headWaitExpiry (part launch index : Nat) (victims : List Nat) : Statement (.headWaitExpiry part launch index victims) := trivial
theorem stopReportExpiry (uid : Nat) : Statement (.stopReportExpiry uid) := trivial
theorem thermalMigration (core temp : Nat) : Statement (.thermalMigration core temp) := trivial
theorem thermalTrip (core temp : Nat) : Statement (.thermalTrip core temp) := trivial
theorem thermalRecover (core temp : Nat) : Statement (.thermalRecover core temp) := trivial
theorem powerSample (part : Nat) (p : PowerReading) : Statement (.powerSample part p) := trivial
theorem pauseRequest (m : GangMsg) : Statement (.pauseRequest m) := trivial
theorem pause (m : GangMsg) : Statement (.pause m) := trivial
theorem paused (m : GangMsg) : Statement (.paused m) := trivial
theorem save (m : GangMsg) : Statement (.save m) := trivial
theorem ready (m : GangMsg) : Statement (.ready m) := trivial
theorem go (m : GangMsg) : Statement (.go m) := trivial
theorem fail (m : GangMsg) : Statement (.fail m) := trivial
theorem validated (m : GangMsg) : Statement (.validated m) := trivial
theorem storeRecord (part : Nat) (r : FabRecord) : Statement (.storeRecord part r) := trivial
theorem loadRecord (part : Nat) (r : FabRecord) : Statement (.loadRecord part r) := trivial
theorem loadReply (part : Nat) (r : FabRecord) : Statement (.loadReply part r) := trivial
theorem atomicRecord (part : Nat) (r : FabRecord) : Statement (.atomicRecord part r) := trivial
theorem atomicReply (part : Nat) (r : FabRecord) : Statement (.atomicReply part r) := trivial
theorem reduceContribution (part : Nat) (r : FabRecord) : Statement (.reduceContribution part r) := trivial
theorem acknowledgement (part : Nat) (r : FabRecord) : Statement (.acknowledgement part r) := trivial
theorem batchClose (part : Nat) (r : FabRecord) : Statement (.batchClose part r) := trivial
theorem closeReply (part : Nat) (r : FabRecord) : Statement (.closeReply part r) := trivial
theorem readyToReceive (part : Nat) (m : XferMsg) : Statement (.readyToReceive part m) := trivial
theorem workEntryReady (uid entry : Nat) : Statement (.workEntryReady uid entry) := trivial
theorem chunk (part : Nat) (m : XferMsg) : Statement (.chunk part m) := trivial
theorem spillRefetch (uid entry chunk : Nat) : Statement (.spillRefetch uid entry chunk) := trivial
theorem dataFlit (link : Nat) (f : Flit) : Statement (.dataFlit link f) := trivial
theorem markerFlit (link : Nat) (f : Flit) : Statement (.markerFlit link f) := trivial
theorem controlFlit (link : Nat) (f : Flit) : Statement (.controlFlit link f) := trivial
theorem idleFlit (link : Nat) (f : Flit) : Statement (.idleFlit link f) := trivial
theorem slotStateFlit (link : Nat) (f : Flit) : Statement (.slotStateFlit link f) := trivial
theorem retryRequestFlit (link : Nat) (f : Flit) : Statement (.retryRequestFlit link f) := trivial
theorem dwellStart (time : Nat) : Statement (.dwellStart time) := trivial
theorem linkDown (link : Nat) : Statement (.linkDown link) := trivial
theorem keyInstall (link : Nat) (key : BitVec 256) : Statement (.keyInstall link key) := trivial
theorem keyRequest (link : Nat) : Statement (.keyRequest link) := trivial
theorem rdmaWrite (w : RdmaWrite) : Statement (.rdmaWrite w) := trivial
theorem landingSlotEntersQueue (part area : Nat) : Statement (.landingSlotEntersQueue part area) := trivial
theorem invalidRequest (part qp : Nat) : Statement (.invalidRequest part qp) := trivial
theorem queuePairCreate (part : Nat) (q : QpSpec) (regions : List Region) : Statement (.queuePairCreate part q regions) := trivial
theorem dumpSend (part : Nat) : Statement (.dumpSend part) := trivial
theorem dumpAcknowledged (part : Nat) : Statement (.dumpAcknowledged part) := trivial
theorem ptpMessage (m : PtpMessage) : Statement (.ptpMessage m) := trivial
theorem ptpLockLost : Statement (.ptpLockLost) := trivial
theorem ptpRelock (m : PtpMessage) : Statement (.ptpRelock m) := trivial
theorem attestationRequest (nonce : BitVec 256) : Statement (.attestationRequest nonce) := trivial
theorem lifeCycleCommand (target : Nat) (signed : Bool) : Statement (.lifeCycleCommand target signed) := trivial
theorem partitionShapeChange (shape : Nat) : Statement (.partitionShapeChange shape) := trivial
theorem cxlSanitizeComplete (port : Nat) : Statement (.cxlSanitizeComplete port) := trivial
theorem powerOnReset (b : BringUp) : Statement (.powerOnReset b) := trivial
theorem warmReset (b : BringUp) : Statement (.warmReset b) := trivial
theorem partitionReset (part : Nat) : Statement (.partitionReset part) := trivial
theorem breakpointMatch (b : BraidRef) (pc : Nat) (bp : Nat) : Statement (.breakpointMatch b pc bp) := trivial
theorem debugStopComplete (uid : Nat) : Statement (.debugStopComplete uid) := trivial
theorem debugResume (part binding : Nat) : Statement (.debugResume part binding) := trivial
theorem debugStep (part binding : Nat) : Statement (.debugStep part binding) := trivial
theorem traceSample (core : Nat) (b : BraidRef) : Statement (.traceSample core b) := trivial
theorem traceRecordPost (part : Nat) : Statement (.traceRecordPost part) := trivial
theorem follyTrialStart (part : Nat) (ctl : Word) : Statement (.follyTrialStart part ctl) := trivial
theorem follyTrialStop (part : Nat) : Statement (.follyTrialStop part) := trivial
theorem follyTrialExpiry (part : Nat) : Statement (.follyTrialExpiry part) := trivial
theorem replayArm (part binding : Nat) : Statement (.replayArm part binding) := trivial
theorem gazeboRegisterWrite (part num idx : Nat) (v : Word) : Statement (.gazeboRegisterWrite part num idx v) := trivial
theorem linkUp (link : Nat) : Statement (.linkUp link) := trivial
theorem saveEngineRestore (uid off : Nat) : Statement (.saveEngineRestore uid off) := trivial
theorem wipeComplete (part : Nat) : Statement (.wipeComplete part) := trivial
theorem follyHoldEnd (b : BraidRef) : Statement (.follyHoldEnd b) := trivial
theorem telemetryRingSend (part : Nat) : Statement (.telemetryRingSend part) := trivial

end Sys2Proof.Laws.Assembles
end

