-- ==== Sys2Proof/Tests/Slice0.lean ====
section
/-! SUPPORT. Small tests: the checks of WellFormed, words of the encoding tables, single steps with results
reckoned by hand from the spec's rules, and for the statements' hypotheses states that meet them. -/

namespace Sys2Proof.Tests

open Sys2Proof Sys2Proof.Machine

/-! A small machine -/

/-- Fields with every bit zero. -/
def f0 : Fields :=
  { len := 0, s := false, m := false, g := 0, d := 0, a := 0, b := 0, c := 0, f := 0, x := 0, h := 0, e := 0, l := 0 }

/-- D = v1, A = v2, B = v3, C = v4 of a format. -/
def fv (t : Tag) : Fields := { f0 with d := 1, a := 2, b := 3, c := 4, f := t }

/-- A braid of two live lanes at program counter 64 whose registers have one tag. -/
def labBraid (t : Tag) (v : List Word) : Braid :=
  let x := { Lane.start 64 8 [] with v, tags := List.replicate 8 t }
  { Braid.start 0 64 8 0 [] with lanes := List.replicate 2 x }

/-- A team of one such braid. -/
def labTeam (t : Tag) (v : List Word) : Team :=
  { Team.blank with uid := 1, scrGran := 1, entry := 64, codeLen := 256, braids := [labBraid t v], k := List.replicate 64 0 }

/-- The machine that issues one instruction of that braid, in both lanes. -/
def lab (t : Tag) (v : List Word) : State :=
  { State.reset with teams := [labTeam t v], uids := 2, cur := { uid := 1, rank := 0, lanes := 3, pc := 64, second := false } }

/-- The row and the environment of an instruction at its issue. -/
def infoOf (i : Instr) : Info := i.info.getD ⟨f0, 0, .nop, plainShape [] .zero .zero .zero .zero none none none none none⟩
def envOf (i : Instr) (s : State) : Env :=
  let t := (s.team? s.cur.uid).getD Team.blank
  mkEnv s t (t.braids.getD s.cur.rank (Braid.start 0 0 0 0 [])) i (infoOf i).fields

/-- MELD and UNMELD meet the meld state they need. -/
def meldFits (i : Instr) (meld : Bool) : Bool :=
  match i with
  | .meld _ => !meld
  | .unmeld _ => meld
  | _ => true

/-- Performs, as a check. -/
def performsB (i : Instr) (s : State) : Bool :=
  let e := envOf i s
  let n := infoOf i
  i.info.isSome && (s.team? s.cur.uid).isSome && (e.t.braids[s.cur.rank]?).isSome && s.soft.isEmpty && e.act != 0 &&
    (n.cls != .priv || e.t.launch.isNone) && (!(e.f.m && n.vecs.any) || e.b.meld) &&
    meldFits i e.b.meld &&
    (!i.braidWide || e.act == e.b.liveMask) &&
    (Mask.lanes e.act).all fun l =>
      (!n.vecs.d || decide (e.b.vecName e.f l e.f.d < e.t.nv)) && (!n.vecs.a || decide (e.b.vecName e.f l e.f.a < e.t.nv)) &&
      (!n.vecs.b || decide (e.b.vecName e.f l e.f.b < e.t.nv)) && (!n.vecs.c || decide (e.b.vecName e.f l e.f.c < e.t.nv))

theorem performs_of {i : Instr} {s : State} (h : performsB i s = true) : Performs i (infoOf i) s (envOf i s) := by
  simp only [performsB, Bool.and_eq_true] at h
  obtain ⟨⟨⟨⟨⟨⟨⟨⟨⟨h1, h2⟩, h3⟩, h4⟩, h5⟩, h6⟩, h7⟩, h8⟩, h9⟩, h10⟩ := h
  obtain ⟨n, hn⟩ := Option.isSome_iff_exists.1 h1
  obtain ⟨t, ht⟩ := Option.isSome_iff_exists.1 h2
  have het : (envOf i s).t = t := by simp [envOf, mkEnv, ht]
  rw [het] at h3
  obtain ⟨b, hb⟩ := Option.isSome_iff_exists.1 h3
  have heb : (envOf i s).b = b := by simp [envOf, mkEnv, ht, List.getD, hb]
  have hinf : infoOf i = n := by simp [infoOf, hn]
  refine ⟨⟨by rw [hinf, hn], by rw [het]; exact ht, by rw [het, heb]; exact hb, ?_, ?_⟩, ?_, ?_, ?_, ?_, ?_, ?_, ?_⟩
  · rw [het, heb]; simp [envOf, ht, List.getD, hb]
  · simpa using h4
  · simpa using h5
  · intro h; simpa [h] using h6
  · intro ha hv; simpa [ha, hv] using h7
  · rintro f rfl; exact Eq.mp (Bool.not_eq_true' _) h8
  · rintro f rfl; exact h8
  · intro hw; simpa [hw] using h9
  · intro l hl
    have := List.all_eq_true.1 h10 l hl
    simp only [Bool.and_eq_true, Bool.or_eq_true, Bool.not_eq_true', decide_eq_true_eq] at this
    obtain ⟨⟨⟨a, b⟩, c⟩, d⟩ := this
    exact ⟨fun h => by simpa [h] using a, fun h => by simpa [h] using b, fun h => by simpa [h] using c,
      fun h => by simpa [h] using d⟩

/-- Tags, as a check. -/
def taggedB (e : Env) (cs : List Check) : Bool :=
  cs.all fun c => !c.vec || (Mask.lanes e.act).all fun l => e.srcTag false c.reg l == c.want

theorem tagged_of {e : Env} {cs : List Check} (h : taggedB e cs = true) : e.tagged cs := by
  intro c hc hv l hl
  have := List.all_eq_true.1 h c hc
  simp only [hv, Bool.not_true, Bool.false_or] at this
  simpa using List.all_eq_true.1 this l hl


/-! Reading results -/

/-- The state that an outcome answers. -/
def after (o : Host.Outcome State Fault Refusal) : State :=
  match o with
  | .next t => t
  | _ => State.reset

/-- Braid 0 of a team after an outcome, a register, a tag, a scalar, a predicate and where a lane stands. -/
def braidOf (o : Host.Outcome State Fault Refusal) (uid : Nat) : Braid :=
  ((after o).braid? uid 0).getD (Braid.start 0 0 0 0 [])
def vOf (o : Host.Outcome State Fault Refusal) (l r : Nat) : Nat := (((braidOf o 1).lane l).vreg r).toNat
def tOf (o : Host.Outcome State Fault Refusal) (l r : Nat) : Nat := (((braidOf o 1).lane l).vtag r).toNat
def sOf (o : Host.Outcome State Fault Refusal) (r : Nat) : Nat := ((braidOf o 1).sreg r).toNat
def pOf (o : Host.Outcome State Fault Refusal) (l p : Nat) : Bool := ((braidOf o 1).lane l).pred p
def pcOf (o : Host.Outcome State Fault Refusal) (l : Nat) : Nat := ((braidOf o 1).lane l).pc.toNat

/-- v1 of lane 0 after an instruction on registers of one tag. -/
def d0 (i : Instr) (t : Tag) (v : List Word) : Nat := vOf (exec i (lab t v)) 0 1

/-! WellFormed -/

/-- The check refuses these terms, each with this DETAIL and OPND (R141, R149). -/
def refuses (xs : List (Instr × Nat × Nat)) : Bool :=
  xs.all fun x => !x.1.wellFormed && decide (x.1.illegal = some x.2)

/-- Words that a length does not have are no part of an instruction (R131). -/
theorem test_wf_length :
    (Instr.add { fv 3 with e := 1 }).wellFormed = false ∧ (Instr.add { fv 3 with len := 1, b := 0, l := 1 }).wellFormed = false ∧
    (Instr.add { fv 3 with len := 3 }).wellFormed = false ∧ (Instr.add (fv 3)).wellFormed = false ∧
    (Instr.add { fv 3 with c := 0 }).wellFormed = true := by decide

/-- The guard 0b1000 (R132), a length outside the key (R142), and one wrong value for each role of a register field
(R137, R138). -/
theorem test_wf_roles :
    refuses [(.nop { f0 with g := 8 }, 2, 7), (.br f0, 4, 0), (.brm { f0 with len := 1 }, 4, 0),
    (.nop { f0 with d := 1 }, 6, 1), (.add (fv 3), 6, 4),
    (.add { fv 3 with c := 0, x := 0x10 }, 5, 9), (.mov { f0 with d := 1, a := 2, x := 0x20 }, 5, 9),
    (.add { fv 3 with c := 0, d := 64, x := 0x80 }, 5, 1), (.xlr { fv 3 with x := 0x80 }, 5, 1),
    (.hadq { fv 10 with c := 0 }, 5, 3), (.srd { f0 with d := 64 }, 5, 1),
    (.cmp { fv 3 with c := 0, d := 8 }, 5, 1), (.cmp { fv 3 with c := 0, x := 0x80 }, 5, 1),
    (.accz { f0 with d := 8 }, 5, 1), (.claim { f0 with a := 64 }, 5, 2),
    (.cntAdd { f0 with d := 64 }, 5, 1)] = true := by decide

/-- One ill-formed term for each check of F, X and H in the arithmetic classes (R158-R182). -/
theorem test_wf_arithmetic :
    refuses [(.add { fv 9 with c := 0 }, 5, 8), (.fadd { fv 3 with c := 0 }, 5, 8),
    (.shl { fv 15 with c := 0 }, 5, 8), (.and { fv 3 with c := 0 }, 6, 8),
    (.add { fv 3 with c := 0, x := 2 }, 5, 9), (.mulh { fv 3 with c := 0, x := 1 }, 5, 9),
    (.fadd { fv 10 with c := 0, x := 1 }, 5, 9), (.fadd { fv 10 with c := 0, x := 14 }, 5, 9),
    (.add { fv 3 with c := 0, h := 1 }, 6, 5), (.addc { fv 3 with c := 1 }, 5, 8),
    (.addc { fv 8 with c := 1, h := 8 }, 5, 5), (.lea { fv 3 with c := 0 }, 5, 8),
    (.lea { fv 4 with c := 0, h := 8 }, 5, 5), (.cmp { fv 3 with c := 0, x := 6 }, 5, 9),
    (.cmp { fv 3 with c := 0, h := 2 }, 5, 5), (.fexp2 { fv 9 with b := 0, c := 0 }, 5, 8),
    (.cvt { fv 0 with b := 0, c := 0, h := 3 }, 5, 8), (.cvt { fv 3 with b := 0, c := 0 }, 5, 5),
    (.cvt { fv 3 with b := 0, c := 0, h := 0x1A }, 5, 5), (.pack { fv 4 with c := 0 }, 5, 8),
    (.qnt { fv 3 with c := 0 }, 5, 8), (.qnt { fv 12 with c := 0, x := 2 }, 5, 9),
    (.qnt { fv 12 with len := 1, b := 0, c := 0, e := 256 }, 5, 6),
    (.qntDerive { fv 12 with b := 0, c := 0, x := 0x88, h := 2 }, 5, 5),
    (.xlr { fv 3 with len := 1, b := 0, e := 0x3000 }, 5, 6),
    (.xlb { fv 0 with b := 0, x := 3 }, 5, 9), (.xls { fv 0 with x := 0x20, h := 6 }, 5, 5),
    (.xls { fv 0 with len := 1, b := 0, e := 32 }, 5, 6), (.vote { f0 with x := 4 }, 5, 9),
    (.red { fv 9 with b := 0, c := 0, x := 6 }, 5, 9), (.red { fv 9 with b := 0, c := 0 }, 5, 8),
    (.scan { fv 3 with b := 0, c := 0, h := 2 }, 5, 5)] = true := by decide

/-- One for each check of the control, synchronisation, team and trap classes (R190-R222). -/
theorem test_wf_control :
    refuses [(.br { f0 with len := 1, x := 1 }, 6, 9), (.brm { f0 with len := 2, x := 4 }, 5, 9),
    (.brm { f0 with len := 2, d := 16 }, 5, 1), (.brm { f0 with len := 2, e := 0x10000 }, 5, 6),
    (.brm { f0 with len := 2, l := 1 }, 5, 10), (.mapt { f0 with len := 1, x := 3, h := 13 }, 5, 5),
    (.barArv f0, 5, 5), (.barArv { f0 with h := 9 }, 5, 5), (.pharr { f0 with a := 1, b := 2, x := 0x63 }, 5, 9),
    (.tktTake { f0 with len := 1, h := 2, e := 4 }, 5, 6), (.fence { f0 with h := 4 }, 5, 9),
    (.fence { f0 with h := 5, x := 1 }, 5, 5), (.sleep { f0 with len := 1, e := 0x1000000 }, 5, 6),
    (.carve { f0 with len := 1, e := 0x4000 }, 5, 6), (.bkpt { f0 with x := 2 }, 5, 9),
    (.prog { f0 with h := 16 }, 5, 5), (.launch { fv 0 with b := 0, c := 0, x := 2 }, 5, 9)] = true := by decide

/-- One for each check of the memory, fabric, engine, matrix, collective and privileged classes (R223-R333). -/
theorem test_wf_memory :
    refuses [(.ld { f0 with f := 3, x := 3 }, 5, 9), (.ld { f0 with x := 7 }, 5, 9),
    (.st { f0 with x := 4 }, 5, 9), (.ldu { f0 with x := 3 }, 5, 9), (.pf { f0 with x := 0x30 }, 5, 9),
    (.atom { f0 with f := 1 }, 5, 8), (.atom { f0 with f := 10, x := 1 }, 5, 8),
    (.atom { f0 with f := 3, x := 0x20 }, 5, 9), (.rstx { f0 with f := 3, x := 6 }, 5, 9),
    (.bclose { f0 with x := 0x41 }, 5, 9), (.cpy { f0 with len := 1, x := 0x28 }, 5, 9),
    (.cpy { f0 with len := 1, e := 0x100 }, 5, 6), (.gath { f0 with len := 2, x := 2, l := 2 }, 5, 10),
    (.dgn { f0 with len := 2, l := 1 }, 5, 10), (.claim { f0 with a := 2, b := 1 }, 5, 2),
    (.mma { f0 with f := 10 }, 5, 8), (.mma { f0 with f := 12, x := 2 }, 5, 9),
    (.mma { f0 with len := 1, f := 12, e := 1 }, 5, 6), (.gmma { f0 with len := 1, f := 12, x := 0x08 }, 5, 9),
    (.accrd { f0 with len := 1, f := 10, e := 0x40 }, 5, 6), (.qtile { f0 with len := 1, f := 12 }, 5, 6),
    (.qpwPost { f0 with len := 1, x := 0x10 }, 5, 9), (.qpwPost { f0 with len := 1, f := 3, x := 2, e := 4 }, 5, 6),
    (.srd { f0 with b := 1 }, 5, 3), (.srd { f0 with x := 5, b := 64 }, 5, 3),
    (.tlbi { f0 with x := 3 }, 5, 9), (.tlbi { f0 with len := 1, x := 2 }, 5, 6),
    (.iretKill { f0 with x := 2 }, 5, 9)] = true := by decide

/-! Decoding -/

/-- Words of the encodings of R131, R137, R160-R166. -/
theorem test_decode_integer :
    decodeTableWord 64 0x0000000000000014 = some (.nop { f0 with s := true }) ∧
    decodeTableWord 64 0x0081400080830110 = some (.sub { f0 with d := 3, a := 1, b := 2, f := 4, x := 0x81 }) ∧
    decodeTableWord 96 0xFFFFFFFF020080600101A121 = some (.addc { f0 with len := 1, g := 10, d := 1, a := 2, c := 3, f := 8, h := 2, e := 0xffffffff }) ∧
    decodeTableWord 64 0x00003FE0B8F00168 = some (.mad { f0 with m := true, d := 112, a := 113, b := 2, c := 127, f := 3 }) ∧
    decodeTableWord 64 0x00014000C1010250 = some (.bfx { f0 with d := 1, a := 2, b := 3, f := 4, x := 1 }) ∧
    decodeTableWord 64 0x01023000C10502B0 = some (.cmp { f0 with d := 5, a := 2, b := 3, f := 3, x := 2, h := 1 }) := by decide

/-- Words of the encodings of R167-R174. -/
theorem test_decode_float :
    decodeTableWord 64 0x0009A080C1010330 = some (.fma { f0 with d := 1, a := 2, b := 3, c := 4, f := 10, x := 9 }) ∧
    decodeTableWord 64 0x00079000C1010360 = some (.fcmp { f0 with d := 1, a := 2, b := 3, f := 9, x := 7 }) ∧
    decodeTableWord 64 0x0A00C00001010480 = some (.cvt { f0 with d := 1, a := 2, f := 12, h := 0xa }) ∧
    decodeTableWord 64 0x0001C000C10104B0 = some (.qnt { f0 with d := 1, a := 2, b := 3, f := 12, x := 1 }) ∧
    decodeTableWord 64 0x0188C000010104B0 = some (.qntDerive { f0 with d := 1, a := 2, f := 12, x := 0x88, h := 1 }) := by decide

/-- Words of the encodings of R177-R185. -/
theorem test_decode_lanes :
    decodeTableWord 96 0x000000300000A08000820501 = some (.xlr { f0 with len := 1, d := 2, a := 1, c := 4, f := 10, e := 0x30 }) ∧
    decodeTableWord 64 0x0083000001030530 = some (.vote { f0 with d := 3, a := 2, x := 0x83 }) ∧
    decodeTableWord 64 0x0008A00001010550 = some (.red { f0 with d := 1, a := 2, f := 10, x := 8 }) ∧
    decodeTableWord 64 0x01000000000105A0 = some (.mfs { f0 with d := 1, h := 1 }) := by decide

/-- Words of the encodings of R190-R195. -/
theorem test_decode_control :
    decodeTableWord 128 0x00000000000200010001000001090612 = some (.brm { f0 with len := 2, d := 9, a := 2, x := 1, e := 0x20001 }) ∧
    decodeTableWord 96 0xFFFFFFFE0000000000000631 = some (.call { f0 with len := 1, e := 0xfffffffe }) ∧
    decodeTableWord 64 0x0000000001800680 = some (.meld { f0 with a := 3 }) ∧
    decodeTableWord 128 0x00000000000000001001000001010692 = some (.mapt { f0 with len := 2, d := 1, a := 2, x := 1, h := 0x10 }) := by decide

/-- Words of the encodings of R196-R215. -/
theorem test_decode_sync :
    decodeTableWord 64 0x0100000000000700 = some (.barArv { f0 with h := 1 }) ∧
    decodeTableWord 64 0x0772006080800720 = some (.pharr { f0 with a := 1, b := 2, c := 3, x := 0x72, h := 7 }) ∧
    decodeTableWord 96 0x000000030A00000000000741 = some (.tktTake { f0 with len := 1, h := 0xa, e := 3 }) ∧
    decodeTableWord 64 0x0403000000000780 = some (.fence { f0 with x := 3, h := 4 }) ∧
    decodeTableWord 64 0x0501000001010800 = some (.launchUni { f0 with d := 1, a := 2, x := 1, h := 5 }) ∧
    decodeTableWord 96 0x000001230000000000000811 = some (.carve { f0 with len := 1, e := 0x123 }) := by decide

/-- Words of the encodings of R223-R251. -/
theorem test_decode_memory :
    decodeTableWord 64 0x04C23000048208A0 = some (.ldu { f0 with d := 2, a := 9, f := 3, x := 0xc2, h := 4 }) ∧
    decodeTableWord 64 0x048B3060010108C0 = some (.atom { f0 with d := 1, a := 2, b := 0, c := 3, f := 3, x := 0x8b, h := 4 }) ∧
    decodeTableWord 64 0x0793012101021910 = some (.stx { f0 with g := 1, d := 2, a := 2, b := 4, c := 9, x := 0x93, h := 7 }) ∧
    decodeTableWord 64 0x0050012000010940 = some (.bclose { f0 with d := 1, c := 9, x := 0x50 }) := by decide

/-- Words of the encodings of R231-R269. -/
theorem test_decode_engines :
    decodeTableWord 96 0x0000000504000000C1010981 = some (.cpy { f0 with len := 1, d := 1, a := 2, b := 3, x := 0, h := 4, e := 5 }) ∧
    decodeTableWord 96 0x0001000200000000808009C1 = some (.dgl { f0 with len := 1, a := 1, b := 2, e := 0x10002 }) ∧
    decodeTableWord 64 0x00010000C1010A00 = some (.claim { f0 with d := 1, a := 2, b := 3, x := 1 }) ∧
    decodeTableWord 64 0x0000A00080870A50 = some (.accrd { f0 with d := 7, a := 1, b := 2, f := 10 }) ∧
    decodeTableWord 96 0x000004000001C000C1010A91 = some (.qtile { f0 with len := 1, d := 1, a := 2, b := 3, f := 12, x := 1, e := 0x400 }) ∧
    decodeTableWord 128 0x00000000000100000312A302C50B0B02 = some (.qpwPost { f0 with len := 2, d := 11, a := 10, b := 11, c := 24, f := 10, x := 0x12, h := 3, e := 0x10000 }) ∧
    decodeTableWord 96 0x000000070000000001010B31 = some (.cntWait { f0 with len := 1, d := 1, a := 2, e := 7 }) := by decide

/-- Words of the encodings of R218-R222, R325-R333. -/
theorem test_decode_system :
    decodeTableWord 64 0x0901000000000B90 = some (.bkpt { f0 with x := 1, h := 9 }) ∧
    decodeTableWord 64 0x0000000080010BB0 = some (.rng { f0 with d := 1, b := 2 }) ∧
    decodeTableWord 64 0x1005000080010F00 = some (.srd { f0 with d := 1, b := 2, x := 5, h := 0x10 }) ∧
    decodeTableWord 64 0x0001000002870F50 = some (.iretKill { f0 with d := 7, a := 5, x := 1 }) ∧
    decodeTableWord 96 0x000000010002000080800F41 = some (.tlbi { f0 with len := 1, a := 1, b := 2, x := 2, e := 1 }) := by decide

/-- The encoder gives the word back (R131). -/
theorem test_encode : encode (.add { f0 with d := 3, a := 1, b := 1, f := 3 }) = 0x0000300040830100 ∧
    encodeBytes (.exit { f0 with g := 0xA }) = [0x60, 0xA6, 0, 0, 0, 0, 0, 0] := by decide

/-- What the decoder says of an encoding that it refuses. -/
def refusal (raw : BitVec 128) : Option Illegal :=
  match decodeBits raw with
  | .error x => some x
  | .ok _ => none

/-- LEN = 11, the guard 0b1000, an opcode the map does not assign, a length its key does not permit, a reserved value
and a field without a role (R141, R149). -/
theorem test_decode_refuses :
    refusal 0x0000000000000103 = some ⟨0x0000000000000103, 1, 0⟩ ∧
    refusal 0x0000000000008100 = some ⟨0x0000000000008100, 2, 7⟩ ∧
    refusal 0x0000000000000020 = some ⟨0x0000000000000020, 3, 0⟩ ∧
    refusal 0x0000000000000600 = some ⟨0x0000000000000600, 4, 0⟩ ∧
    refusal 0x0000A00000830100 = some ⟨0x0000A00000830100, 5, 8⟩ ∧
    refusal 0x0000000000200660 = some ⟨0x0000000000200660, 6, 1⟩ := by decide

/-! Single instructions: expected values reckoned from the rules named -/

/-- The machine of `lab` with NMODE set. -/
def labN (nmode : Word) (t : Tag) (v : List Word) : State := (lab t v).modBraid 1 0 fun b => { b with nmode }

/-- The machine of `lab` whose lanes differ. -/
def lab2 (t : Tag) (v w : List Word) : State := (lab t v).modLanes 1 0 2 fun _ x => { x with v := w }

/-- D = v1, A = v2, B = v3 of a format. -/
def fa (t : Tag) : Fields := { f0 with d := 1, a := 2, b := 3, f := t }

theorem test_add_wraps : d0 (.add (fa 3)) 3 [0, 0, 0x000000057FFFFFFF, 0xFFFFFFFF00000001] = 0x0000000480000000 := by decide
/-- NMODE[11:8] = 8 is SAT for I32 (R61, R92); X[0] = 1 wraps all the same (R161). -/
theorem test_add_saturates :
    vOf (exec (.add (fa 3)) (labN 0x800 3 [0, 0, 0x000000057FFFFFFF, 0xFFFFFFFF00000001])) 0 1 = 0x000000047FFFFFFF ∧
    vOf (exec (.add { fa 3 with x := 1 }) (labN 0x800 3 [0, 0, 0x7FFFFFFF, 1])) 0 1 = 0x80000000 := by decide
theorem test_sub_borrows : d0 (.sub (fa 8)) 8 [0, 0, 1, 2] = 0xFFFFFFFFFFFFFFFF := by decide
/-- -1 · 2 in each byte (R160). -/
theorem test_mul_signs : d0 (.mul (fa 1)) 1 [0, 0, 0xFFFFFFFFFFFFFFFF, 0x0202020202020202] = 0xFEFEFEFEFEFEFEFE := by decide
/-- The high half of -1 · 2 is -1, and of (2^64 - 1) · 2 it is 1 (R160). -/
theorem test_mulh_signs : d0 (.mulh (fa 4)) 4 [0, 0, 0xFFFFFFFFFFFFFFFF, 2] = 0xFFFFFFFFFFFFFFFF ∧
    d0 (.mulh (fa 8)) 8 [0, 0, 0xFFFFFFFFFFFFFFFF, 2] = 1 := by decide
theorem test_mad : d0 (.mad (fv 8)) 8 [0, 0, 5, 6, 7] = 37 := by decide
/-- R163: -7 / 2 = -3; division of -5 by zero gives the most negative value; min / -1 wraps to min. -/
theorem test_div : d0 (.div (fa 4)) 4 [0, 0, -7, 2] = 0xFFFFFFFFFFFFFFFD ∧
    d0 (.div (fa 4)) 4 [0, 0, -5, 0] = 0x8000000000000000 ∧ d0 (.div (fa 8)) 8 [0, 0, 5, 0] = 0xFFFFFFFFFFFFFFFF ∧
    d0 (.div (fa 4)) 4 [0, 0, 0x8000000000000000, -1] = 0x8000000000000000 := by decide
theorem test_rem : d0 (.rem (fa 4)) 4 [0, 0, -7, 2] = 0xFFFFFFFFFFFFFFFF ∧ d0 (.rem (fa 4)) 4 [0, 0, 7, 0] = 7 := by decide
theorem test_min_max : d0 (.min (fa 4)) 4 [0, 0, -1, 1] = 0xFFFFFFFFFFFFFFFF ∧ d0 (.max (fa 8)) 8 [0, 0, -1, 1] = 0xFFFFFFFFFFFFFFFF := by
  decide
/-- R162: 2^64 - 1 + 0 + pC carries into p2, and D is 0. -/
theorem test_addc : let o := exec (.addc { fa 8 with c := 0, h := 2 }) (lab 8 [0, 0, 0xFFFFFFFFFFFFFFFF, 0])
    vOf o 0 1 = 0 ∧ pOf o 0 2 = true ∧ pcOf o 1 = 72 := by decide
theorem test_subb : let o := exec (.subb { fa 8 with c := 1, h := 2 }) (lab 8 [0, 0, 5, 7])
    vOf o 0 1 = 0xFFFFFFFFFFFFFFFE ∧ pOf o 0 2 = true := by decide
/-- R166: a shift of the whole width gives zero, and SAR the sign. -/
theorem test_shifts : d0 (.shl (fa 3)) 3 [0, 0, 0x0000000100000001, 0x0000002000000004] = 0x10 ∧
    d0 (.shr (fa 3)) 3 [0, 0, 0x8000000000000000, 0x0000001F00000000] = 0x0000000100000000 ∧
    d0 (.sar (fa 3)) 3 [0, 0, 0x8000000000000000, 0x0000002000000000] = 0xFFFFFFFF00000000 := by decide
theorem test_bfx : d0 (.bfx { fa 4 with x := 1 }) 4 [0, 0, 0xF0, 0x0404] = 0xFFFFFFFFFFFFFFFF ∧
    d0 (.bfx (fa 4)) 4 [0, 0, 0xF0, 0x0404] = 15 := by decide
theorem test_bfi : d0 (.bfi (fv 8)) 8 [0, 0, 0xFFFF, 0, 0x0804] = 0xF00F := by decide
theorem test_bits : d0 (.popc { fa 6 with b := 0 }) 6 [0, 0, 0xFFFF000000010003] = 0x0010000000010002 ∧
    d0 (.clz { fa 7 with b := 0 }) 7 [0, 0, 0x0000000100000000] = 0x0000001F00000020 ∧
    d0 (.brev { fa 8 with b := 0 }) 8 [0, 0, 1] = 0x8000000000000000 := by decide
theorem test_sel : d0 (.sel { fa 0 with c := 0 }) 3 [0, 0, 5, 6] = 5 ∧ d0 (.sel { fa 0 with c := 1 }) 3 [0, 0, 5, 6] = 6 := by decide
theorem test_lea : d0 (.lea { fa 4 with h := 3 }) 4 [0, 0, 0x100, -1] = 0xF8 := by decide
theorem test_cmp : pOf (exec (.cmp { fa 4 with d := 3, x := 2 }) (lab 4 [0, 0, -1, 1])) 1 3 = true ∧
    pOf (exec (.cmp { fa 8 with d := 3, x := 2 }) (lab 8 [0, 0, -1, 1])) 1 3 = false := by decide
/-- 1.0 + 1.0 = 2.0 and the largest finite number doubled is an infinity (R99, R168). -/
theorem test_fadd : d0 (.fadd (fa 10)) 10 [0, 0, 0x7F7FFFFF3F800000, 0x7F7FFFFF3F800000] = 0x7F80000040000000 := by decide
theorem test_fma : d0 (.fma (fv 10)) 10 [0, 0, 0x40000000, 0x40400000, 0x3F800000] = 0x40E00000 := by decide
/-- 1 / 0 is an infinity and 0 / 0 the canonical NaN (R95, R168). -/
theorem test_fdiv : d0 (.fdiv (fa 10)) 10 [0, 0, 0x3F800000, 0] = 0x7FC000007F800000 := by decide
theorem test_fsqrt : d0 (.fsqrt { fa 10 with b := 0 }) 10 [0, 0, 0xBF80000040800000] = 0x7FC0000040000000 := by
  decide +kernel
theorem test_fmin_zero : d0 (.fmin (fa 10)) 10 [0, 0, 0x80000000, 0] = 0x80000000 := by decide
/-- NaN is unordered (R169): condition 7 holds and condition 0 does not. -/
theorem test_fcmp : pOf (exec (.fcmp { fa 10 with d := 3, x := 7 }) (lab 10 [0, 0, 0x7FC00000, 0])) 0 3 = true ∧
    pOf (exec (.fcmp { fa 10 with d := 3 }) (lab 10 [0, 0, 0x80000000, 0])) 0 3 = true := by decide
theorem test_fclass : d0 (.fclass { fa 10 with b := 0 }) 10 [0, 0, 0xFF80000080000000] = 0x0000000100000008 := by decide
/-- -1 as I32 is -1.0 as F32 (R171). -/
theorem test_cvt : d0 (.cvt { fa 10 with b := 0, h := 3 }) 3 [0, 0, 0x00000002FFFFFFFF] = 0x40000000BF800000 := by decide
theorem test_pack : d0 (.pack (fa 2)) 2 [0, 0, 0x4444333322221111, 0x8888777766665555] = 0x6666555522221111 := by decide
/-- Lane 0 takes v2 of lane 1 and lane 1 falls back to C for lane 2, which is not active (R178). -/
theorem test_xlr : let o := exec (.xlr { fv 4 with len := 1, b := 0, e := 0x61 }) (lab2 4 [0, 0, 5, 6, 7] [0, 0, 50, 60, 70])
    vOf o 0 1 = 50 ∧ vOf o 1 1 = 70 := by decide
theorem test_xlb : vOf (exec (.xlb { fv 0 with b := 0, x := 2 }) (lab2 4 [0, 0, 5, 6, 7] [0, 0, 50, 60, 70])) 0 1 = 50 := by decide
theorem test_vote : vOf (exec (.vote { f0 with d := 1, a := 0, x := 3 }) (lab 3 [])) 0 1 = 0 ∧
    sOf (exec (.vote { f0 with d := 1, a := 0, x := 0x83 }) (lab 3 [])) 1 = 3 := by decide
theorem test_match :
    vOf (exec (.matchLanes { f0 with d := 1, a := 2, f := 4 }) (lab2 4 [0, 0, 5] [0, 1, 6])) 1 1 = 2 := by decide
theorem test_red : vOf (exec (.red { fa 4 with b := 0 }) (lab2 4 [0, 0, 5] [0, 1, 6])) 0 1 = 11 := by decide
theorem test_scan : vOf (exec (.scan { fa 4 with b := 0 }) (lab2 4 [0, 0, 5] [0, 1, 6])) 1 1 = 11 := by decide
/-- R139: the immediate of a 32-bit format is copied to each element. -/
theorem test_movi : d0 (.movi { f0 with len := 1, d := 1, f := 3, e := 5 }) 3 [0, 0] = 0x0000000500000005 := by decide
theorem test_mfs_lane : vOf (exec (.mfs { f0 with d := 1, h := 1 }) (lab 3 [0, 0])) 1 1 = 1 ∧
    tOf (exec (.mfs { f0 with d := 1, h := 1 }) (lab 3 [0, 0])) 1 1 = 8 := by decide
/-- R189: pc + 4 · sext(E); a lane whose guard is false goes on (R132). -/
theorem test_br : pcOf (exec (.br { f0 with len := 1, e := 0xFFFFFFFF }) (lab 3 [])) 0 = 60 ∧
    pcOf (exec (.br { f0 with len := 1, g := 1, e := 16 }) (lab 3 [])) 0 = 76 := by decide
theorem test_call_ret : let o := exec (.call { f0 with len := 1, e := 4 }) (lab 3 [])
    pcOf o 0 = 80 ∧ ((braidOf o 1).lane 0).depth = 1 ∧
      pcOf (exec (.ret f0) { after o with cur := { (lab 3 []).cur with pc := 80 } }) 0 = 76 := by decide
theorem test_exit : (((after (exec (.exit { f0 with g := 1 }) (lab 3 []))).braid? 1 0).map (·.liveMask)) = some 3 ∧
    (((after (exec (.exit f0) { lab 3 [] with cur := { (lab 3 []).cur with lanes := 1 } })).braid? 1 0).map (·.liveMask)) = some 2 := by
  decide
/-- A tag that is not F's raises cause 0x05; a supervisor team's is a fault, and the braid stops (R59, R147, R327). -/
theorem test_tag_trap : (braidOf (exec (.add (fa 3)) (lab 4 [0, 0, 1, 2])) 1).stop = .fault 1 ∧
    (braidOf (exec (.add (fa 3)) (lab 4 [0, 0, 1, 2])) 1).pres.ecause = 0x020005 := by decide
theorem test_srd : sOf (exec (.srd { f0 with d := 1, x := 4, h := 0x13 }) (lab 3 [])) 1 = 760 := by decide

/-- From reset, the placed word 'MOVI v0, 5' of I32 is fetched and performed in one step (R70, R135). -/
theorem test_step : let t := after (step (State.reset.withFetchWord 96 0x000000050000300000000591))
    ((t.braid? 1 0).map fun b => ((b.lane 31).pc.toNat, ((b.lane 31).vreg 0).toNat)) = some (76, 0x0000000500000005) := by
  decide

/-! Witnesses: for each statement with hypotheses, states and operands that meet them, clause by clause -/

/-- A witness of an instruction: where it issues, the sources that its clause checks, and what else the clause asks. -/
abbrev Wit := Instr × State × (Env → List Check) × (Env → Bool)

/-- The witness issues, performs with its operands tagged, and meets what else its clause asks. -/
def Meets (w : Wit) : Prop :=
  let e := envOf w.1 w.2.1
  Performs w.1 (infoOf w.1) w.2.1 e ∧ e.tagged (w.2.2.1 e) ∧ w.2.2.2 e = true
def meets (w : Wit) : Bool :=
  let e := envOf w.1 w.2.1
  performsB w.1 w.2.1 && taggedB e (w.2.2.1 e) && w.2.2.2 e

theorem meets_all {ws : List Wit} (h : ws.all meets = true) : ∀ w ∈ ws, Meets w := by
  intro w hw
  have := List.all_eq_true.1 h w hw
  simp only [meets, Bool.and_eq_true] at this
  exact ⟨performs_of this.1.1, tagged_of this.1.2, this.2⟩

/-- The same for an instruction that issues only. -/
def issuesB (i : Instr) (s : State) : Bool :=
  i.info.isSome && (s.team? s.cur.uid).isSome && ((envOf i s).t.braids[s.cur.rank]?).isSome && s.soft.isEmpty

theorem issues_of {i : Instr} {s : State} (h : issuesB i s = true) : Issues i (infoOf i) s (envOf i s) := by
  simp only [issuesB, Bool.and_eq_true] at h
  obtain ⟨⟨⟨h1, h2⟩, h3⟩, h4⟩ := h
  obtain ⟨n, hn⟩ := Option.isSome_iff_exists.1 h1
  obtain ⟨t, ht⟩ := Option.isSome_iff_exists.1 h2
  have het : (envOf i s).t = t := by simp [envOf, mkEnv, ht]
  rw [het] at h3
  obtain ⟨b, hb⟩ := Option.isSome_iff_exists.1 h3
  have heb : (envOf i s).b = b := by simp [envOf, mkEnv, ht, List.getD, hb]
  have hinf : infoOf i = n := by simp [infoOf, hn]
  refine ⟨by rw [hinf, hn], by rw [het]; exact ht, by rw [het, heb]; exact hb, ?_, by simpa using h4⟩
  rw [het, heb]; simp [envOf, ht, List.getD, hb]

/-- A witness of an instruction that issues. -/
abbrev Iss := Instr × State × (Env → Bool)

def meetsIssue (w : Iss) : Bool := issuesB w.1 w.2.1 && w.2.2 (envOf w.1 w.2.1)

def MeetsIssue (w : Iss) : Prop :=
  Issues w.1 (infoOf w.1) w.2.1 (envOf w.1 w.2.1) ∧ w.2.2 (envOf w.1 w.2.1) = true

theorem issues_all {ws : List Iss} (h : ws.all meetsIssue = true) :
    ∀ w ∈ ws, MeetsIssue w := by
  intro w hw
  have := List.all_eq_true.1 h w hw
  simp only [meetsIssue, Bool.and_eq_true] at this
  exact ⟨issues_of this.1, this.2⟩

/-- Nothing else is asked. -/
def noMore (_ : Env) : Bool := true
/-- Instructions of the small machine whose sources have one tag. -/
def onTag (t : Tag) (cs : Env → List Check) (is_ : List Instr) : List Wit := is_.map fun i => (i, lab t [1, 2, 3, 4, 5], cs, noMore)

/-- The small machine of a user launch: STATE 1, partition 0 open. -/
def labLaunch : Launch :=
  { launchOfRec 0 0 0 [] (parseLaunch 0) (parseCode 0 0) [] [] with
    num := 0, st := 1, phase := .admitted, gridX := 4, gridY := 1, gridZ := 1, braids := 1, streamCount := 4, started := [0]
    entry := 64, codeLen := 256 }
def labU (t : Tag) (v : List Word) : State :=
  let s := lab t v
  { s with teams := s.teams.map ({ · with launch := some 0 }), launches := [labLaunch], launchNums := 1 }
/-- A machine with its team, or its braid, changed. -/
def withTeam (s : State) (f : Team → Team) : State := s.modTeam 1 f
def withBraid (s : State) (f : Braid → Braid) : State := s.modBraid 1 0 f
/-- A machine in which only some lanes issue. -/
def issuing (s : State) (m : Mask) : State := { s with cur := { s.cur with lanes := m } }

/-! Encoding and the step -/

theorem witness_DecodeEncode : let i := Instr.add { f0 with d := 3, a := 1, b := 1, f := 3 }
    i.encodable = true ∧ i.wellFormed = true := by decide
theorem witness_EncodeDecode : ∃ i, decodeBits 0x0000300040830100 = .ok i := ⟨_, rfl⟩

/-- LEN = 11, the guard 0b1000, the ends of each range of opcodes that the map does not assign, and a length outside
the key. -/
theorem witness_IllegalOrder :
    lenOf 0x3 = 3 ∧ (lenOf 0x8660 ≠ 3 ∧ (0x8660 : BitVec 128).extractLsb' 12 4 = 8) ∧
    ([0, 2, 0x0F, 0x2D, 0x2F, 0x41, 0x47, 0x4F, 0x57, 0x5C, 0x5F, 0x67, 0x6B, 0x6F, 0x7C, 0x7F, 0x85, 0x87, 0x8D, 0x8F,
      0x95, 0x97, 0x9D, 0x9F, 0xAA, 0xAF, 0xB4, 0xB7, 0xBE, 0xEF, 0xF6, 0xFF].all fun (k : Nat) =>
        let raw := BitVec.ofNat 128 (k * 16)
        lenOf raw != 3 && raw.extractLsb' 12 4 != 8 && (opOf raw).toNat == k) = true ∧
    ∃ i n, assemble (opOf 0x662).toNat (fieldsOf 0x662) = some i ∧ i.info = some n ∧
      n.shape.lens.contains (lenOf 0x662) = false ∧ (0x662 : BitVec 128).extractLsb' 12 4 ≠ 8 ∧ lenOf 0x662 ≠ 3 := by
  refine ⟨by decide, by decide, by decide, _, _, rfl, rfl, by decide, by decide, by decide⟩

/-- A machine of one placed instruction, MOVI v0, 5. -/
def placed : State := State.reset.withFetchWord 96 0x000000050000300000000591

theorem witness_StepRunsDecoded :
    (placed.second = none ∧ placed.inputs = [] ∧ ((serveSides (busySides placed) placed).2.any fun p => match p.first.what with
      | .instr _ => true
      | _ => false) = true) ∧
    (Instr.ptpLockLost.isEvent = true) ∧ (considerBraid placed 1 0).2 ≠ [] ∧
    (match codeBytes placed (placedTeam placed) 64 with
      | (_, .ok bs) =>
        let w := BitVec.ofNat 128 (leNat bs)
        fetchCheck (placedTeam placed).codeLen 64 w == 0 && (match decodeBits w with
          | .ok _ => true
          | .error _ => false)
      | _ => false) = true := by
  decide +kernel

theorem witness_StepKeepsMemoryForm : State.reset.memoryOk ∧ ∃ t, step State.reset = .next t :=
  ⟨⟨by decide, by decide, fun _ h => (List.not_mem_nil h).elim⟩, _, rfl⟩
theorem witness_GoesOn : Issues (.nop f0) (infoOf (.nop f0)) (lab 3 []) (envOf (.nop f0) (lab 3 [])) := issues_of (by decide)

/-! Traps -/

theorem witness_NoActiveLane : ∀ w ∈ ([(.add { fa 3 with g := 1 }, lab 3 [], fun e => e.act == 0)] : List Iss),
    MeetsIssue w := issues_all (by decide +kernel)

/-- Each clause: a privileged instruction of a user team, with no active lane and with two; a braid-wide one in part of
the lanes; M and UNMELD outside a region and MELD inside; D, then A, at the first register that is not there. -/
theorem witness_CheckTraps :
    (∀ w ∈ ([(.srd { f0 with g := 1 }, labU 3 [], fun e => (infoOf e.i).cls == .priv && e.t.launch != none && e.act == 0),
        (.srd f0, labU 3 [], fun e => (infoOf e.i).cls == .priv && e.t.launch != none && e.act != 0),
        (.meld { f0 with a := 1 }, issuing (lab 3 []) 1, fun e => e.i.braidWide && e.act != 0 && e.act != e.b.liveMask && !e.b.meld),
        (.add { fa 3 with m := true }, lab 3 [], fun e => e.act != 0 && !e.b.meld && e.f.m && (infoOf e.i).vecs.any),
        (.unmeld f0, lab 3 [], fun e => e.act != 0 && !e.b.meld),
        (.meld f0, withBraid (lab 3 []) ({ · with meld := true }), fun e => e.act != 0 && e.b.meld),
        (.add { fa 3 with d := 8 }, lab 3 [], fun e => e.act != 0 && !e.i.braidWide && (infoOf e.i).vecs.d && e.t.nv == e.f.d.toNat),
        (.add { fa 3 with x := 0x80, a := 8 }, lab 3 [], fun e => e.act != 0 && !(infoOf e.i).vecs.d && (infoOf e.i).vecs.a &&
          e.t.nv == e.f.a.toNat)] : List Iss),
      MeetsIssue w) ∧
    (∀ w ∈ ([(.add (fa 3), lab 4 [0, 0, 1, 2], Env.anyTag, fun e => !taggedB e e.tagsAB)] : List Wit), Meets w) :=
  ⟨issues_all (by decide +kernel), meets_all (by decide +kernel)⟩

/-- With a handler address, without one, and inside a handler. -/
theorem witness_TrapEntry : ∀ w ∈ ([(.nop f0, withTeam (lab 3 []) ({ · with emulVec := 128 }),
        fun e => e.b.handler == none && e.t.emulVec != 0),
      (.nop f0, labU 3 [], fun e => e.t.emulVec == 0 && e.t.launch != none && (e.s.part? e.t.part).isSome),
      (.nop f0, withBraid (labU 3 []) ({ · with handler := some 3 }), fun e => e.b.handler != none && e.t.launch != none &&
        (e.s.part? e.t.part).isSome)] : List Iss),
    MeetsIssue w := issues_all (by decide +kernel)

/-! Arithmetic, cross-lane and moves -/

theorem witness_IntegerArithmetic : ∀ w ∈ onTag 3 Env.tagsAB [.add (fa 3), .sub (fa 3), .mul (fa 3), .mulh (fa 3), .min (fa 3),
    .max (fa 3)] ++ onTag 3 Env.tagsABC [.mad (fv 3)] ++ onTag 3 Env.tagsA [.abs (fa 3), .neg (fa 3)] ++
    onTag 4 Env.tagsAB [.lea (fa 4)], Meets w := meets_all (by decide +kernel)
theorem witness_Division : ∀ w ∈ onTag 3 Env.tagsAB [.div (fa 3), .rem (fa 3)], Meets w := meets_all (by decide +kernel)
theorem witness_Carries :
    (∀ w ∈ onTag 8 (fun e => [e.checkA 8, e.checkB 8]) [.addc (fa 8), .subb (fa 8)], Meets w) ∧
    (Instr.addc { fa 8 with c := 0 }).wellFormed = true ∧ (Instr.subb { fa 8 with c := 7, h := 7 }).wellFormed = true ∧
    (envOf (.addc { fa 8 with len := 1, b := 0 }) (lab 8 [])).f.len = 1 := ⟨meets_all (by decide +kernel), by decide⟩
theorem witness_BitInstructions : ∀ w ∈ onTag 3 Env.anyTag [.and (fa 0), .or (fa 0), .xor (fa 0), .not (fa 0), .sel (fa 0),
    .mov (fa 0), .tag (fa 3), .shl (fa 3), .shr (fa 3), .sar (fa 3), .rot (fa 3), .brev (fa 3)] ++
    onTag 3 Env.tagsA [.bfx (fa 3), .popc (fa 3), .clz (fa 3)] ++ onTag 3 Env.tagsAB [.bfi (fv 3)], Meets w :=
  meets_all (by decide +kernel)
theorem witness_Comparisons : ∀ w ∈ onTag 3 Env.tagsAB [.cmp (fa 3), .cmp { fa 3 with x := 5 }] ++
    onTag 10 Env.tagsAB [.fcmp (fa 10), .fcmp { fa 10 with x := 7 }], Meets w ∧ (w.1.fields.f = 3 → w.1.fields.x.toNat % 8 < 6) :=
  fun w h => ⟨meets_all (by decide +kernel) w h, by revert w; decide⟩
theorem witness_FloatArithmetic : ∀ w ∈ onTag 10 Env.tagsAB [.fadd (fa 10), .fsub (fa 10), .fmul (fa 10), .fdiv (fa 10)] ++
    onTag 10 Env.tagsABC [.fma (fv 10)] ++ onTag 10 Env.tagsA [.frcp (fa 10), .frsq (fa 10), .fsqrt (fa 10), .fexp2 (fa 10),
      .flog2 (fa 10), .fsin (fa 10), .fcos (fa 10)], Meets w := meets_all (by decide +kernel)
/-- Both ends of the range of formats. -/
theorem witness_FloatSelections : (∀ w ∈ onTag 9 Env.tagsAB [.fmin (fa 9), .fmax (fa 9)] ++ onTag 12 Env.tagsAB [.fmin (fa 12)] ++
    onTag 9 Env.tagsA [.frnd (fa 9), .fclass (fa 9)], Meets w) ∧ 9 ≤ (9 : Tag).toNat ∧ (12 : Tag).toNat ≤ 12 :=
  ⟨meets_all (by decide +kernel), by decide⟩
theorem witness_Conversions : (∀ w ∈ onTag 3 (fun e => [e.checkA 3]) [.cvt { fa 10 with h := 3 }] ++
    onTag 2 Env.tagsAB [.pack (fa 2)] ++ onTag 2 Env.tagsA [.unpk (fa 2)] ++
    onTag 10 (fun e => [e.checkA 10]) [.qnt (fa 12), .qnt (fa 1), .qntDerive (fa 12)] ++
    [(.qnt { fa 12 with x := 1 }, (lab 10 [0, 0, 1]).modLanes 1 0 3 (fun _ x => x.setV 1 0 12),
      (fun e => [e.checkD 12, e.checkA 10]), noMore)] ++ onTag 12 Env.tagsA [.dqnt (fa 12)], Meets w) ∧ fmtCount 2 % 2 = 0 :=
  ⟨meets_all (by decide +kernel), by decide⟩

/-- A scalar of the small machine. -/
def withScalar (s : State) (r : Nat) (v : Word) : State := withBraid s fun b => { b with s := b.s.set r v }

/-- Each way of XLR at the last legal index word, amounts 31 and 32. -/
theorem witness_LaneMoves :
    (∀ w ∈ ([0x0000, 0x2F7F, 0x1061] : List (BitVec 32)).map fun k => ((.xlr { fv 4 with len := 1, b := 0, e := k }, lab 4 [1, 2, 3, 4, 5],
      Env.anyTag, fun e => e.f.e.toNat < 2 ^ 14 && e.f.e.toNat / 128 % 2 == 0 && e.f.e.toNat / 4096 != 3) : Wit), Meets w) ∧
    (∀ w ∈ ([(.xlr { fv 4 with len := 0 }, lab 4 [1, 2, 3, 4, 5], Env.anyTag, fun e => e.f.len == 0 &&
        (Mask.lanes e.act).all fun l => (e.src e.f.kindB e.f.b l).toNat % 2 ^ 32 < 128),
      (.xlb (fa 0), withScalar (lab 4 []) 3 31, Env.anyTag, fun e => e.f.variant == 0 && (e.b.sreg 3).toNat == 31),
      (.xlb { fa 0 with x := 1 }, lab 4 [], Env.anyTag, fun e => e.f.variant == 1),
      (.xlb { fa 0 with x := 2 }, lab 4 [], Env.anyTag, fun e => e.f.variant == 2),
      (.xls (fa 0), withScalar (lab 4 []) 3 31, Env.anyTag, fun e => e.f.variant == 0 && (e.b.sreg 3).toNat == 31),
      (.xls { fa 0 with x := 2, len := 1 }, lab 4 [], Env.anyTag, fun e => e.f.variant == 2),
      (.xlb (fa 0), withScalar (lab 4 []) 3 32, Env.anyTag, fun e => e.f.len == 0 && e.f.variant == 0 && (e.b.sreg 3).toNat == 32),
      (.xls (fa 0), withScalar (lab 4 []) 3 32, Env.anyTag, fun e => e.f.len == 0 && (e.b.sreg 3).toNat == 32)] : List Wit), Meets w) :=
  ⟨meets_all (by decide +kernel), meets_all (by decide +kernel)⟩

theorem witness_VoteAndMatch : (Instr.vote { f0 with d := 1 }).wellFormed = true ∧
    (∀ w ∈ onTag 3 Env.anyTag (([0, 1, 2, 3] : List (BitVec 8)).map fun k => .vote { f0 with x := k }) ++
      onTag 3 Env.tagsA [.matchLanes (fa 3), .matchLanes { fa 3 with x := 1 }], Meets w) := ⟨by decide, meets_all (by decide +kernel)⟩

/-- Every operation of RED and SCAN. -/
theorem witness_Reductions : (∀ w ∈ onTag 3 Env.tagsA (([0, 1, 2, 3, 4, 5] : List (BitVec 8)).map fun k => .red { fa 3 with x := k }) ++
    onTag 3 Env.tagsA (([0, 1, 2] : List (BitVec 8)).map fun k => .scan { fa 3 with x := k }) ++
    onTag 10 Env.tagsA (([8, 9, 10] : List (BitVec 8)).flatMap fun k => [.red { fa 10 with x := k }, .scan { fa 10 with x := k, h := 1 }]), Meets w) :=
  meets_all (by decide +kernel)

/-- MFS at the ends of each listed range and just outside; NMODE at a legal and at a reserved value; RNG at its last
counter and beyond it; CLK; PROG in and outside a trial. -/
theorem witness_MovesAndSpecials :
    (∀ w ∈ onTag 3 Env.anyTag ([.movi { f0 with len := 1, f := 3 }, .movi { f0 with len := 2, f := 3 }] ++
        (([0, 0x12, 0x13, 0x20, 0x22, 0x23, 0x2F, 0x30, 0x36, 0x47, 0x48] : List (BitVec 8)).map fun k => .mfs { f0 with h := k }) ++
        [.clk f0, .prog f0]), Meets w) ∧
    (∀ w ∈ ([(.mts { f0 with a := 2, h := 0x20 }, lab 8 [0, 0, 5], Env.anyTag, fun e => (e.srcA 0).toNat < 2 ^ 44 &&
        (List.range 11).all fun k => elemOf 4 k (e.srcA 0) % 8 < 6),
      (.mts { f0 with a := 2, h := 0x20 }, lab 8 [0, 0, 6], Env.anyTag, fun e => elemOf 4 0 (e.srcA 0) % 8 == 6),
      (.mts { f0 with a := 2, h := 0x20 }, lab 8 [0, 0, 0x100000000000], Env.anyTag, fun e => 2 ^ 44 ≤ (e.srcA 0).toNat),
      (.mts { f0 with a := 2 }, lab 8 [0, 0, 6], Env.anyTag, fun e => e.f.h != 0x20),
      (.rng { f0 with b := 2 }, labU 8 [0, 0, 3], Env.anyTag, fun e => (e.s.launchOf e.t).any fun n =>
        (e.src e.f.kindB e.f.b 0).toNat + 1 == n.streamCount && (e.src e.f.kindB e.f.b 1).toNat < n.streamCount),
      (.rng { f0 with b := 3, x := 0x20 }, withScalar (labU 8 []) 3 4, Env.anyTag, fun e => (e.s.launchOf e.t).any fun n =>
        e.f.kindB && n.streamCount ≤ (e.b.sreg e.f.b.toNat).toNat),
      (.clk f0, lab 8 [], Env.anyTag, fun e => e.t.replay == none)] : List Wit), Meets w) :=
  ⟨meets_all (by decide +kernel), meets_all (by decide +kernel)⟩

theorem witness_Writes : ∀ w ∈ onTag 3 Env.anyTag [.add (fa 3), .cmp (fa 3)], Meets w := meets_all (by decide +kernel)
theorem witness_LaneClassFrame : ∀ w ∈ ([(.add (fa 3), lab 3 [1, 2, 3, 4], Env.anyTag, fun e => (infoOf e.i).cls == .lane),
    (.xlb (fa 0), lab 3 [1, 2, 3, 4], Env.anyTag, fun e => (infoOf e.i).cls == .xlane)] : List Wit), Meets w := meets_all (by decide +kernel)

/-! A small machine with memory -/

/-- A handle entry of 64 bytes (R114). -/
def hEntry (space base bound : Nat) : List Byte := leBytes 64 (base + bound * 2 ^ 64 + space * 2 ^ 128)

/-- A group of teams 0 and 1 that has a barrier, a window and tickets. -/
def labGroup : Group :=
  { index := 0, b := true, w := true, c := true, span := false, members := [0, 1], winGran := 1, gang := 0, peers := 0
    remote := [], departed := [], left := []
    bar := { phase := 0, broken := false, rels := [], gone := [], took := [] }
    tickets := List.replicate 4 { now := 0, poison := false, pass := [], poisonAt := [], rels := [] } }

/-- The machine of `labU` with its partition brought up, an identity context, a handle table of one entry per level and
a group. The handles: 1 the slice, 2 the scratchpad, 3 the window, 4 chip scratchpad, 5 and 6 global memory, 7 remote;
0 is malformed. -/
def labM (t : Tag) (v : List Word) : State :=
  let s := labU t v
  let s := s.placeTables
  let s := (List.range 8).foldl (fun s k => s.place (0x50000 + 64 * k) (hEntry k (if k = 5 ∨ k = 6 then 0x60000 else 0) 4096)) s
  { s with
    parts := [(Partition.reset 0).placed], teams := s.teams.map ({ · with handles := 0x50000, code := loadCode })
    launches := s.launches.map ({ · with groups := [labGroup], doneRec := 0x70000, handles := 0x50000, code := loadCode }) }

def withLaunch (s : State) (f : Launch → Launch) : State := s.modLaunch 0 f
def withGroup (s : State) (f : Group → Group) : State := withLaunch s fun n => { n with groups := n.groups.map f }
def withPart (s : State) (f : Partition → Partition) : State := s.modPart 0 f
def withLanes (s : State) (f : Lane → Lane) : State := s.modLanes 1 0 3 fun _ x => f x

/-- What the read of the handle entry that H names gives. -/
def hState (e : Env) : State := (readHandle e.s e.t e.f.h.toNat).1
def hGot (e : Env) : Handle :=
  match (readHandle e.s e.t e.f.h.toNat).2 with
  | .ok (some h) => h
  | _ => Handle.none

def handleB (e : Env) (spaces : List Nat) (checks : List Check) (offs : List LaneReq) (align : Nat) : Bool :=
  match readHandle e.s e.t e.f.h.toNat with
  | (t, .ok (some h)) =>
    !handleBad t e.t h && spaces.contains h.space && taggedB e checks && offs.all fun r => r.off % Int.ofNat align == 0
  | _ => false

theorem handle_of {e : Env} {spaces : List Nat} {checks : List Check} {offs : List LaneReq} {align : Nat}
    (h : handleB e spaces checks offs align = true) : HandleReady e spaces checks offs align (hState e) (hGot e) := by
  unfold handleB at h
  split at h
  · next t h' hr =>
    simp only [Bool.and_eq_true, Bool.not_eq_true', List.contains_iff_mem] at h
    obtain ⟨⟨⟨h1, h2⟩, h3⟩, h4⟩ := h
    have e1 : hState e = t := by simp [hState, hr]
    have e2 : hGot e = h' := by simp [hGot, hr]
    refine ⟨by rw [e1, e2]; exact hr, by rw [e1, e2]; exact h1, by rw [e2]; exact h2, tagged_of h3, ?_⟩
    intro r hr'
    simpa using List.all_eq_true.1 h4 r hr'
  · simp at h

/-- What the checks of the accesses leave, and the places they find. -/
def sState (e : Env) (n : Nat) (u : Use) (offs : List LaneReq) : State :=
  (checkLanes e (hGot e) e.f.h.toNat n u offs (hState e)).1
def sSpots (e : Env) (n : Nat) (u : Use) (offs : List LaneReq) : List (Nat × Spot) :=
  laneSpots (checkLanes e (hGot e) e.f.h.toNat n u offs (hState e)).2

def spotsB (e : Env) (n : Nat) (u : Use) (offs : List LaneReq) : Bool :=
  ((checkLanes e (hGot e) e.f.h.toNat n u offs (hState e)).2.all fun x => match x.2 with
    | .ok _ => true
    | .error _ => false) && (peerSpots (sSpots e n u offs)).isEmpty

theorem laneSpots_all (rs : List (Nat × Except Draft Spot)) (h : (rs.all fun x => match x.2 with
    | .ok _ => true
    | .error _ => false) = true) : rs = (laneSpots rs).map fun x => (x.1, .ok x.2) := by
  induction rs with
  | nil => rfl
  | cons r rs ih =>
    simp only [List.all_cons, Bool.and_eq_true] at h
    obtain ⟨l, v⟩ := r
    cases v with
    | error d => simp at h
    | ok sp =>
      have h2 := ih h.2
      simp only [laneSpots, List.filterMap_cons, List.map_cons] at h2 ⊢
      exact congrArg _ h2

theorem spots_of {e : Env} {n : Nat} {u : Use} {offs : List LaneReq} (h : spotsB e n u offs = true) :
    SpotsReady e (hState e) (hGot e) n u offs (sState e n u offs) (sSpots e n u offs) := by
  simp only [spotsB, Bool.and_eq_true] at h
  refine ⟨?_, by simpa using h.2⟩
  exact Prod.ext rfl (laneSpots_all _ h.1)

/-- What the planning of a command, the turn and the race test find. -/
def cPlan (e : Env) : Option (State × Command) :=
  match planCommand e.s e.t e.i (e.b.vals e.i) e.act e.rank e.pc e.b.nmode with
  | (t, .ok c none) => some (t, c)
  | _ => none
def cTest (e : Env) (t : State) : Option State :=
  match testNames t e.t e.accessor (granuleUses e.i) with
  | .ok t' => some t'
  | .error _ => none

def commandB (e : Env) (more : Command → Bool) : Bool :=
  (cPlan e).any fun x => (issueTurn x.1 e.t x.2 e.act).isNone && (cTest e x.1).isSome && more x.2

theorem command_of {e : Env} {more : Command → Bool} (h : commandB e more = true) :
    ∃ t t' c, CommandReady e t t' c ∧ more c = true := by
  unfold commandB at h
  obtain ⟨⟨t, c⟩, hp, h⟩ := Option.any_eq_true _ _ |>.1 h
  simp only [Bool.and_eq_true, Option.isNone_iff_eq_none] at h
  obtain ⟨t', ht⟩ := Option.isSome_iff_exists.1 h.1.2
  refine ⟨t, t', c, ⟨?_, h.1.1, ?_⟩, h.2⟩
  · unfold cPlan at hp
    split at hp
    · next heq => cases hp; exact heq
    · cases hp
  · unfold cTest at ht
    split at ht
    · next heq => cases ht; exact heq
    · cases ht

/-- RemoteReady, as a check. -/
def remoteB (e : Env) (pat : Word) (legal : Word → Partition → Bool) (checks : List Check) (offs : List LaneReq) (n : Nat)
    (write : Bool) : Bool :=
  handleB e [7] checks offs n && (e.s.part? e.t.part).any (fun p => patternOk pat p && legal pat p) &&
    (offs.all fun r => decide (0 ≤ r.off) && decide (r.off + Int.ofNat n ≤ Int.ofNat (hGot e).bound)) &&
    (!write || !e.s.isDet e.t || holdsTurn e.s e.t e.rank)

theorem remote_of {e : Env} {pat : Word} {legal : Word → Partition → Bool} {checks : List Check} {offs : List LaneReq} {n : Nat}
    {write : Bool} (h : remoteB e pat legal checks offs n write = true) :
    ∃ p, RemoteReady e pat legal checks offs n write p (hState e) (hGot e) := by
  simp only [remoteB, Bool.and_eq_true] at h
  obtain ⟨⟨⟨h1, h2⟩, h3⟩, h4⟩ := h
  obtain ⟨p, hp, hq⟩ := Option.any_eq_true _ _ |>.1 h2
  simp only [Bool.and_eq_true] at hq
  refine ⟨p, ⟨handle_of h1, hp, hq.1, hq.2, ?_, ?_⟩⟩
  · intro r hr
    have := List.all_eq_true.1 h3 r hr
    simp only [Bool.and_eq_true, decide_eq_true_eq] at this
    exact this
  · intro hw
    simpa [hw] using h4

/-! Control flow, traps and synchronisation -/

/-- JTB without a table, with one at either end of the code object and one that begins before it. -/
theorem witness_Branches :
    (∀ w ∈ ([(.nop f0, lab 3 [], Env.anyTag, fun e => (after (exec e.i e.s)).braid? e.t.uid e.rank |>.isSome),
      (.br { f0 with len := 1, e := 4 }, lab 3 [], Env.anyTag, fun e => !e.b.meld),
      (.br { f0 with len := 1, e := 4 }, withBraid (lab 3 []) ({ · with meld := true, lanes := (labBraid 3 []).lanes }), Env.anyTag,
        fun e => e.b.meld && e.act == e.b.liveMask),
      (.brm { f0 with len := 2 }, lab 3 [], Env.anyTag, fun e => !e.b.meld),
      (.jtb { f0 with len := 1 }, lab 3 [], Env.anyTag, fun e => e.f.h == 0 && !e.b.meld),
      (.jtb { f0 with len := 1, h := 1, e := 0xFFFF0000 }, lab 3 [], Env.anyTag, fun e => e.f.h != 0 && !e.b.meld &&
        decide ((e.pc.toNat : Int) + 4 * (e.f.e.extractLsb' 16 16).toInt = 60)),
      (.jtb { f0 with len := 1, h := 3, e := 0x002E0000 }, lab 3 [], Env.anyTag, fun e => !e.b.meld &&
        decide ((e.t.codeLen : Int) < e.pc.toNat + 4 * (e.f.e.extractLsb' 16 16).toInt + 12)),
      (.jtb { f0 with len := 1, a := 1, h := 2, e := 0x002E0000 }, labM 3 [0, 1], Env.anyTag, fun e => !e.b.meld &&
        decide (e.pc.toNat + 4 * (e.f.e.extractLsb' 16 16).toInt + 8 = (e.t.codeLen : Int)) &&
        (jtbEntries e 248 2 (Mask.lanes e.act) e.s).2.all fun x => match x.2 with
          | .ok _ => true
          | .error _ => false)] : List Wit), Meets w) := meets_all (by decide +kernel)

/-- Depths 0, 15 and 16; a CALLI target at and below 2^32; a branch of some lanes in a region. -/
theorem witness_Calls :
    (∀ w ∈ ([(.call { f0 with len := 1 }, withLanes (lab 3 []) ({ · with depth := 15 }), Env.anyTag, fun e => (e.b.lane 0).depth < 16),
      (.calli { f0 with a := 2 }, lab 8 [0, 0, 0xFFFFFFFF], Env.anyTag, fun e => (e.src e.f.kindA e.f.a 0).toNat + 1 == 2 ^ 32 &&
        (e.src e.f.kindA e.f.a 1).toNat < 2 ^ 32 && !e.b.meld),
      (.ret f0, withLanes (lab 3 []) ({ · with depth := 1 }), Env.anyTag, fun e => 0 < (e.b.lane 0).depth && 0 < (e.b.lane 1).depth),
      (.call { f0 with len := 1 }, withLanes (lab 3 []) ({ · with depth := 16 }), Env.anyTag, fun e => (e.b.lane 0).depth == 16 && !e.b.meld),
      (.ret f0, lab 3 [], Env.anyTag, fun e => (e.b.lane 0).depth == 0 && !e.b.meld),
      (.calli { f0 with a := 2, x := 0x40 }, withScalar (lab 8 []) 2 0x100000000, Env.anyTag, fun e => e.f.kindA &&
        (e.b.sreg e.f.a.toNat).toNat == 2 ^ 32),
      (.br { f0 with len := 1 }, issuing (withBraid (lab 3 []) ({ · with meld := true })) 1, Env.anyTag, fun e =>
        e.b.meld && e.act != e.b.liveMask)] : List Wit), Meets w) := meets_all (by decide +kernel)

/-- MAPT up to the last entry of a table. -/
theorem witness_Splice :
    (∀ w ∈ ([(.meld { f0 with a := 1 }, lab 3 [], Env.anyTag, noMore),
      (.unmeld f0, withBraid (lab 3 []) ({ · with meld := true }), Env.anyTag, noMore),
      (.mapt { f0 with h := 0x1F }, lab 3 [], Env.anyTag, fun e => e.f.h.toNat % 16 + e.f.x.toNat % 4 + 1 == 16 &&
        e.b.mt0.length == 16 && e.b.mt1.length == 16),
      (.mapt { f0 with h := 0x0C, x := 3 }, lab 3 [], Env.anyTag, fun e => e.f.h.toNat % 16 + e.f.x.toNat % 4 + 1 == 16)]
      : List Wit), Meets w) := meets_all (by decide +kernel)

/-- The launch of `labM` with debug stops on: slot 0 of dbglaunch names it (R383). -/
def labDbg (flags : Nat) : State := withPart (labM 3 []) fun p => (p.setReg 0x0300 0 0x70000).setReg 0x0301 0 flags

theorem witness_TrapInstructions :
    (∀ w ∈ ([(.trap f0, lab 3 [], Env.anyTag, noMore),
      (.bkpt { f0 with x := 1 }, lab 3 [], Env.anyTag, fun e => !e.s.dbgFlag e.t 0), (.bkpt f0, lab 3 [], Env.anyTag, fun e => !e.s.dbgFlag e.t 0),
      (.bkpt f0, labDbg 1, Env.anyTag, fun e => e.s.dbgFlag e.t 0 && e.act &&& ~~~ e.b.passed != 0 && !e.f.s),
      (.emret f0, withBraid (lab 3 []) ({ · with handler := some 3 }), Env.anyTag, fun e => e.b.handler == some 3),
      (.emret f0, lab 3 [], Env.anyTag, fun e => e.b.handler == none)] : List Wit), Meets w) ∧
    (lab 3 []).team? (lab 3 []).cur.uid = some (labTeam 3 []) ∧ (labTeam 3 []).braids[(lab 3 []).cur.rank]? = some (labBraid 3 []) :=
  ⟨meets_all (by decide +kernel), by decide, by decide⟩

/-- Lanes that have arrived at the team barrier, or at the group's, for a phase. -/
def arrived (s : State) (p : Nat) : State := withLanes s ({ · with arrTeam := some p })
def arrivedG (s : State) (p : Nat) : State := withLanes s ({ · with arrGroup := [(0, p)] })

/-- No lane's wait is over. -/
def notOver (e : Env) : Bool := (Mask.lanes e.act).all fun l => (e.b.lane l).wait != some .ended

theorem witness_Barriers :
    (∀ w ∈ ([(.barArv { f0 with h := 1 }, lab 3 [], Env.anyTag, fun e => e.t.replay == none && notOver e && (e.b.lane 0).arrTeam != some e.t.barPhase &&
        (e.b.lane 1).arrTeam != some e.t.barPhase),
      (.barArv { f0 with h := 1 }, arrived (lab 3 []) 0, Env.anyTag, fun e => notOver e && (e.b.lane 0).arrTeam == some e.t.barPhase &&
        (e.b.lane 1).arrTeam == some e.t.barPhase),
      (.barWait { f0 with h := 1, d := 1 }, withTeam (arrived (lab 3 []) 0) ({ · with barPhase := 1 }), Env.anyTag, fun e =>
        (e.b.lane 0).arrTeam == some 0 && (e.b.lane 1).arrTeam == some 0 && e.t.barPhase == 1),
      (.barWait { f0 with h := 1 }, arrived (lab 3 []) 0, Env.anyTag, fun e => (e.b.lane 0).arrTeam == some 0 &&
        (e.b.lane 1).arrTeam == some 0 && e.t.barPhase == 0),
      (.barArv { f0 with h := 2 }, labM 3 [], Env.anyTag, fun e => (e.s.groupAt e.t 0).any fun g => g.b && !g.bar.broken &&
        e.t.replay == none && notOver e && (e.b.lane 0).lastGroup g.index != some g.bar.phase && (e.b.lane 1).lastGroup g.index != some g.bar.phase),
      (.barArv { f0 with h := 2 }, withGroup (labM 3 []) fun g => { g with bar := { g.bar with broken := true } }, Env.anyTag, fun e =>
        (e.s.groupAt e.t 0).any fun g => g.b && g.bar.broken),
      (.barWait { f0 with h := 2 }, withGroup (labM 3 []) fun g => { g with bar := { g.bar with broken := true } }, Env.anyTag, fun e =>
        (e.s.groupAt e.t 0).any fun g => g.b && g.bar.broken),
      (.barWait { f0 with h := 2 }, withGroup (arrivedG (labM 3 []) 0) fun g => { g with bar := { g.bar with phase := 1 } }, Env.anyTag,
        fun e => (e.s.groupAt e.t 0).any fun g => g.b && (e.b.lane 0).lastGroup g.index == some 0 && g.bar.phase == 1),
      (.barWait { f0 with h := 2 }, arrivedG (labM 3 []) 0, Env.anyTag, fun e => (e.s.groupAt e.t 0).any fun g => g.b && !g.bar.broken &&
        (e.b.lane 0).lastGroup g.index == some g.bar.phase && (e.b.lane 1).lastGroup g.index == some g.bar.phase),
      (.barArv { f0 with h := 2 }, withGroup (labM 3 []) ({ · with b := false }), Env.anyTag, fun e => (e.s.groupAt e.t 0).any (!·.b)),
      (.barWait { f0 with h := 2 }, withGroup (labM 3 []) ({ · with b := false }), Env.anyTag, fun e => (e.s.groupAt e.t 0).any (!·.b))]
      : List Wit), Meets w) ∧ (lab 3 []).team? (labTeam 3 []).uid = some (labTeam 3 []) ∧ (labTeam 3 []).carve = none :=
  ⟨meets_all (by decide +kernel), by decide, rfl⟩

/-- A phase object of phase 0 with INIT 2 and one arrival owed. -/
def labPhase : PhaseObj := { init := 2, next := 0, pend := 1, rsv := 0, broken := false, ph := 0 }
/-- `labM` with that object, or a broken one, at scratchpad address 0. -/
def labPh (o : PhaseObj) : State := withTeam (labM 3 []) fun t => { t with scratch := t.scratch.write 0 (leBytes 16 o.num) }

/-- Phases 0, 1, 2, 0x7FFF, 0x8000 and 0xFFFF of an object of phase 0, and what an arrival leaves owed: less, nothing,
and below nothing. -/
theorem witness_PhaseObjects :
    (labPhase.ph < 65536 ∧ (2 ≤ 2 ∧ 0x7FFF < 0x8000) ∧ 0x8000 ≤ 0xFFFF ∧ 0 < labPhase.init ∧ labPhase.rsv = 0 ∧
      (0 < labPhase.pend + 1 - 1) ∧ (labPhase.pend + 0 - 1 = 0 ∧ 0 < (labPhase.init : Int) + labPhase.next) ∧ labPhase.pend + 0 - 2 < 0) ∧
    (∀ w ∈ ([(.pharr { f0 with x := 1, h := 2 }, labPh labPhase, Env.anyTag, fun e => e.t.replay == none && handleB e [2, 3, 4] [] [] 1 &&
        match phaseSpot (hState e) e.t (hGot e) 2 0 with
        | .ok sp => decide (phaseAt (hState e) sp = labPhase) && (match phaseUpdate labPhase 0 0 1 with
            | .ok _ => true
            | .error _ => false) &&
          (match checkModel (hState e) e.t e.accessor .rmw sp true with
            | (t1, .ok ()) => (match probe t1 e.t.part .rmw sp with
              | (t2, .ok ()) => decide (phaseAt t2 sp = phaseAt (hState e) sp)
              | _ => false)
            | _ => false)
        | .error _ => false),
      (.pharr { f0 with b := 3, h := 2 }, withScalar (labPh labPhase) 3 2, Env.anyTag, fun e => handleB e [2, 3, 4] [] [] 1 &&
        match phaseSpot (hState e) e.t (hGot e) 2 0 with
        | .ok sp => (match phaseUpdate (phaseAt (hState e) sp) 2 0 2 with
            | .ok _ => false
            | .error _ => true)
        | .error _ => false),
      (.pharr { f0 with x := 2, c := 3, h := 2 }, withScalar (labPh labPhase) 3 0xFFFFFFFF, Env.anyTag, fun e =>
        handleB e [2, 3, 4] [] [] 1 && e.f.variant == 2 && (e.b.sreg e.f.c.toNat).toNat + 1 == 2 ^ 32)]
      : List Wit), Meets w) ∧
    (∀ w ∈ ([0, 1, 2, 0x7FFF, 0x8000, 0xFFFF] : List Word).flatMap (fun ph => [labPhase, { labPhase with broken := true }].map fun o =>
      ((.phwait { f0 with d := 1, b := 3, h := 2 }, withScalar (labPh o) 3 ph, Env.anyTag, fun e => handleB e [2, 3, 4] [] [] 1 &&
        match phaseSpot (hState e) e.t (hGot e) 2 0 with
        | .ok sp => (match checkModel (hState e) e.t e.accessor .syncRead sp true with
            | (t1, .ok ()) => (match probe t1 e.t.part .syncRead sp with
              | (t2, .ok ()) => decide (t2.team? e.t.uid = e.s.team? e.t.uid)
              | _ => false)
            | _ => false)
        | .error _ => false) : Wit)), Meets w) :=
  ⟨by decide, meets_all (by decide +kernel), meets_all (by decide +kernel)⟩

/-- A launch whose ticket sequence 0 stands at `now` with ranks passed, or a deterministic one. -/
def labTkt (now : Nat) (pass : List Nat) : State := withGroup (labM 3 []) fun g => { g with
  tickets := g.tickets.map fun q => { q with now, pass } }
def labDet (now : Nat) (passed : List Nat) (held : Bool) : State := withLaunch (labM 3 []) fun n => { n with
  det := true, hitchNow := now, hitchPassed := passed, hitchHeld := held }

/-- Rank 0 with its ticket taken, behind, served, and ahead (rank 1 waits for rank 0). -/
theorem witness_TicketsAndHitch :
    (∀ w ∈ ([(.tktTake f0, labTkt 0 [0], Env.anyTag, fun e => (e.s.groupAt e.t 0).any fun g => !g.span && (g.tickets[0]?).any (·.pass.contains (g.rank 0 e.t.index))),
      (.tktTake f0, labTkt 1 [], Env.anyTag, fun e => (e.s.groupAt e.t 0).any fun g => (g.tickets[0]?).any (g.rank 0 e.t.index < ·.now)),
      (.tktTake { f0 with len := 1, e := 3 }, labTkt 0 [], Env.anyTag, fun e => (e.s.groupAt e.t 0).any fun g => (g.tickets[3]?).any fun q =>
        g.rank 0 e.t.index == q.now && q.pass.isEmpty),
      (.tktWait f0, labTkt 0 [], Env.anyTag, fun e => (e.s.groupAt e.t 0).any fun g => (g.tickets[0]?).any (g.rank 0 e.t.index ≤ ·.now)),
      (.tktWait f0, withTeam (labTkt 0 []) ({ · with index := 1 }), Env.anyTag, fun e => (e.s.groupAt e.t 0).any fun g =>
        (g.tickets[0]?).any (·.now < g.rank 0 e.t.index)),
      (.hitchWait f0, labM 3 [], Env.anyTag, fun e => (e.s.launchOf e.t).any (!·.det)), (.hitchPass f0, labM 3 [], Env.anyTag, fun e =>
        (e.s.launchOf e.t).any (!·.det)),
      (.hitchWait f0, labDet 1 [] false, Env.anyTag, fun e => (e.s.launchOf e.t).any fun n => n.det && n.turnSpent 0),
      (.hitchWait f0, withTeam (labDet 0 [] false) ({ · with index := 1 }), Env.anyTag, fun e => (e.s.launchOf e.t).any fun n => n.det &&
        !n.turnSpent 32 && n.hitchNow != 32),
      (.hitchWait f0, labDet 0 [] false, Env.anyTag, fun e => (e.s.launchOf e.t).any fun n => n.det && !n.turnSpent 0 && n.hitchNow == 0),
      (.hitchPass f0, labDet 0 [] true, Env.anyTag, fun e => (e.s.launchOf e.t).any (·.det))] : List Wit), Meets w) ∧
    ((labTkt 0 []).launches.any fun n => n.groups.any fun g => g.tickets.any fun q => q.pass.contains 0 == false && decide (q.now ≤ 0)) = true :=
  ⟨meets_all (by decide +kernel), by decide +kernel⟩

/-- A transmission of lane 1 that is not yet acknowledged. -/
def labTx : State :=
  let s := lab 3 []
  { s with txs := [{ tag := 1, uid := 1, rank := 0, lane := 1, need := 1, got := 0, record := baseRecord s (labTeam 3 []) .store, dst := 1 }] }

/-- Lane 0 has met a release of device scope. -/
def labSeen : State := withLanes (labM 3 []) ({ · with seen := [mkRelease (labTeam 3 []) 0 [(7, 5)] 3 0] })

/-- SLEEP for 0, 2^24 - 1 and 2^24 clocks; an expiry before and at its clock. -/
theorem witness_FenceYieldSleep :
    (∀ w ∈ ([(.fence { f0 with h := 2 }, withGroup (labM 3 []) ({ · with b := false }), Env.anyTag, fun e => (e.s.groupAt e.t 0).any (!·.b)),
      (.fence { f0 with h := 2, x := 3 }, labM 3 [], Env.anyTag, fun e => (e.s.groupAt e.t 0).any (·.b)),
      (.fence { f0 with h := 4, x := 2 }, lab 3 [], Env.anyTag, fun e => e.f.x.getLsbD 1 && e.s.txs.isEmpty && e.t.replay == none),
      (.fence { f0 with h := 10, x := 3 }, labM 3 [], Env.anyTag, fun e => (e.s.groupAt e.t 1).isNone && e.f.h.toNat % 8 == 2),
      (.fence { f0 with h := 3, x := 1 }, labSeen, Env.anyTag, fun e => (e.b.lane 0).seen.any fun r => syncs e.s r 3 0 e.t e.rank),
      (.fence { f0 with h := 3, x := 1 }, lab 3 [], Env.anyTag, fun e => !e.f.x.getLsbD 1 && e.f.h.toNat % 8 == 3),
      (.fence { f0 with h := 4, x := 2 }, labTx, Env.anyTag, fun e => e.s.txs.any fun x => x.uid == e.t.uid && x.rank == e.rank &&
        e.act.getLsbD x.lane),
      (.yield f0, lab 3 [], Env.anyTag, noMore)] : List Wit) ++ (([0, 0xFFFFFF] : List (BitVec 32)).map fun k =>
        ((.sleep { f0 with len := 1, e := k }, lab 3 [], Env.anyTag, fun e => (e.b.lane 0).sleepUntil == none && (e.b.lane 1).sleepUntil == none) : Wit)) ++
      [(.sleep { f0 with b := 3 }, withScalar (lab 3 []) 3 0x1000000, Env.anyTag, fun e => decide (2 ^ 24 ≤ (e.b.sreg 3).toNat))],
      Meets w) ∧
    ((withLanes (lab 3 []) ({ · with yielded := true })).braid? 1 0).any (fun b => (b.lane 0).yielded) = true ∧
    ([0, 1].all fun k => ((withLanes (withBraid (lab 3 []) ({ · with meld := true })) ({ · with sleepUntil := some (k, 72) })).braid? 1 0).any fun b =>
      b.meld && ((List.range 32).any (fun l => (b.lane l).live && (b.lane l).sleepUntil.any (0 < ·.1)) == (k == 1))) = true ∧
    ([0, 1].all fun k => ((withLanes (lab 3 []) ({ · with sleepUntil := some (k, 72) })).braid? 1 0).any fun b => !b.meld && (b.lane 0).live &&
      (b.lane 0).sleepUntil == some (k, 72)) = true :=
  ⟨meets_all (by decide +kernel), by decide +kernel, by decide +kernel, by decide +kernel⟩

/-! Teams and launches -/

/-- `labM` with another team, number 2, member 1 of the launch, on core 1. -/
def labTeam2 : Team := { labTeam 3 [] with uid := 2, launch := some 0, index := 1, core := 1, scrGran := 0, braids := [{ labBraid 3 [] with slot := 4 }] }
def labTwo : State :=
  let s := withLaunch (labM 3 []) fun n => { n with started := [0, 1] }
  { s with teams := s.teams ++ [labTeam2], uids := 3 }

theorem witness_TeamEnds :
    (∀ w ∈ ([(.exit f0, lab 3 [], Env.anyTag, noMore),
      (.trig f0, labM 3 [], Env.anyTag, fun e => e.t.replay == none && !e.t.triggered && (e.s.launchOf e.t).any fun n => decide (n.prefixN ≤ e.t.index) && !n.counted.contains e.t.index),
      (.trig f0, withTeam (labM 3 []) ({ · with triggered := true }), Env.anyTag, fun e => e.t.replay == none && e.t.triggered && (e.s.launchOf e.t).isSome)]
      : List Wit), Meets w) ∧
    ((labBraid 3 []) ∈ (labTeam 3 []).braids ∧ (labBraid 3 []).lanes.any (·.live) = true) ∧
    (((withLanes labTwo ({ · with live := false })).team? 1).any fun t => t.status == .running && t.launch.isSome &&
      t.braids.all (fun b => b.lanes.all (!·.live)) && ((exitIfDone (withLanes labTwo ({ · with live := false })) 1).team? 1).isSome) = true ∧
    (((withTeam labTwo ({ · with status := .heldExit })).team? 1).any fun t => t.status == .heldExit && peerAttached labTwo t) = true ∧
    (((withTeam (labM 3 []) ({ · with status := .heldExit })).team? 1).any fun t => t.status == .heldExit &&
      !peerAttached (withTeam (labM 3 []) ({ · with status := .heldExit })) t) = true ∧
    ((labTwo.member? 0 1).any fun t => decide (labTwo.team? t.uid = some t) && t.killable) = true ∧
    ((labTwo.launch? 0).any fun n => n.phase != .ended && (labTwo.member? 0 3).isNone && decide (3 < n.grid) && !n.started.contains 3) = true ∧
    (killTarget labTwo 0 0x70000).isSome = true := by
  refine ⟨meets_all (by decide +kernel), ⟨by decide, by decide⟩, ?_, ?_, ?_, ?_, ?_, ?_⟩ <;> decide +kernel

def labEntry0 (parent : Option (Nat × Nat)) : QueueEntry := { addr := 0, ctx := 0, vc := [], parent }
/-- Queues with room for every child, for one, and for none; of a deterministic launch too, before a higher braid's child. -/
def labChild (det : Bool) (q : List QueueEntry) (s : State) : State :=
  withPart (withLaunch s fun n => { n with det }) fun p => { p with queue := q }
theorem witness_LaunchChildren :
    (∀ w ∈ ([(.launch { f0 with a := 2, h := 5 }, labChild false [] (withTeam (labM 8 [0, 0, 64]) ({ · with handles := 0x50000 }))),
      (.launch { f0 with a := 2, h := 5 }, labChild false (List.replicate 4095 (labEntry0 none)) (labM 8 [0, 0, 64])),
      (.launch { f0 with a := 2, h := 5 }, labChild true [labEntry0 (some (0, 32))] (labM 8 [0, 0, 64])),
      (.launchUni { f0 with a := 2, h := 6 }, labChild false (List.replicate 4096 (labEntry0 none)) (labM 8 [0, 0, 0xF80])),
      (.launchUni { f0 with a := 2, h := 6 }, labM 8 [0, 0, 0xF80])] : List (Instr × State)).map fun x => ((x.1, x.2, Env.anyTag, fun e =>
        e.t.replay == none && handleB e [5, 6] [] ((Mask.lanes e.act).map fun l => ⟨l, (e.src e.f.kindA e.f.a l).toInt + e.f.e.toInt⟩) 64 &&
        (Mask.lanes e.act).all (fun l => decide (0 ≤ (e.src e.f.kindA e.f.a l).toInt) && decide ((e.src e.f.kindA e.f.a l).toInt + 128 ≤ (hGot e).bound)) &&
        ((hState e).part? 0).isSome) : Wit), Meets w) ∧
    (labEntry0 (some (0, 32))).parent = some (0, 32) :=
  ⟨meets_all (by decide +kernel), rfl⟩

/-- A launch record of one team whose code object is at `loadCode`, and with a GRID_X of 0. -/
def labRecord (gridX : Nat) : List Byte :=
  leBytes 128 (loadCode + 64 * 2 ^ 64 + gridX * 2 ^ 96 + 2 ^ 128 + 2 ^ 160 + 0x70200 * 2 ^ 640)
def labQueued (gridX : Nat) : State :=
  let s := ((labM 3 []).place loadCode (leBytes 64 (96 + 2 ^ 128))).place 0x70100 (labRecord gridX)
  withPart s fun p => { p with queue := [{ addr := 0x70100, ctx := 0, vc := [], parent := none }] }
/-- What validation finds in it. -/
def labCause (gridX : Nat) : Option (Option Nat) :=
  let s := labQueued gridX
  match look (s.modPart 0 fun y => { y with queue := [] }) 0 0 0x70100 128 .read with
  | (u, some bs) =>
    let r := parseLaunch (leNat bs)
    let x := (readAll u 0 0 r).2
    some (firstCause ((s.part? 0).getD (Partition.reset 0)) r x
      (launchOfRec (readAll u 0 0 r).1.launchNums 0 0 [] r (x.code.getD (parseCode 0 0)) ((x.spt.getD []).map (· % 2 ^ 32)) ((x.trellis.getD []).map (·.group))))
  | _ => none
/-- A launch that waits for a predecessor whose STATE is 2, under each condition. -/
def labWaits (cond : Nat) : State :=
  withLaunch ((labM 3 []).place 0x70410 [2]) fun n => { n with phase := .waiting, predCond := cond, predRec := 0x70400 }
def labRead (cond : Nat) : Option Bool :=
  ((labWaits cond).launch? 0).bind fun n => match readPred (labWaits cond) n with
    | (_, .ok (ok, _)) => some ok
    | _ => none

theorem witness_LaunchEvents :
    ((({ Partition.reset 0 with armed := [(0, 7)] } : Partition).armed = (0, 7) :: []) ∧ ([] : List QueueEntry).length < Config.queueLength ∧
      ∀ clk, ({ Partition.reset 0 with armed := [(0, 7)] } : Partition).armed.head? ≠ some (clk, 6)) ∧
    ((labQueued 1).lcstate ≠ 3 ∧ ((labQueued 1).part? 0).any (fun p => p.gangs.all (!·.failed) && !p.wiping &&
      decide (nextRecord (labQueued 1) p = some (labEntry0 none |> ({ · with addr := 0x70100 }), [])) && p.queue.all (!detWaits (labQueued 1) p.num ·)) = true) ∧ labCause 1 = some none ∧ labCause 0 = some (some 2) ∧
    labRead 0 = some true ∧ labRead 1 = some true ∧ labRead 2 = some false := by
  refine ⟨⟨rfl, by decide, fun clk h => by simp at h⟩, ⟨by decide, by decide +kernel⟩, ?_, ?_, ?_, ?_, ?_⟩ <;> decide +kernel

/-- A window access of the braid outstanding. -/
def labAway : State :=
  let s := withBraid (labM 3 []) ({ · with pendX := [{ lane := 0, pc := 64, tag := 9, reply := none, rels := [] }] })
  { s with txs := [{ tag := 9, uid := 1, rank := 0, lane := 0, need := 1, got := 0, dst := 1, record := { baseRecord s (labTeam 3 []) .store with peerH := windowPeer } }] }
/-- CARVE to the largest scratchpad that fits, one granule past the largest, a footprint too large, below the window and a register out of range;
DETACH with an access of the window outstanding too. -/
theorem witness_CarveDetachIdem :
    (∀ w ∈ ([(.carve { f0 with len := 1, e := 732 * 16 }, lab 3 [], Env.anyTag, fun e => e.f.e.toNat < 2 ^ 14 &&
        footprint e.t.braids.length (e.f.e.toNat % 16) (e.f.e.toNat / 16 % 1024) ≤ 736 && windowGran e.s e.t ≤ e.f.e.toNat / 16 % 1024),
      (.carve { f0 with len := 1, e := 769 * 16 }, lab 3 [], Env.anyTag, fun e => e.f.e.toNat / 16 % 1024 == 769),
      (.carve { f0 with len := 1, e := 736 * 16 }, lab 3 [], Env.anyTag, fun e => decide (736 < footprint e.t.braids.length 0 736)),
      (.carve { f0 with len := 1 }, labM 3 [], Env.anyTag, fun e => decide (0 < windowGran e.s e.t)),
      (.carve { f0 with a := 1 }, withScalar (lab 3 []) 1 0x4000, Env.anyTag, fun e => decide (2 ^ 14 ≤ (e.b.sreg 1).toNat)),
      (.detach f0, labM 3 [], Env.anyTag, fun e => e.t.replay == none && (e.s.groupAt e.t 0).any fun g => g.w && !e.t.detached.contains g.index && e.b.pendX.isEmpty),
      (.detach f0, labAway, Env.anyTag, fun e => (e.s.groupAt e.t 0).any fun g => g.w && !e.t.detached.contains g.index &&
        e.b.pendX.any fun x => x.reply == none && e.s.txs.any fun y => y.tag == x.tag && y.record.peerH == windowPeer && y.record.gang == g.gang),
      (.detach f0, withTeam (labM 3 []) ({ · with detached := [0] }), Env.anyTag, fun e => (e.s.groupAt e.t 0).any fun g => g.w && e.t.detached.contains g.index),
      (.detach { f0 with h := 8 }, labM 3 [], Env.anyTag, fun e => (e.s.groupAt e.t 1).isNone),
      (.idemBegin f0, lab 3 [], Env.anyTag, fun e => e.b.fresh && e.pc.toNat == e.t.entry),
      (.idemBegin f0, withBraid (lab 3 []) ({ · with fresh := false }), Env.anyTag, fun e => !e.b.fresh),
      (.idemBegin f0, withTeam (lab 3 []) ({ · with entry := 96 }), Env.anyTag, fun e => e.pc.toNat != e.t.entry),
      (.idemEnd f0, lab 3 [], Env.anyTag, noMore)] : List Wit), Meets w) ∧
    (∀ w ∈ ([(.trig f0, lab 3 [], fun e => e.act != 0 && endsIdem e.i && ((finish e (.go e.s)).team? 1).isSome),
      (.nop f0, lab 3 [], fun e => e.b.fresh && ((finish e (.go e.s)).team? 1).isSome)] : List Iss), MeetsIssue w) ∧
    (let s := withTeam (lab 3 []) ({ · with carve := some (15, 2), carveDue := true });
      (s.team? 1).any fun t => t.status == .running && t.carveDue && t.trackers.all (·.isNone) &&
        granulesFree s t.core 0 (footprint t.braids.length 15 2) 1 && decide (granulesUsed s t.core 1 + footprint t.braids.length 15 2 ≤ 736)) = true ∧
    (∀ f, Instr.nop f0 ≠ .idemBegin f) :=
  ⟨meets_all (by decide +kernel), issues_all (by decide +kernel), by decide +kernel, by simp⟩

/-- A bind record of a code, of team `team` of the launch on core 2, slot 0 at granule 0. -/
def labBind (opc team : Nat) : BindRec :=
  { launch := 0x70000, team, slots := 1, base := 0, tiles := 0, core := 2, part := 0, sup := false, opc, rsv := false }
def labSup : BindRec := { labBind 0 0 with launch := 0, sup := true }
def labParams : SupParams := { code := loadCode, entry := 64, handles := 0, vblk := 0, scrGran := 1 }
/-- `labTwo` with slot 0 of core 2 a supervisor's (R0050), and with team 2 at another standing, alone or of a gang. -/
def labHost : State := withPart labTwo fun p => p.setReg 0x0050 2 1
def labAlone : State := withLaunch labTwo fun n => { n with groups := [] }
def labIdem : State := (labAlone.modTeam 2 ({ · with idem := true })).modTeam 1 ({ · with idem := true })
def standing (x : TeamStatus) : State := labAlone.modTeam 2 ({ · with status := x })
/-- Both devices of axis 0, and a machine of two devices; its group a gang over both, with team 2 its member. -/
def patBoth : Word := 0xC00C00C00C00400
def labX : State := withPart (labM 8 [0, 0, 64, 7]) fun p => (p.setReg 0x0200 0 0x02000000).setReg 0x0201 0 2
def labSpan (coord : Nat) : State :=
  withPart (withGroup labTwo fun x => { x with span := true, gang := 5, peers := patBoth }) fun p => (p.setReg 0x0200 0 (0x02000000 + coord)).setReg 0x0201 0 2
/-- The record that names team 2 where it is. -/
def labRec2 (opc : Nat) : BindRec := { labBind opc 1 with core := 1, slots := 16 }
def labShape (s : State) (r : BindRec) : Bool :=
  (recTeam s r).any fun t => decide (s.team? t.uid = some t) && (s.part? r.part).any fun p => shapeCode p r t == 0
def labStands (s : State) (opc : Nat) (more : Team → Launch → Bool) : Bool :=
  labShape s (labRec2 opc) && (recTeam s (labRec2 opc)).any fun t => (s.launchOf t).any (more t)
/-- The only launch admitted, with no gang, and no unit bound out of its turn. -/
def labOnly (s : State) (n : Launch) (team : Nat) : Bool :=
  decide (s.launches = [n]) && unitOf n team == [team] && unitGangs n team == [] && n.part == 0 && (s.part? 0).any (·.head.isNone)

theorem witness_BindRecords :
    ((labHost.part? 0).any fun p => supCode labHost p labSup labParams == 0 && supCode labHost p { labSup with slots := 2 } labParams == 3) = true ∧
    ((labAlone.part? 0).any fun p => (recLaunch labAlone (labBind 0 2)).any fun n => decide (labAlone.launch? n.num = some n) && bindCode labAlone p (labBind 0 2) == 0 &&
      n.st != 0 && labOnly labAlone n 2 && firstGap n.started == 2 && (labAlone.teams.all fun v => v.status == .running && v.index != 2) &&
      bindCode labAlone p (labBind 0 1) == 6) = true ∧
    labShape (standing .saved) (labRec2 1) = true ∧
    ((recTeam (standing .saved) (labRec2 1)).any fun t => ((standing .saved).part? 0).any fun p => t.status == .saved &&
      placeCode (standing .saved) p (labRec2 1) t.uid (footprint 1 t.vblk t.scrGran) == 0) = true ∧
    ((recTeam labTwo { labRec2 2 with slots := 3 }).any fun t => (labTwo.part? 0).any fun p => shapeCode p { labRec2 2 with slots := 3 } t == 1) = true ∧
    labStands labAlone 2 (fun t n => t.status == .running && !t.isSup && !t.stopping && t.stop == .none && unitGangs n t.index == [] && !allIdem labAlone n (unitOf n t.index)) = true ∧
    labStands labIdem 2 (fun t n => t.status == .running && !t.isSup && !t.stopping && unitGangs n t.index == [] && allIdem labIdem n (unitOf n t.index)) = true ∧
    ([0, 1].all fun c => labStands (labSpan c) 2 fun t n => t.status == .running && t.part == 0 && unitGangs n t.index == [5] &&
      ((labSpan c).part? 0).any fun p => (gangHeadOf (labSpan c) p 5 == p.coord) == (c == 0)) = true ∧
    labStands (standing .restored) 2 (fun t _ => t.status != .running) = true ∧
    labStands labAlone 3 (fun t _ => t.core == 1 && granulesFree labAlone 1 0 t.gran 2 && t.stop == .none) = true ∧
    labStands (standing .restored) 4 (fun t n => t.status == .restored && labOnly (standing .restored) n 1 && n.phase == .admitted && !n.killed) = true ∧
    labStands labAlone 4 (fun t _ => t.status != .restored && t.status != .bound) = true ∧
    labStands (standing .prepared) 5 (fun t _ => !t.isSup && t.status == .prepared) = true ∧
    ((recTeam (labTwo.modTeam 2 ({ · with launch := none })) { labRec2 5 with sup := true }).any (·.isSup)) = true ∧
    (((labTwo.modTeam 2 fun t => { t with stop := .move 4, braids := t.braids.map ({ · with stop := .safePoint }) }).team? 2).any fun t =>
      t.stop == .move 4 && t.stopped && t.trackers.all (·.isNone) && t.entries.isEmpty) = true := by
  refine ⟨?_, ?_, ?_, ?_, ?_, ?_, ?_, ?_, ?_, ?_, ?_, ?_, ?_, ?_, ?_⟩ <;> decide +kernel

/-- The forms whose own effect is the issuing braid's or team's; those of binding meet `witness_BindRecords`. -/
theorem witness_OwnEffects :
    (∀ w ∈ ([(.fence { f0 with h := 4 }, labM 3 [], Env.anyTag, fun e => e.f.h.toNat % 8 != 2 && !e.f.x.getLsbD 1), (.yield f0, lab 3 [], Env.anyTag, noMore),
      (.sleep { f0 with len := 1 }, lab 3 [], Env.anyTag, fun e => (Mask.lanes e.act).all fun l => (e.b.lane l).sleepUntil.isNone),
      (.sleep { f0 with len := 1, e := 0xFFFFFF }, lab 3 [], Env.anyTag, fun e => decide (e.f.e.toNat < 2 ^ 24) && (Mask.lanes e.act).all fun l => (e.b.lane l).sleepUntil.isNone),
      (.launch { f0 with a := 2, h := 5 }, labM 8 [0, 0, 64], Env.anyTag, fun e => e.t.replay == none && ((hState e).part? 0).isSome && handleB e [5, 6] [] [⟨0, 64⟩, ⟨1, 64⟩] 64),
      (.carve { f0 with len := 1, e := 732 * 16 }, lab 3 [], Env.anyTag, fun e => windowGran e.s e.t ≤ 732),
      (.detach f0, labM 3 [], Env.anyTag, fun e => e.t.replay == none && e.b.pendX.isEmpty && (e.s.groupAt e.t 0).any fun g => g.w && !e.t.detached.contains g.index),
      (.idemBegin f0, lab 3 [], Env.anyTag, fun e => e.b.fresh && e.pc.toNat == e.t.entry), (.idemEnd f0, lab 3 [], Env.anyTag, noMore)] : List Wit), Meets w) ∧
    (((withLanes { lab 3 [] with clock := 20 } ({ · with sleepUntil := some (20, 72) })).braid? 1 0).any fun b => !b.meld && b.lanes.length == 2 &&
      b.lanes.all fun x => x.live && x.sleepUntil == some (20, 72)) = true ∧
    ((withTeam (lab 3 []) ({ · with carve := some (15, 2), carveDue := true })).team? 1).isSome = true :=
  ⟨meets_all (by decide +kernel), by decide +kernel, by decide +kernel⟩

/-- A machine whose team 1 is a supervisor's and whose team 2, of the launch, has stopped; no group binds them. -/
def labSave : State :=
  let s := withLaunch (withTeam labTwo ({ · with launch := none })) ({ · with groups := [] })
  let s := s.place 0x50180 (hEntry 6 0x60000 0x8000)
  let s := withPart s fun p => (p.setReg 0x0520 0 0x60000).setReg 0x0521 0 0x8000
  s.modTeam 2 fun t => { t with vblk := 0, braids := t.braids.map ({ · with stop := .safePoint }) }
/-- The same with a team 2 of no braid, about to be saved, and prepared for restore with its image in memory. -/
def labEmpty : Team := { Team.blank with uid := 2, launch := some 0, index := 1, core := 1, status := .prepared }
def labSaving : State :=
  { labSave with teams := (labSave.teams.filter fun (t : Team) => t.uid != 2) ++ [{ labEmpty with status := .running, stop := .save }] }
def labNoTeam : State := { labSave with teams := (labSave.teams.filter fun (t : Team) => t.uid != 2) ++ [labEmpty] }
def labImage : List Byte := imageBytes labNoTeam labEmpty
def labPrepared : State := withPart (labNoTeam.place 0x60000 labImage) ({ · with images := [(2, 0)] })
def writesImage (s : State) (t : Team) (at_ : Nat) : Bool :=
  match writeBytes s 0 0 at_ (imageBytes s t) with
  | (_, .ok ()) => true
  | _ => false
/-- A second launch of higher priority, of teams too large for the cores' rest, after 2 ms. -/
def labHigher : State :=
  { labSave.modTeam 2 fun t => { t with braids := t.braids.map ({ · with stop := .running }) } with
    launches := labSave.launches ++ [{ labLaunch with num := 1, prio := 3, started := [], scrGran := 760 }], clock := 3500000 }

/-! A write from 0x50000 on in context 0 of such a machine succeeds, whatever its bytes: its page maps to itself. -/

/-- The small machine's partition: quarter 0, and one context whose descriptor is at 0x10000. -/
def labPart (p : Partition) : Bool := p.reg 0x0101 0 == 1 && p.reg 0x0100 0 == 0x10000 && p.num == 0 && bitAt p.quarters 0 && p.reg 0x0207 0 == 0

/-- No soft error and no held entry, the small machine's partition, and its tables below 0x50000. -/
structure LabMaps (s : State) : Prop where
  soft : s.soft = []
  held : s.held = []
  part : (s.part? 0).any labPart = true
  low : ∀ a, a < 0x50000 → s.mem.get a = labSave.mem.get a

theorem LabMaps.read {s : State} (h : LabMaps s) (n : Nat) : ∀ a, a + n ≤ 0x50000 → s.mem.read a n = labSave.mem.read a n := by
  induction n with
  | zero => intro a _; rfl
  | succ n ih =>
    intro a ha
    rw [Memory.read, Memory.read, h.low a (by omega), ih _ (by omega)]

theorem LabMaps.readPhys {s : State} (h : LabMaps s) (part a n : Nat) : readPhys s part a n = (s, .ok (s.mem.read a n)) := by
  simp [Machine.readPhys, poisonAt, correctSingles, h.soft]

theorem LabMaps.walkEntry {s : State} (h : LabMaps s) (part ctx lvl tag now : Nat) : walkEntry s part ctx lvl tag now = (s, now) := by
  simp [Machine.walkEntry, h.held]

theorem labSave_tables : leNat (labSave.mem.read 0x10000 16) = 0x20001 ∧ leNat (labSave.mem.read 0x20000 8) = 0x30001 ∧ leNat (labSave.mem.read 0x30000 8) = 0xF := by
  decide +kernel

theorem LabMaps.translate {s : State} (h : LabMaps s) {va : Nat} (hv : va < 2 ^ 31) (kind : AccessKind) : translate s 0 0 va kind = (s, .ok va) := by
  obtain ⟨t1, t2, t3⟩ := labSave_tables
  have z : ∀ hi lo, 31 ≤ lo → bitsOf va hi lo = 0 := by
    intro hi lo hl
    have : 2 ^ 31 ≤ 2 ^ lo := Nat.pow_le_pow_right (by omega) hl
    simp [bitsOf, Nat.div_eq_of_lt (Nat.lt_of_lt_of_le hv this)]
  have r2 := h.read 8 0x20000 (by omega)
  have r3 := h.read 8 0x30000 (by omega)
  have m : va % 2 ^ 31 = va := Nat.mod_eq_of_lt hv
  obtain ⟨p, hs, hp⟩ := Option.any_eq_true _ _ |>.1 h.part
  simp only [labPart, Bool.and_eq_true, beq_iff_eq] at hp
  obtain ⟨⟨⟨⟨h1, h2⟩, h3⟩, h4⟩, h5⟩ := hp
  have hin : inPartition s p va = true := by
    have hd : va / Config.quarterBytes = 0 := Nat.div_eq_of_lt (Nat.lt_trans hv (by decide))
    have hq : va < Config.dramBytes := Nat.lt_trans hv (by decide)
    have hr : p.relays va = false := by
      simp only [Partition.relays, h5, Bool.and_eq_false_iff, decide_eq_false_iff_not]; omega
    simp only [inPartition, hq, if_true, hd, h4, hr, Bool.not_false, Bool.and_true]
  have w2 : walkFrom p 0 va kind 2 0x30000 s = (s, .ok (va, 31)) := by
    have f : entryOk 2 15 = true ∧ bitAt 15 3 = true ∧ bitAt 15 4 = false ∧ bitAt 15 1 = true ∧ bitAt 15 2 = true ∧ bitsOf 15 51 12 = 0 := by decide
    simp only [walkFrom, walkLevel, levelBits, z 42 31 (by omega), h3, h.readPhys, h.walkEntry, r3, t3, Nat.mul_zero, Nat.add_zero, f, show frameBits 2 false = 31 from rfl, m, hin, Nat.zero_mul,
      Nat.zero_add, Bool.not_true, Bool.and_false, Bool.false_eq_true, if_false, if_true]
  have w3 : walkFrom p 0 va kind 3 0x20000 s = (s, .ok (va, 31)) := by
    have f : entryOk 3 196609 = true ∧ bitAt 196609 3 = false ∧ bitsOf 196609 51 12 * 4096 = 196608 := by decide
    rw [walkFrom]
    simp only [walkLevel, levelBits, z 55 43 (by omega), h3, h.readPhys, h.walkEntry, r2, t2, Nat.mul_zero, Nat.add_zero, f, Bool.not_true,
      Bool.false_eq_true, if_false, w2]
  rw [Machine.translate, translatePage, hs]
  simp only [h1, h2, Nat.div_eq_of_lt (Nat.lt_trans hv (by decide : 2 ^ 31 < 2 ^ 56)), h.readPhys, h.walkEntry, h.read 16 0x10000 (by omega), t1,
    Nat.mul_zero, Nat.add_zero]
  have d : descriptorOk 131073 = true ∧ bitsOf 131073 51 16 * 65536 = 131072 := by decide
  simp only [show ¬ (1 ≤ 0) by decide, bne_self_eq_false, walkContext, d, Bool.not_true, Bool.false_eq_true, if_false, w3]

theorem LabMaps.writeVirt {s : State} (h : LabMaps s) {va : Nat} {bs : List Byte} (hl : 0x50000 ≤ va) (hv : va < 2 ^ 31) :
    ∃ t, writeVirt s 0 0 va bs = (t, .ok ()) ∧ LabMaps t := by
  refine ⟨{ s with mem := s.mem.write va bs }, ?_, h.soft, h.held, h.part, fun a ha => ?_⟩
  · simp [Machine.writeVirt, h.translate hv, writePhys, h.soft]
  · rw [Memory.get_write, if_neg (by omega), h.low a ha]

/-- A write of that space succeeds. -/
theorem LabMaps.writeSpan (fuel : Nat) : ∀ {s : State}, LabMaps s → ∀ {va : Nat} {bs : List Byte}, 0x50000 ≤ va → va + bs.length < 2 ^ 31 →
    ∃ t, writeSpan s 0 0 va fuel bs = (t, .ok ()) := by
  induction fuel with
  | zero => exact fun _ => fun _ _ => ⟨_, rfl⟩
  | succ fuel ih =>
    intro s h va bs hl hb
    cases bs with
    | nil => exact ⟨_, rfl⟩
    | cons b bs =>
      obtain ⟨t, ht, hm⟩ := h.writeVirt (bs := (b :: bs).take (64 - va % 64)) hl (by omega : va < 2 ^ 31)
      obtain ⟨u, hu⟩ := ih hm (va := va + ((b :: bs).take (64 - va % 64)).length) (bs := (b :: bs).drop (64 - va % 64)) (by omega)
        (by simp only [List.length_take, List.length_drop]; omega)
      refine ⟨u, ?_⟩
      rw [Machine.writeSpan]
      · simp only [ht, hu]
      · simp

theorem LabMaps.writesImage {s : State} (h : LabMaps s) (t : Team) (hb : 0x60000 + (imageBytes s t).length < 2 ^ 31) : writesImage s t 0x60000 = true := by
  obtain ⟨u, hu⟩ := h.writeSpan ((imageBytes s t).length / 64 + 2) (va := 0x60000) (bs := imageBytes s t) (by omega) hb
  rw [Tests.writesImage, writeBytes, hu]

theorem read_append (m : Memory) (k n : Nat) : ∀ a, m.read a (k + n) = m.read a k ++ m.read (a + k) n := by
  induction k with
  | zero => intro a; simp [Memory.read]
  | succ k ih => intro a; rw [Nat.add_right_comm, Memory.read, Memory.read, ih, Nat.add_right_comm, Nat.add_assoc]; rfl

/-- A read of that space gives its bytes. -/
theorem LabMaps.readSpan {s : State} (h : LabMaps s) (kind : AccessKind) (fuel : Nat) : ∀ {va n : Nat} {acc : List Byte}, va + n < 2 ^ 31 →
    n = 0 ∨ n + va % 64 ≤ 64 * fuel → readSpan s 0 0 va kind fuel acc n = (s, .ok (acc ++ s.mem.read va n)) := by
  induction fuel with
  | zero => intro va n acc _ hn; obtain rfl : n = 0 := by omega
            simp [Machine.readSpan, Memory.read]
  | succ fuel ih =>
    intro va n acc hv hn
    rw [Machine.readSpan]
    split
    · rename_i h0
      obtain rfl : n = 0 := by simpa using h0
      simp [Memory.read]
    · rename_i h0
      have h0 : n ≠ 0 := by simpa using h0
      simp only [readVirt, h.translate (show va < 2 ^ 31 by omega), h.readPhys]
      have hk : va + min n (64 - va % 64) + (n - min n (64 - va % 64)) < 2 ^ 31 ∧
          (n - min n (64 - va % 64) = 0 ∨ n - min n (64 - va % 64) + (va + min n (64 - va % 64)) % 64 ≤ 64 * fuel) := by
        rcases Nat.le_total n (64 - va % 64) with hm | hm
        · rw [Nat.min_eq_left hm]; omega
        · rw [Nat.min_eq_right hm]; omega
      rw [ih hk.1 hk.2, List.append_assoc, ← read_append, Nat.add_sub_of_le (Nat.min_le_left ..)]

theorem LabMaps.of_eq {s t : State} (h : LabMaps s) (h1 : t.soft = s.soft) (h2 : t.held = s.held) (h3 : (t.part? 0).any labPart = true) (h4 : t.mem = s.mem) : LabMaps t :=
  ⟨h1.trans h.soft, h2.trans h.held, h3, by rw [h4]; exact h.low⟩

theorem labSave_maps : LabMaps labSave := ⟨by decide +kernel, by decide +kernel, by decide +kernel, fun _ _ => rfl⟩

def labSavingTeam : Team := (labSaving.team? 2).getD Team.blank
def labHeldS : State := askStop labSaving (unitTeams labSaving labSavingTeam) .held
theorem labHeldS_maps : LabMaps labHeldS := labSave_maps.of_eq (by decide +kernel) (by decide +kernel) (by decide +kernel) (by decide +kernel)

theorem witness_SavesAndRestores :
    ((labSaving.team? 2).any fun t => decide (t = labSavingTeam) && t.uid == 2 && t.stop == .save && t.status == .running && !gangPausing labSaving t &&
      (unitTeams labSaving t).all (·.savable) && decide (askStop labSaving (unitTeams labSaving t) .held = labHeldS)) = true ∧
    (imageBytes labHeldS labSavingTeam).length = 4096 ∧ ((labHeldS.part? 0).any fun p => saveRoom labHeldS p 0 4096 && !saveRoom labHeldS p 32 4096) = true ∧
    ((labHeldS.part? 0).any fun p => saveFull labHeldS (p.setReg 0x0521 0 0x400) 4096) = true ∧ writesImage labHeldS labSavingTeam 0x60000 = true ∧
    ((labPrepared.team? 2).any fun t => t.status == .prepared && (labPrepared.part? 0).any fun p => p.images.contains (2, 0)) = true ∧
    (([{ labHigher with clock := 0 }, labHigher] : List State).all fun s => (s.launch? 1).any fun n => (s.part? 0).any fun p => n.part == 0 &&
      (wanted s n).length == 1 && (nextUnit s n).getD [] == [0] && (s.launches.all fun m => !(m.part == 0 && m.before n) || (wanted s m).isEmpty) &&
      decide (fitCount s p n (needGran s n (wanted s n)) < 1) && decide ((s.teams.filter fun t => t.part == 0 && t.status == .running && mayPreempt s n.prio t).foldl
        (fun ts t => insertVictim s t ts) [] = if s.clock = 0 then [] else s.teams.filter (·.uid == 2)) &&
      (s.team? 2).any fun t => (s.launchOf t).any fun a => unitGangs a t.index == [] && !allIdem s a (unitOf a t.index)) = true ∧
    ((labHigher.launch? 0).any fun n => (wanted labHigher n).isEmpty || (nextUnit labHigher n).getD [] != [9]) = true ∧
    ((({ labSaving with clock := 17500000 } : State).team? 2).any fun t => t.stop == .save && !t.lateTold && !t.shortTold && decide (t.stopSince + 10 * msClocks ≤ 17500000)) = true := by
  have h : (imageBytes labHeldS labSavingTeam).length = 4096 := (imageBytes_length _ _).trans (by decide +kernel)
  refine ⟨?_, h, ?_, ?_, labHeldS_maps.writesImage _ (h ▸ by decide), ?_, ?_, ?_, ?_⟩ <;> decide +kernel

/-- The call that saves team 2, and what its handle's read leaves. -/
def labCtxsv : Instr := .ctxsv { f0 with d := 1, a := 2, b := 3, h := 6 }
def labCtxld : Instr := .ctxld { f0 with d := 1, a := 2, b := 3, h := 6 }
def labSaveAt : State := hState (envOf labCtxsv (withScalar labSave 3 68))
def labSaveTeam : Team := (teamAt labSaveAt 0 68).getD Team.blank
theorem labSaveAt_maps : LabMaps labSaveAt := labSave_maps.of_eq (by decide +kernel) (by decide +kernel) (by decide +kernel) (by decide +kernel)
theorem labImage_length : labImage.length = 4096 := (imageBytes_length _ _).trans (by decide +kernel)
theorem withPart_mem (s : State) (f : Partition → Partition) : (withPart s f).mem = s.mem := rfl
theorem place_mem (s : State) (a : Nat) (bs : List Byte) : (s.place a bs).mem = s.mem.write a bs := rfl
theorem labPrepared_mem : labPrepared.mem = labSave.mem.write 0x60000 labImage := (withPart_mem _ _).trans (place_mem _ _ _)
theorem labPrepared_maps : LabMaps labPrepared :=
  ⟨by decide +kernel, by decide +kernel, by decide +kernel, fun a ha => by rw [labPrepared_mem, Memory.get_write, if_neg (by omega)]⟩

theorem labPrepared_reads : readBytes labPrepared 0 0 0x60000 4096 .read = (labPrepared, .ok labImage) := by
  have h := labPrepared_maps.readSpan .read (4096 / 64 + 2) (va := 0x60000) (n := 4096) (acc := []) (by decide) (by decide)
  have r := Memory.read_write labImage (m := labSave.mem) 0x60000
  rw [labImage_length, ← labPrepared_mem] at r
  rw [readBytes, h, r]; rfl

theorem witness_SavesAndRestores_privileged :
    (∀ w ∈ ([(labCtxsv, withScalar labSave 3 68, Env.anyTag, fun e => handleB e [5, 6] [] [] 1 &&
        (e.b.sreg e.f.a.toNat).toNat % 64 == 0 && decide (hState e = labSaveAt) && (teamAt (hState e) 0 68).any fun u => decide (u = labSaveTeam) && u.stopped &&
          u.status == .running && !u.isSup && u.savable && u.uid != e.t.uid && (e.s.team? u.uid).any (·.uid == 2) && decide (14336 ≤ (hGot e).bound)),
      (labCtxsv, withScalar labSave 3 99, Env.anyTag, fun e => handleB e [5, 6] [] [] 1 && (teamAt (hState e) 0 99).isNone),
      (labCtxld, withScalar labSave 3 99, Env.anyTag, fun e => handleB e [5, 6] [] [] 1 && !(hState e).teams.any fun u => u.status == .prepared),
      (labCtxld, withScalar labPrepared 3 64, Env.anyTag, fun e => handleB e [5, 6] [] [] 1 &&
        ((hState e).teams.find? fun u => u.part == e.t.part && u.status == .prepared && u.binding == 64).any fun u => u.uid != e.t.uid &&
          decide (0 + 4096 ≤ (hGot e).bound))] : List Wit), Meets w) ∧
    (imageBytes labSaveAt labSaveTeam).length = 14336 ∧ writesImage labSaveAt labSaveTeam 0x60000 = true ∧ readBytes labPrepared 0 0 0x60000 4096 .read = (labPrepared, .ok labImage) ∧
    (imageFits (Memory.write [] 0 labImage) labEmpty (labPrepared.doneRecOf labEmpty) && (setBits 64 (bitsOf (leNat labImage) 0x20FF 0x20C0)).isEmpty &&
      imageLen labEmpty 0 == 4096 && match restoreTeam labPrepared labEmpty labImage with
        | .done _ => true
        | _ => false) = true :=
  have h : (imageBytes labSaveAt labSaveTeam).length = 14336 := (imageBytes_length _ _).trans (by decide +kernel)
  ⟨meets_all (by decide +kernel), h, labSaveAt_maps.writesImage _ (h ▸ by decide), labPrepared_reads, by decide +kernel⟩
def patOther : Word := 0xC00C00C00C00001
def patSum : Word := patBoth + 0x2000000000000000
/-- The launch's group a gang over both devices, with what its partition keeps of the gang. -/
def labGang (g : GangState) : State :=
  withPart (withGroup labX fun x => { x with span := true, gang := 5, peers := patBoth }) ({ · with gangs := [g] })
def gang5 : GangState := GangState.new 5
def gangMsg (src : Nat) (idem : Bool) : GangMsg := { part := 0, gang := 5, src, count := 2, idem, peers := patBoth }
def gangB (s : State) (more : Partition → Launch → Bool) : Bool :=
  (s.part? 0).any fun p => (gangLaunch s 0 5).any fun n => gangPeersOf s p 5 == [0, 1] && p.coord == 0 && more p n

/-- A launch of the gang that has not come here. -/
def labNoGang : State := withPart labX ({ · with gangs := [gang5] })
def labResume : State := withTeam (labGang gang5) ({ · with status := .restored })

theorem witness_Gangs :
    (gangB (labGang gang5) fun _ _ => gang5.paused == [] && !gang5.pausing) = true ∧
    (gangB (labGang { gang5 with pausing := true }) fun p _ => (p.gang? 5).any (·.pausing)) = true ∧
    ((gangTeams (labGang gang5) 0 5).any fun t => decide ((labGang gang5).team? t.uid = some t) && t.status == .running && t.stop == .none) = true ∧
    (insertNat (gangMsg 1 false).src [0] = [0, 1] ∧ insertNat (gangMsg 1 false).src [] = [1] ∧ (1 : Nat) ≠ 0) ∧
    ((gangMsg 0 true).idem = true ∧ (gangMsg 0 false).idem = false) ∧
    (let s := withTeam (labGang { gang5 with pausing := true }) ({ · with stop := .save });
      (gangTeams s 0 5).any fun t => decide (s.team? t.uid = some t) && t.stop == .save && t.wantStop == .none) = true ∧
    ((gangTeams labResume 0 5).any fun t => t.status == .restored && decide (recTeam labResume (startRecord labResume t) = some t) &&
      (labResume.part? 0).any fun p => startCode labResume (startRecord labResume t) p == 0) = true ∧
    (gangB (labGang gang5) fun p n => decide ((labGang gang5).launch? n.num = some n) && (gangMsg 1 false).src != p.coord && !n.killed &&
      decide (0 < n.grid) && (unitGangs n 0).contains 5 && (gangMsg 0 false).src == p.coord && gangDevices p (gangMsg 1 false).peers == [0, 1]) = true ∧
    ((labNoGang.part? 0).any fun p => (gangLaunch labNoGang 0 5).isNone && p.coord != (gangMsg 1 false).src) = true ∧
    (gangB (labGang { gang5 with validated := [(0, 2)] }) fun p n => (gangDevices p (n.gangPeers 5)).all (fun d => (tabPut [(0, 2)] 1 2).any (·.1 == d)) &&
      gang5.validated == [] && (gangDevices p (n.gangPeers 5)).any fun d => !(tabPut [] 1 2 : List (Nat × Nat)).any (·.1 == d)) = true := by
  refine ⟨?_, ?_, ?_, ?_, ⟨rfl, rfl⟩, ?_, ?_, ?_, ?_, ?_⟩ <;> decide +kernel

/-! Memory -/

/-- Every memory of a machine is in canonical form, as a check. -/
def memB (s : State) : Bool :=
  s.mem.wf && s.chip.wf && s.teams.all fun t => t.scratch.wf && t.tiles.all (·.wf) && t.slots.all (·.2.wf)

theorem memoryOk_of {s : State} (h : memB s = true) : s.memoryOk := by
  simp only [memB, Bool.and_eq_true] at h
  refine ⟨h.1.1, h.1.2, fun t ht => ?_⟩
  have := List.all_eq_true.1 h.2 t ht
  simp only [Bool.and_eq_true] at this
  exact ⟨this.1.1, fun m hm => List.all_eq_true.1 this.1.2 m hm, fun x hx => List.all_eq_true.1 this.2 x hx⟩

/-- `labM` whose chip scratchpad its partition holds, with offsets 0 and 8 in v2. -/
def labLd : State := (labM 8 [0, 7, 0, 1, 2, 0, 0, 0]).modLanes 1 0 2 fun _ x => x.setV 2 8 8
def levels : List (BitVec 8) := [1, 2, 3, 4, 5, 6]

/-- LD in every level, data and synchronising, LDU and ST in the first and the last; and each way that PF finds its handle. -/
theorem witness_LoadsAndStores : memB labLd = true ∧
    (∀ w ∈ (levels.map (·, (3 : BitVec 8)) ++ [(2, 11), (5, 11)]).flatMap (fun (h, x) =>
      [((.ld { f0 with d := 1, a := 2, f := 8, x, h }, labLd, Env.anyTag, fun e => e.t.replay == none && handleB e [1, 2, 3, 4, 5, 6] [] (laneOffsets e 8) 8 &&
          spotsB e 8 (if e.f.x.getLsbD 3 then .syncRead else .load) (laneOffsets e 8)) : Wit)]), Meets w) ∧
    (∀ w ∈ ([(1, 3), (6, 11)] : List (BitVec 8 × BitVec 8)).flatMap (fun (h, x) =>
      [((.ldu { f0 with d := 1, a := 2, f := 8, x, h }, labLd, Env.anyTag, fun e => handleB e [1, 2, 3, 4, 5, 6] [] (laneOffsets e 8) 8 &&
          spotsB e 8 (if e.f.x.getLsbD 3 then .syncRead else .load) ((laneOffsets e 8).take 1)) : Wit),
        (.st { f0 with d := 1, a := 2, f := 8, x, h }, labLd, Env.anyTag, fun e => handleB e [1, 2, 3, 4, 5, 6] [] (laneOffsets e 8) 8 &&
          spotsB e 8 (if e.f.x.getLsbD 3 then .syncWrite else .store) (laneOffsets e 8))]), Meets w) ∧
    (∀ w ∈ ([(.pf { f0 with a := 2, h := 5, x := 0x10 }, labLd, Env.anyTag, fun e => !handleBad (hState e) e.t (hGot e)),
      (.pf { f0 with a := 2, h := 5 }, withTeam labLd ({ · with handles := 0x80000000 }), Env.anyTag, fun e => match (readHandle e.s e.t 5).2 with
        | .error _ => true
        | .ok _ => false),
      (.pf { f0 with a := 2, h := 5 }, withTeam labLd ({ · with handles := 0 }), Env.anyTag, fun e => match (readHandle e.s e.t 5).2 with
        | .ok none => true
        | _ => false)] : List Wit), Meets w) :=
  ⟨by decide +kernel, meets_all (by decide +kernel), meets_all (by decide +kernel), meets_all (by decide +kernel)⟩

/-- Handle 5 of `labM` with a tensor header. -/
def labHdr : State := ((labM 10 [0, 0, 0]).place 0x50140 (leBytes 64 (0x60000 + 4096 * 2 ^ 64 + 5 * 2 ^ 128 + 0x60100 * 2 ^ 192))).place 0x60100
  (leBytes 64 (1 + 2 ^ 32 + 2 ^ 64 + 2 ^ 96 + 8 * 2 ^ 128 + 10 * 2 ^ 224))

/-- ATOM with and without RET in every level, on other and on the same bytes; a handle with a header for HADQ. -/
theorem witness_Atomics :
    (∀ w ∈ (levels.map (·, (0 : BitVec 8), labLd) ++ [(2, 8, labLd), (2, 8, labM 8 [0, 0, 0, 0, 1, 0, 0, 0])]).map (fun (h, x, s) =>
      ((.atom { f0 with d := 1, a := 2, c := 4, f := 8, x, h }, s, atomChecks, fun e => e.t.replay == none &&
        handleB e [1, 2, 3, 4, 5, 6] (atomChecks e) (laneOffsets e 8) 8 && spotsB e 8 .rmw (laneOffsets e 8)) : Wit)), Meets w) ∧
    ((labLd.braid? 1 0).any fun b => [b.lane 0, b.lane 1].all fun x => x.v.length == 8 && x.tags.length == 8 && x.priv.length == 96 &&
      x.stack.length == 16) = true ∧
    (2 ^ 64 - 1 < 2 ^ fmtWidth 8 ∧ isInt 8 = true) ∧
    (∀ w ∈ ([(.hadq { f0 with len := 1, d := 1, a := 2, f := 10, h := 5 }, labHdr, Env.anyTag, fun e => handleB e [1, 2, 3, 4, 5, 6, 7] [e.checkA 10] [] 1 &&
          (hGot e).hdr != 0 && match readHeader (hState e) e.t (hGot e) 5 with
          | (_, .ok hd) => !hd.bad
          | _ => false)] : List Wit), Meets w) :=
  ⟨meets_all (by decide +kernel), by decide +kernel, by decide, meets_all (by decide +kernel)⟩

/-- No handle table, a malformed entry, a remote one, a misaligned lane, one past the bound, and a table that no page
holds. -/
theorem witness_MemoryTraps :
    (∀ w ∈ ([(.ld { f0 with d := 1, a := 2, f := 8, x := 3, h := 5 }, withTeam labLd ({ · with handles := 0 }), Env.anyTag, fun e =>
        match (readHandle e.s e.t 5).2 with
        | .ok none => true
        | _ => false),
      (.ld { f0 with d := 1, a := 2, f := 8, x := 3 }, labLd, Env.anyTag, fun e => handleBad (hState e) e.t (hGot e)),
      (.ld { f0 with d := 1, a := 2, f := 8, x := 3, h := 7 }, labLd, Env.anyTag, fun e => !handleBad (hState e) e.t (hGot e) && (hGot e).space == 7),
      (.ld { f0 with d := 1, a := 3, f := 8, x := 3, h := 5 }, labLd, Env.anyTag, fun e => !handleBad (hState e) e.t (hGot e) && (hGot e).space == 5 &&
        e.offset (memImm e.f) 8 0 % 8 != 0),
      (.ld { f0 with d := 1, a := 1, f := 8, x := 3, h := 5 }, labM 8 [0, 4096], Env.anyTag, fun e => !handleBad (hState e) e.t (hGot e) &&
        (laneOffsets e 8).all (·.off % 8 == 0) && (laneFault (checkLanes e (hGot e) 5 8 .load (laneOffsets e 8) (hState e)).2).isSome),
      (.ld { f0 with d := 1, a := 2, f := 8, x := 3, h := 5 }, withTeam labLd ({ · with handles := 0x80000000 }), Env.anyTag, fun e =>
        match (readHandle e.s e.t 5).2 with
        | .error _ => true
        | .ok _ => false)] : List Wit), Meets w) ∧
    ((-1 : Int) < 0 ∧ ((parseHandle (leNat (hEntry 5 0x60000 4096))).bound : Int) < 4089 + 8) ∧
    (∀ w ∈ ([(.nop f0, labLd, fun e => (e.s.part? e.t.part).isSome && e.t.launch != none)] : List Iss), MeetsIssue w) :=
  ⟨meets_all (by decide +kernel), by decide +kernel, issues_all (by decide +kernel)⟩

/-! The fabric -/

/-- `labX` with a pattern in s10, and with both lanes' replies there. -/
def labPat (pat : Word) : State := withScalar labX 10 pat
def labReplied (pat : Word) : State := withBraid (labPat pat) fun b => { b with
  pendX := [0, 1].map fun l => { pc := 64, lane := l, tag := l, reply := some (5, 0), rels := [] } }
/-- `labX` whose batch 0 a BCLOSE at program counter 64 closes, with a reply or its timeout. -/
def labClosing (replies : List CloseReply) (timeout : Bool) : State := withTeam (labPat patOther) fun t => { t with
  batches := t.batches.set 0 { count := 0, rels := [], replies, timeout
                               closing := some { rank := 0, pc := 64, tag := 1, peers := [1], since := 0, count := 0, rels := [] } } }
/-- A pattern whose mode 3 names an axis that is used. -/
def patBad : Word := 0xC00C00C00C00C00
/-- `labPat` at the device of coordinate 1, away from the root of a reduction. -/
def labSender : State := withPart (labPat patSum) fun p => p.setReg 0x0200 0 0x02000001
/-- All that a lane sends goes to other devices. -/
def sendsB (s : State) (pat : Word) : Bool := (s.part? 0).any fun p => 0 < derivedCount pat p p.coord &&
  (if patRed pat then rootOf pat p != p.coord else !(expand pat p p.coord p.coord 0).2)
/-- A pattern of no device but its origin, which it leaves out. -/
def patNone : Word := 0x1C00C00C00C00000

theorem witness_FabricInstructions :
    (∀ w ∈ ([(.ldx { f0 with d := 1, a := 2, c := 10, f := 8, x := 3, h := 7 }, labReplied patOther, Env.anyTag, fun e => e.t.replay == none &&
        remoteB e patOther patternOne [] (laneOffsets e 8) 8 false && [0, 1].all fun l => (e.b.pending e.pc l).any fun x => x.reply == some (5, 0)),
      (.ldx { f0 with d := 1, a := 2, c := 10, f := 8, x := 3, h := 7 }, labPat patOther, Env.anyTag, fun e =>
        remoteB e patOther patternOne [] (laneOffsets e 8) 8 false && [0, 1].all (fun l => (e.b.pending e.pc l).isNone) &&
        (e.s.part? 0).any fun p => (targets patOther p p.coord).headD p.coord != p.coord),
      (.stx { f0 with d := 3, a := 2, c := 10, f := 8, x := 3, h := 7 }, labPat patBoth, Env.anyTag, fun e =>
        remoteB e patBoth patternMany [] (laneOffsets e 8) 8 true && (e.t.batches[0]?).isSome),
      (.atx { f0 with d := 1, a := 2, b := 10, c := 3, f := 8, x := 8, h := 7 }, labReplied patOther, Env.anyTag, fun e => e.f.x.getLsbD 3 &&
        remoteB e patOther patternOne (atomChecks e) ((Mask.lanes e.act).map fun l => ⟨l, e.offset 0 8 l⟩) 8 true),
      (.atx { f0 with d := 1, a := 2, b := 10, c := 3, f := 8, x := 8, h := 7 }, labPat patOther, Env.anyTag, fun e =>
        remoteB e patOther patternOne (atomChecks e) ((Mask.lanes e.act).map fun l => ⟨l, e.offset 0 8 l⟩) 8 true &&
        [0, 1].all (fun l => (e.b.pending e.pc l).isNone) && (e.s.part? 0).any fun p => (targets patOther p p.coord).headD p.coord != p.coord),
      (.atx { f0 with d := 1, a := 2, b := 10, c := 3, f := 8, h := 7 }, labPat patBoth, Env.anyTag, fun e => !e.f.x.getLsbD 3 &&
        remoteB e patBoth patternMany (atomChecks e) ((Mask.lanes e.act).map fun l => ⟨l, e.offset 0 8 l⟩) 8 true),
      (.rstx { f0 with d := 3, a := 2, c := 10, f := 8, h := 7 }, labPat patSum, Env.anyTag, fun e =>
        remoteB e patSum patternReduce [] ((Mask.lanes e.act).map fun l => ⟨l, e.offset (memImm e.f) 8 l⟩) 8 true),
      (.stx { f0 with d := 3, a := 2, c := 10, f := 8, x := 3, h := 7 }, labPat patOther, Env.anyTag, fun e => sendsB e.s patOther &&
        remoteB e patOther patternMany [] (laneOffsets e 8) 8 true && (e.t.batches[0]?).isSome),
      (.atx { f0 with d := 1, a := 2, b := 10, c := 3, f := 8, h := 7 }, labPat patOther, Env.anyTag, fun e => sendsB e.s patOther &&
        remoteB e patOther patternMany (atomChecks e) ((Mask.lanes e.act).map fun l => ⟨l, e.offset 0 8 l⟩) 8 true),
      (.rstx { f0 with d := 3, a := 2, c := 10, f := 8, h := 7 }, labSender, Env.anyTag, fun e => sendsB e.s patSum &&
        remoteB e patSum patternReduce [] ((Mask.lanes e.act).map fun l => ⟨l, e.offset (memImm e.f) 8 l⟩) 8 true),
      (.bclose { f0 with d := 1, c := 10 }, labPat patBad, Env.anyTag, fun e => (e.s.part? 0).any fun p => !patternOk patBad p),
      (.bclose { f0 with d := 1, c := 10 }, labPat patSum, Env.anyTag, fun e => patRed (e.b.sreg e.f.c.toNat)),
      (.bclose { f0 with d := 1, c := 10 }, labPat patNone, Env.anyTag, fun e => (e.t.batches[0]?).isSome && (e.s.part? 0).any fun p =>
        patternOk patNone p && !patRed patNone && targets patNone p p.coord == []),
      (.bclose { f0 with d := 1, c := 10 }, labPat patOther, Env.anyTag, fun e => (e.s.part? 0).any fun p => patternOk patOther p && !patRed patOther &&
        (e.t.batches[0]?).any (·.closing.isNone) && (targets patOther p p.coord).any (· != p.coord)),
      (.bclose { f0 with d := 1, c := 10 }, labClosing [] false, Env.anyTag, fun e => (e.t.batches[0]?).any fun b => !b.timeout &&
        b.closing.any fun c => c.rank == e.rank && c.pc == e.pc && c.peers.any fun d => !b.replies.any (·.src == d)),
      (.bclose { f0 with d := 1, c := 10 }, labClosing [] true, Env.anyTag, fun e => (e.t.batches[0]?).any (·.timeout)),
      (.bclose { f0 with d := 1, c := 10 }, labClosing [{ src := 1, count := 0, errs := 0 }] false, Env.anyTag, fun e => (e.t.batches[0]?).any fun b =>
        b.closing.any fun c => (e.s.part? 0).any (fun p => targets patOther p p.coord != []) && c.peers.all fun d => b.replies.any (·.src == d))] : List Wit), Meets w) ∧
    (∀ w ∈ ([(.ldx { f0 with d := 1, a := 2, c := 10, f := 8, x := 3, h := 7 }), (.stx { f0 with d := 1, a := 2, c := 10, f := 8, x := 3, h := 7 }),
        (.rstx { f0 with d := 1, a := 2, c := 10, f := 8, x := 3, h := 7 })] : List Instr).map fun i => ((i, labPat patBad, Env.anyTag, fun e =>
          !handleBad (hState e) e.t (hGot e) && (hGot e).space == 7 && (e.s.part? 0).any fun p => !patternOk patBad p) : Wit), Meets w) ∧
    ((((labClosing [] false).team? 1).bind (·.batches[0]?)).any (·.closing.isSome)) = true := by
  refine ⟨meets_all ?_, meets_all ?_, ?_⟩ <;> decide +kernel

/-- A record from device 1 for global memory, at a pattern that only this device is in, with its copies made. -/
def patHere : Word := 0xC00C00C00C00000
def labRec (kind : RecKind) : FabRecord :=
  { baseRecord labX (labTeam 3 []) kind with src := 1, peerH := 5, f := 8, pattern := patHere, j := 1, count := 8
                                             data := leBytes 8 7, check := sourceCheck (leBytes 8 7) 0, tag := 9 }
/-- The record is of this partition's job, its place passes the target's checks, and it arrived whole. -/
def targetB (s : State) (r : FabRecord) (n : Nat) (k : AccessKind) (u : Use) : Bool :=
  (s.part? 0).any fun p => r.job == p.reg 0x0202 0 && r.check == sourceCheck r.data r.offset && !behind s p.num r && (ownerRequest s p.num r).isNone &&
    match targetSpot s 0 r r.offset n k with
    | (t, .ok (pt, sp)) => (match checkTarget t pt (remoteAccessor s 0 r.src r.origin) u sp with
      | (_, .ok ()) => true
      | _ => false)
    | _ => false
def expandB (r : FabRecord) (more : List (Nat × Nat) × Bool → Bool) : Bool :=
  (labX.part? 0).any fun p => more (expand r.pattern p r.src p.coord r.j)
def labContribution : Contribution := { src := 1, origin := (labRec .reduce).origin, key := 0, gen := 0, tag := 9, value := 7 }
def labRed (r : FabRecord) (xs : List Contribution) : Reduction := ⟨0, 0, r, 2, xs, none⟩
/-- A contribution to a sum over both devices. -/
def labSum : FabRecord := { labRec .reduce with pattern := patSum }
def labSumDone : State := { labX with reds := [labRed labSum [labContribution]] }
/-- An access of the lane, not yet performed; a window whose part is the other device's; a request to it. -/
def labBehind : State := { labX with deferred := [{ part := 0, record := labRec .store, gen := 0, tag := none }] }
def labOwned : State := (withGroup (labGang gang5) fun g => { g with remote := [(1, 2)] }).place 0x500C0 (hEntry 3 0 0x8000)
def labToOwner : FabRecord := { labRec .load with peerH := 3, offset := 8192 }
def labPassed : State := { labX with deferred := [{ part := 0, record := { labRec .load with ret := true }, gen := 0, tag := some 9 }] }
/-- A transmission that waits for the tag of `labRec`. -/
def labWaiting : State := { labX with txs := [{ tag := 9, uid := 1, rank := 0, lane := 0, need := 1, got := 0, record := labRec .load, dst := 1 }] }

theorem witness_FabricRecords :
    (memB labX && targetB labX (labRec .store) 8 .write .store && expandB (labRec .store) (· == ([], true))) = true ∧
    ((labX.part? 0).any fun p => copyCount patHere p 1 p.coord 1 == 1) = true ∧
    expandB { labRec .store with pattern := patOther, j := 0 } (!·.2) = true ∧
    (targetB labX (labRec .load) 8 .read .load && targetB labX (labRec .atomic) 8 .write .rmw) = true ∧
    (match (targetSpot labX 0 { labRec .load with peerH := 0 } 0 8 .read).2 with
      | .error _ => true
      | .ok _ => false) = true ∧
    labX.atomLog = [] ∧ ([((1 : Nat), (9 : Nat), (5 : Word), ([] : List Release))].find? fun x => x.1 == 1 && x.2.1 == 9).isSome = true ∧
    (labX.part? 0).any (fun p => (targetLaunch labX p labSum).isSome && derivedCount labSum.pattern p p.coord == 2 &&
      match targetSpot labX 0 labSum 0 8 .write with
      | (t, .ok (pt, sp)) => (match checkContributions t p pt sp [labContribution] with
        | (_, .ok ()) => true
        | _ => false)
      | _ => false) = true ∧
    ((labSumDone.reds.find? (sameReduction 0 0 labSum)).any fun x => x.expected == x.data.length + 1) = true ∧
    (labX.reds = [] ∧ labX.deferred = []) ∧
    (behind labBehind 0 (labRec .load) && !behind labOwned 0 labToOwner && (ownerRequest labOwned 0 labToOwner).any (·.1 == 1) &&
      (labPassed.deferred.find? fun w => w.tag == some 9).any fun w => w.record.ret && w.record.src == 1) = true ∧
    ({ labRec .store with ret := true, job := 1 } : FabRecord).kind ≠ .load ∧
    (labX.part? 0).any (fun p => ({ labRec .ack with src := 0 } : FabRecord).src == p.coord && (labRec .ack).src != p.coord) = true ∧
    ([({ src := 1, tag := 9, need := 2, got := 0, back := 1 } : AckSum)].any fun y => y.src == 1 && y.tag == 9) = true ∧
    (labWaiting.txs.find? fun y => y.tag == 9).isSome = true ∧
    ((((labClosing [] false).team? 1).bind (·.batches[0]?)).any fun b => b.replies.isEmpty && b.closing.any (·.tag == ({ labRec .closeReply with tag := 1 } : FabRecord).tag)) = true ∧
    (labX.part? 0).any (fun p => ({ labRec .load with job := 1 } : FabRecord).job != p.reg 0x0202 0) = true := by
  refine ⟨?_, ?_, ?_, ?_, ?_, rfl, ?_, ?_, ?_, ⟨rfl, rfl⟩, ?_, ?_, ?_, ?_, ?_, ?_, ?_⟩ <;> decide +kernel

/-- A link with keys on both sides in slot 0, and the next flit of a type for device `dst`. -/
def labLink : Link :=
  { num := 0, up := true
    tx := { slot := false, ctr0 := 0, ctr1 := 0, key0 := some 1, key1 := none, seq := 0, sent := 0, returned := 0, retry := [], sinceState := 0, asked := false }
    rx := { expect := 0, refusing := false, slot := false, key0 := some 1, key1 := none, last0 := some 4, last1 := none, freed := 0, owed := 0, mark := 0
            emptyDwells := 0, heard := false } }
def labFlit (type dst : Nat) : Flit :=
  { ret := 0, seq := 0, dst, hop := false, len := 0, ks := false, type, ctr := 5, tag := 0, load := [], slot := true, freed := 0, mark := 0, want := 0 }
def labLinks (g : Link → Link) : State := { labX with links := [g labLink] }
/-- The flit with its tag. -/
def sealed (f : Flit) : Flit := { f with tag := sealTag f 1 (rxLinkId (labLinks id) 0) }
theorem sealed_opens (f : Flit) (ht : f.type ≤ 5) (hk : f.ks = false) (g : LinkRx → LinkRx)
    (h1 : (g labLink.rx).slot = false) (h2 : (g labLink.rx).key0 = some 1) :
    opens (labLinks id) { labLink with rx := g labLink.rx } (sealed f) = true := by
  have h : sealTag (sealed f) 1 (rxLinkId (labLinks id) 0) = sealTag f 1 (rxLinkId (labLinks id) 0) := rfl
  have hl : ({ labLink with rx := g labLink.rx } : Link).num = 0 := rfl
  unfold opens
  rw [hl]
  simp only [show (sealed f).type = f.type from rfl, show (sealed f).ks = f.ks from rfl, hk, h1, h2, ht, h, decide_true, beq_self_eq_true,
    Bool.and_true, Bool.false_eq_true, if_false, Option.any_some, show (sealed f).tag = sealTag f 1 (rxLinkId (labLinks id) 0) from rfl]

/-- The link with its counter at a value. -/
def labWorn (n : Nat) : Link := { labLink with tx := { labLink.tx with ctr0 := n } }

/-- A flit that opens and one that does not, in and out of its turn, for this node, for another and on its second hop, with
and without room to relay; fresh and stale unbuffered ones; a link whose counter has run out, or is about to. -/
theorem witness_LinkFlits :
    (((labLinks id).link? 0).any (·.up) && (labFlit 0 0).seq == labLink.rx.expect && maySeal (labLinks id) labLink && !maySeal { labX with time := 2000 } labLink &&
      !opens (labLinks id) labLink { labFlit 0 0 with ks := true } && !opens (labLinks id) { labLink with rx := { labLink.rx with refusing := true } } { labFlit 0 0 with ks := true }) = true ∧
    (∀ t d, t ≤ 5 → opens (labLinks id) labLink (sealed (labFlit t d)) = true ∧ opens (labLinks id) { labLink with rx := { labLink.rx with expect := 1 } } (sealed (labFlit t d)) = true ∧
      opens (labLinks id) { labLink with rx := { labLink.rx with last0 := some 5 } } (sealed (labFlit t d)) = true) ∧
    ((linkPart (labLinks id) 0).any fun p => decide ((labLinks id).part? p.num = some p) && (labFlit 0 0).dst == p.coord && (labFlit 2 1).dst != p.coord &&
      ({ labFlit 0 1 with hop := true } : Flit).hop && !relayRoom (labLinks id) p) = true ∧
    ((linkPart (withPart (labLinks id) fun p => p.setReg 0x0207 0 256) 0).any fun p => relayRoom (withPart (labLinks id) fun p => p.setReg 0x0207 0 256) p) = true ∧
    (6 ≤ (labFlit 6 0).type ∧ (labFlit 1 0).slot ≠ labLink.rx.slot) ∧
    (({ labLink.tx with sent := 1, retry := [labFlit 0 1] } : LinkTx).retry.drop (1 - ({ labLink.tx with sent := 1 } : LinkTx).held)).head? = some (labFlit 0 1) ∧
    (labLink.rx.last0.any (4 ≤ ·) = true ∧ labLink.rx.last0.any ((labFlit 3 0).ctr ≤ ·) = false) ∧
    (2000 / 2000 ≠ labX.time / 2000 ∧ 1999 / 2000 = labX.time / 2000 ∧ (labLinks id).link? labLink.num = some labLink ∧ labLink.num % 32 = 0 / 2000 % 32 ∧
      labX.time % 2000 < 1900 ∧ labLink.tx.key.isSome = true ∧ labLink.tx.ctr + 4 < lastCtr ∧ labLink.tx.next = none ∧ labLink.tx.resend = [] ∧ labLink.tx.held < 128 ∧
      labX.relay = [] ∧ routeOf { labLinks id with routes := [(0, 1, .direct 0)] } 0 (outDst (.access 1 (labRec .load))) false = some 0) ∧
    (lastCtr ≤ (labWorn lastCtr).tx.ctr ∧ (labWorn lastCtr).tx.next = none ∧ mayGo (labLinks id) (labWorn lastCtr) = true ∧ 0 < (labWorn lastCtr).tx.credit ∧
      mayGo { labX with time := 2000 } (labWorn lastCtr) = false ∧ ({ (labWorn lastCtr).tx with key1 := some 2 } : LinkTx).next ≠ none) ∧
    (rootRuns ({ labX with bootstage := 2 } : State) = true ∧ rootRuns labX = false ∧ labLink.tx.key ≠ none ∧ labLink.tx.old = false) ∧ 4 ≤ ({ labLink.rx with emptyDwells := 4 } : LinkRx).emptyDwells ∧
    (2 ^ 48 - 2 ^ 20 ≤ (labWorn (2 ^ 48 - 2 ^ 20)).tx.ctr ∧ (labWorn (2 ^ 48 - 2 ^ 20)).tx.asked = false) ∧ labLink.rx.emptyDwells < 4 ∧ labLink.tx.ctr < 2 ^ 48 - 2 ^ 20 ∧ labX.link? 0 = none := by
  refine ⟨?_, fun t d h => ⟨?_, ?_, ?_⟩, ?_⟩
  · decide +kernel
  · exact sealed_opens (labFlit t d) h rfl id rfl rfl
  · exact sealed_opens (labFlit t d) h rfl (fun r => { r with expect := 1 }) rfl rfl
  · exact sealed_opens (labFlit t d) h rfl (fun r => { r with last0 := some 5 }) rfl rfl
  · refine ⟨?_, ?_, ?_, ?_, ?_, ?_, ?_, ?_, ?_, ?_, ?_, ?_, ?_⟩ <;> decide +kernel

/-! Engines -/

/-- `labM` with a tile, two slots, a tensor header behind handle 5, and scalars for the commands: s10 = 0, s11 = 16,
s12 = 8, s13 = 0x00010101 and s14 = 0x0101, s15 = 1. -/
def labE : State :=
  let s := withTeam (labM 8 [0, 0, 64, 7]) fun t => { t with tiles := [[]], tileTags := [10], slots := [(0, []), (1, [])] }
  let s := { s with mem := labHdr.mem }
  withBraid s fun b => { b with s := ((((b.s.set 11 16).set 12 8).set 13 0x00010101).set 14 0x0101).set 15 1 }

/-- One of each command, over global memory, the scratchpad, slots 0 and 1 and tile 0. -/
def labCommands : List Instr :=
  [.cpy { f0 with len := 1, a := 10, b := 11, d := 10, h := 5, e := 2 }, .gath { f0 with len := 1, a := 10, b := 12, d := 10, h := 5 },
   .scat { f0 with len := 1, a := 10, b := 12, d := 10, h := 5 }, .mma { f0 with len := 1, d := 0, a := 0, b := 1, c := 13, f := 10 },
   .gmma { f0 with len := 1, d := 0, a := 10, b := 10, c := 13, f := 10, h := 5, e := 0x100 },
   .accwr { f0 with len := 1, d := 0, a := 10, b := 14, f := 10, h := 5 }, .accst { f0 with len := 1, d := 0, a := 10, b := 14, f := 10, h := 5 },
   .hadt { f0 with len := 1, d := 0, b := 15, h := 5 }, .qtile { f0 with len := 1, d := 0, a := 0, b := 14, f := 12 }]
def labCpy : Instr := .cpy { f0 with len := 1, a := 10, b := 11, d := 10, h := 5, e := 2 }
/-- A command as it is planned. -/
def labCmd (i : Instr) : Option Command := (cPlan (envOf i labE)).map (·.2)
def labTrackers (o : List (Option Command)) : State := withTeam labE ({ · with trackers := o })

/-- Each command with free trackers, a copy of no byte, one with no free tracker, and one that names a malformed handle. -/
theorem witness_EngineCommands :
    (∀ w ∈ labCommands.map (fun i => ((i, labE, Env.anyTag, fun e => commandB e (fun c => decide (0 < c.count)) && e.t.trackers[0]? == some none) : Wit)), Meets w) ∧
    (∀ w ∈ ([(.cpy { f0 with len := 1, a := 10, b := 10, d := 10, h := 5, e := 2 }, labE, Env.anyTag, fun e => commandB e (·.count == 0)),
      (labCpy, labTrackers (List.replicate 8 (labCmd labCpy)), Env.anyTag, fun e => commandB e (fun c => decide (0 < c.count)) && e.t.trackers.all (·.isSome)),
      (.cpy { f0 with len := 1, a := 10, b := 11, d := 10, e := 2 }, labE, Env.anyTag, fun e =>
        match planCommand e.s e.t e.i (e.b.vals e.i) e.act e.rank e.pc e.b.nmode with
        | (_, .trap _) => true
        | _ => false),
      (.mma { f0 with len := 1, d := 0, a := 0, b := 1, c := 13, f := 10 }, labE, Env.anyTag, fun e => !e.f.e.getLsbD 10 && !e.f.e.getLsbD 21 &&
        e.f.d.toNat < e.t.tiles.length && e.t.slots.any (·.1 == 0) && e.t.slots.any (·.1 == 1) && (e.b.vals e.i).c.toNat == 0x00010101 &&
        e.t.tileTags.getD 0 0 == 10)] : List Wit), Meets w) ∧ (1 : Word).toNat ≤ 2 ^ 32 ∧ (1 : Word).toNat ≠ 0 :=
  ⟨meets_all (by decide +kernel), meets_all (by decide +kernel), by decide⟩

/-- `labE` whose scratchpad holds, at 0, a node of the copy with a count, and at 64 one in a state. -/
def labNode (count state : Nat) : State := withTeam labE fun t => { t with
  scratch := (t.scratch.write 0 (leBytes 64 ((encode labCpy).toNat + 16 * 2 ^ 256 + count * 2 ^ 384 + state * 2 ^ 416))).write 64 (leBytes 64 (1 * 2 ^ 384)) }
def labReady : State := withTeam (labNode 0 1) fun t => { t with
  nodes := [{ off := 0, rank := 0, pc := 64, ready := true, nmode := 0, vc := [] }] }

/-- A node of a copy whose handle entry no page holds. -/
def labLate : State := withTeam (labNode 1 0) ({ · with handles := 0x80000000 })

/-- DGN of a count 1, DGL from a node before and after its end, and a held node that is ready. -/
theorem witness_DependenceGraph :
    (∀ w ∈ ([(.dgn { f0 with len := 2, a := 10, l := 0x80000001 }, labNode 1 0, Env.anyTag, fun e => memB e.s &&
        decide ((e.b.sreg e.f.a.toNat).toInt + e.f.e.toInt = 0) && nodeFree e.t 0 && e.f.l.getLsbD 31 && e.f.l.toNat % 2 ^ 16 == 1 &&
        match nodeInstr (nodeBits e.t 0 127 0) with
        | none => false
        | some i => (match planCommand e.s e.t i (nodeVals e.t 0 i) e.act e.rank e.pc e.b.nmode with
          | (t, .ok c none) => (issueTurn t e.t c e.act).isNone &&
            (match testGranules e.accessor .rmw { place := .scratch e.t.uid 0, addr := 0, h := scratchHandle e.t, hIdx := 0, group := 0, n := 64 } .scratch e.t.uid 0
                (granules 0 64) t with
              | (t1, .ok ()) => (match testNames t1 e.t e.accessor (granuleUses i) with
                | .ok _ => true
                | .error _ => false)
              | _ => false)
          | _ => false))] : List Wit), Meets w) ∧
    (∀ w ∈ ([0, 3] : List Nat).map (fun st => ((.dgl { f0 with len := 1, a := 10, b := 10, e := 0x00010000 }, labNode 0 st, Env.anyTag, fun e =>
        nodeBits e.t 0 463 448 == 0 && nodeBits e.t 64 418 416 == 0 && nodeBits e.t 0 418 416 == st && nodeBits e.t 64 415 384 == 1 &&
        match touchNodes e e.s [0, 64] (fun s => .go s) with
        | .go _ => true
        | _ => false) : Wit)), Meets w) ∧
    ((labReady.team? 1).any fun t => memB labReady && t.engineRuns && !t.debugStopping && t.trackers[0]? == some none &&
      (t.nodes.find? fun x => x.off == 0).any (·.ready) && t.braids.length == 1 &&
      match nodeInstr (nodeBits t 0 127 0) with
      | none => false
      | some i => (match planCommand labReady t i (nodeVals t 0 i) 0 0 64 0 with
        | (_, .ok c _) => decide (0 < c.count)
        | _ => false)) = true ∧
    (∀ w ∈ ([(.dgn { f0 with len := 2, a := 10, l := 0x80000001 }, labLate, Env.anyTag, fun e => memB e.s && nodeFree e.t 0 &&
        match nodeInstr (nodeBits e.t 0 127 0) with
        | none => false
        | some i => (match planCommand e.s e.t i (nodeVals e.t 0 i) e.act e.rank e.pc e.b.nmode with
          | (_, .ok _ (some _)) => true
          | _ => false))] : List Wit), Meets w) :=
  ⟨meets_all (by decide +kernel), meets_all (by decide +kernel), by decide +kernel, meets_all (by decide +kernel)⟩

/-- `labE` with the command of an instruction in tracker 0. -/
def labRun (i : Instr) : State := withTeam labE fun t => { t with trackers := t.trackers.set 0 (labCmd i) }
/-- Tracker 0's step `elem` may be taken, and the command begins. -/
def runB (s : State) (elem : Nat) (more : Team → Command → State → Team → Command → Bool) : Bool :=
  (s.team? 1).any fun t => t.uid == 1 && t.status == .running && (t.canStep 0 elem).any fun c => c.node.isNone && !c.full && !credits c.inst &&
    decide (c.count ≤ 64) && !t.pendE.any (fun p => p.trk == 0 && p.elem != elem) && memB s &&
    match beginCommand s 1 0 with
    | (s1, some (t1, c1)) => more t c s1 t1 c1
    | _ => false
def movesB (r : State × Flow (List Byte)) : Bool :=
  match r.2 with
  | .done _ => true
  | _ => false
/-- A gather of two rows. -/
def labRows : State :=
  let s := withScalar labE 12 0x10008
  withTeam s fun t => { t with trackers := t.trackers.set 0 ((cPlan (envOf (labCommands.getD 1 (.nop f0)) s)).map (·.2)) }
def labRow (k : Nat) : Instr := labCommands.getD k (.nop f0)

theorem witness_EngineSteps :
    runB (labRun labCpy) 0 (fun _ c s1 t1 c1 => isCopy c.inst && c.count == 1 && (elemTraffic t1 c1 0 []).slot.isNone &&
      match readIndexes t1 0 0 c1 (isIndexed c1.inst) c1.inst.fields.l.toNat (elemRows c1 0) s1 with
      | (s2, .done xs) => movesB (moveElement s2 t1 0 0 c1 (elemTraffic t1 c1 0 xs).from_ (elemTraffic t1 c1 0 xs).to_ id)
      | _ => false) = true ∧
    runB labRows 1 (fun _ c s1 t1 c1 => isCopy c.inst && c.count == 2 && c.bitmap == 0 &&
      match readIndexes t1 0 1 c1 (isIndexed c1.inst) c1.inst.fields.l.toNat (elemRows c1 1) s1 with
      | (s2, .done xs) => movesB (moveElement s2 t1 0 1 c1 (elemTraffic t1 c1 1 xs).from_ (elemTraffic t1 c1 1 xs).to_ id)
      | _ => false) = true ∧
    runB (labRun labCpy) 0 (fun _ _ s1 t1 c1 =>
      let a : Seg := { h := parseHandle (leNat (hEntry 4 0 4096)), hIdx := 4, off := 0, n := 16 }
      let b : Seg := { h := parseHandle (leNat (hEntry 2 0 4096)), hIdx := 2, off := 0, n := 16 }
      match checkPieces t1 (cmdAccessor s1 t1 0 0 c1) .load (pieces [a]) s1 with
      | (s2, .ok [x]) => (match checkPieces t1 (cmdAccessor s1 t1 0 0 c1) .store (pieces [b]) s2 with
        | (_, .ok [y]) => x.n == y.n && !x.cached && (farSpots [x, y]).isEmpty && (elemPend t1 0 0).isEmpty && t1.replay.isNone && s1.soft.isEmpty &&
          movesB (moveElement s1 t1 0 0 c1 [a] [b] id)
        | _ => false)
      | _ => false) = true ∧
    runB (labRun (labRow 3)) 0 (fun t c _ _ _ => (match c.inst with
      | .mma _ => true
      | _ => false) && (multOf c).any fun m => decide (m.tile < t.tiles.length) && decide (m.m ≤ 64) && decide (m.n ≤ 64)) = true ∧
    runB (labRun (labRow 7)) 0 (fun t c _ _ _ => isRows c.inst && decide (c.inst.fields.d.toNat < t.tiles.length)) = true ∧
    runB (labRun (labRow 5)) 0 (fun _ c s1 t1 c1 => isRows c.inst && decide (bitsOf c.valB.toNat 15 8 ≤ 64) &&
      movesB (moveElement s1 t1 0 0 c1 [rowSeg c1 0] [] (fun _ => []))) = true ∧
    runB (labRun (labRow 6)) 0 (fun _ c s1 t1 c1 => isRows c.inst &&
      movesB (moveElement s1 t1 0 0 c1 [] [rowSeg c1 0] (fun _ => storeRow s1 t1 c1 c1.inst.fields 0))) = true ∧
    runB (labRun (labRow 8)) 0 (fun t c _ _ _ => isRows c.inst && qshapeOk c.inst.fields c.valB && (scaleHalf c.inst.fields.e.toNat).isNone &&
      t.hasSlot c.inst.fields.d.toNat) = true := by
  refine ⟨?_, ?_, ?_, ?_, ?_, ?_, ?_, ?_⟩ <;> decide +kernel

/-- A copy that credits the phase object at scratchpad address 0, in its phase and two phases on. -/
def labCredit (ph : Word) : Option (State × Team × Command × Spot) :=
  let i : Instr := .cpy { f0 with len := 1, a := 10, b := 11, c := 16, d := 10, h := 5, e := 0x02800002 }
  let s := withTeam (withScalar labE 16 (ph <<< 48)) fun t => { t with scratch := t.scratch.write 0 (leBytes 16 { labPhase with pend := 17 }.num) }
  match cPlan (envOf i s), s.team? 1 with
  | some (t, c), some x => (match phaseSpot t x c.entP (ePhh c.inst.fields) (Int.ofNat (c.valC.toNat % 2 ^ 48)) with
    | .ok sp => some (t, x, c, sp)
    | .error _ => none)
  | _, _ => none
theorem witness_EngineSteps_credit : ([(0, true), (2, false)] : List (Word × Bool)).all (fun x => (labCredit x.1).any fun y =>
    credits y.2.2.1.inst && !y.2.2.1.stale && y.2.1.replay.isNone &&
    match checkSyncs y.2.1 (cmdAccessor y.1 y.2.1 0 0 y.2.2.1) [y.2.2.2] y.1 with
    | (v, .ok ()) => (match arrivePhase v y.2.2.2 (y.2.2.1.valC.toNat / 2 ^ 48) 0 16 (creditRels v y.2.1 y.2.2.1 0 y.2.2.2.h) with
      | .ok _ => x.2
      | .error _ => !x.2)
    | _ => false) = true ∧
    ((labCredit 0).any fun y =>
      let s := { y.1 with soft := [.parityScratch 1 0 5] }
      match (checkSyncs y.2.1 (cmdAccessor s y.2.1 0 0 y.2.2.1) [y.2.2.2] s).2 with
      | .error _ => true
      | .ok _ => false) = true := by constructor <;> decide +kernel

/-- A team on the core with every operand slot taken but one. -/
def labFull : State := { labE with teams := labE.teams ++ [{ labTeam2 with core := 0, slots := List.replicate (Config.operandSlots - 2) (5, []) }] }

theorem witness_TilesAndSlots :
    (∀ w ∈ ([(.claim { f0 with d := 1, a := 1, b := 2 }, labE, Env.anyTag, fun e => e.t.replay == none && e.t.hasSlot 1),
      (.claim { f0 with d := 1, a := 2, b := 63 }, labE, Env.anyTag, fun e => ((List.range 62).all fun k => !e.t.hasSlot (k + 2)) &&
        decide (slotsUsed e.s e.t.core + 62 ≤ Config.operandSlots)),
      (.claim { f0 with d := 1, a := 2, b := 2, x := 1 }, labFull, Env.anyTag, fun e => !e.t.hasSlot 2 && e.f.x.getLsbD 0 &&
        decide (Config.operandSlots < slotsUsed e.s e.t.core + 1)),
      (.claim { f0 with d := 1, a := 2, b := 2 }, labFull, Env.anyTag, fun e => !e.t.hasSlot 2 && !e.f.x.getLsbD 0 &&
        decide (Config.operandSlots < slotsUsed e.s e.t.core + 1)),
      (.release { f0 with a := 1, b := 2 }, labE, Env.anyTag, fun e => !e.t.hasSlot 2),
      (.release { f0 with a := 0, b := 1 }, labRun (labRow 3), Env.anyTag, fun e => e.t.hasSlot 0 && e.t.hasSlot 1 && e.t.slotBusy 0 1),
      (.release { f0 with a := 0, b := 1 }, labE, Env.anyTag, fun e => e.t.hasSlot 0 && e.t.hasSlot 1 && !e.t.slotBusy 0 1),
      (.accz { f0 with d := 1 }, labE, Env.anyTag, fun e => e.t.tiles.length == e.f.d.toNat),
      (.accz f0, labRun (labRow 3), Env.anyTag, fun e => e.t.tileBusy 0 && (match testNames e.s e.t e.accessor [(.tile, 0, true)] with
        | .ok _ => true
        | .error _ => false)),
      (.accrd { f0 with len := 1, d := 1, f := 10, e := 0x3F3E }, labRun (labRow 3), Env.anyTag, fun e => e.t.tileBusy 0 && e.t.tileTags.getD 0 0 == 10 &&
        (match testNames e.s e.t e.accessor [(.tile, 0, false)] with
        | .ok _ => true
        | .error _ => false)),
      (.accz f0, labE, Env.anyTag, fun e => !e.t.tileBusy 0 && decide (0 < e.t.tileTags.length) &&
        (match testNames e.s e.t e.accessor [(.tile, 0, true)] with
        | .ok _ => true
        | .error _ => false)),
      (.accrd { f0 with len := 1, d := 1, f := 10, e := 0x3F3E }, labE, Env.anyTag, fun e => e.t.tileTags.getD 0 0 == 10 && !e.t.tileBusy 0 &&
        e.f.e.toNat < 2 ^ 14 && e.f.e.toNat / 64 % 4 == 0 && e.f.e.toNat % 64 % 2 == 0 &&
        (match testNames e.s e.t e.accessor [(.tile, 0, false)] with
        | .ok _ => true
        | .error _ => false))] : List Wit), Meets w) := meets_all (by decide +kernel)

/-! Collectives -/

/-- A work entry of team 1: slot 0, tag 9, 8192 bytes in the scratchpad with rank 1, counter 2. -/
def labEntry (kind : Nat) : WorkEntry :=
  { num := 0, kind, op := 0, f := 0, handle := parseHandle (leNat (hEntry 2 0 4096)), hIndex := 2, off := 0, len := 8192, peer := 1, ctr := 2, wtag := 9
    group := 0, slot := 0, gen := 0, rank := 0, armed := some (0, 0), fired := false, ready := none, chunks := 0, held := [], mismatches := [], ord := 0
    collect := none, ending := none, fault := none, party := 0, vc := [] }
/-- The small machine with a window group and the scalars of a post: s10 = 0, s11 = 16, s12 = 1, s13 = 2; and an entry. -/
def labW (v10 v11 v12 : Word) : State := withScalar (withScalar (withScalar (withScalar (labM 8 []) 13 2) 10 v10) 11 v11) 12 v12
def labEntries (k : Nat) (w : WorkEntry) : State := withTeam (labW 0 16 1) ({ · with entries := List.replicate k w, posted := 1 })
def qpw (x : BitVec 8) : Instr := .qpwPost { f0 with len := 1, d := 10, a := 11, b := 12, c := 13, h := 2, x, e := 0x00090000 }
def postB (e : Env) : Bool := e.t.replay.isNone && (e.s.groupAt e.t 0).any (fun g => g.c && g.total == 2) && match namedEntry e.s e.t 2 [2, 3, 4, 5, 6] (fun _ => true) with
  | (_, .got _) => true
  | _ => false

/-- Lengths 7, 8, 2^30 and one more; peers 1 and 2 of two; alignment; the 64th entry and the 65th; thresholds at both
sides of 2^63 and of the counter. -/
theorem witness_WorkEntries :
    (∀ w ∈ ([(labW 0 7 1), (labW 0 0x40000001 1), (labW 0 8 2), (labW 0 0x40000000 1), (labW 4 16 1)] : List State).map (fun s =>
      ((qpw 0, s, Env.anyTag, postB) : Wit)), Meets w) ∧
    (∀ w ∈ ([(qpw 0, withGroup (labM 8 []) ({ · with c := false }), Env.anyTag, fun e => (e.s.groupAt e.t 0).any (!·.c)),
      (qpw 0, withScalar (labW 0 16 1) 13 64, Env.anyTag, fun e => postB e && (e.b.sreg e.f.c.toNat).toNat == 64),
      (.qpwPost { f0 with len := 1, d := 10, a := 11, b := 12, c := 13, e := 0x00090000 }, labW 0 16 1, Env.anyTag, fun e =>
        match (namedEntry e.s e.t 0 [2, 3, 4, 5, 6] (fun _ => true)).2 with
        | .bad => true
        | _ => false),
      (qpw 0, labEntries 64 (labEntry 0), Env.anyTag, fun e => postB e && e.t.entries.length == 64),
      (qpw 1, labEntries 63 (labEntry 0), Env.anyTag, fun e => postB e && e.t.entries.length == 63 && e.t.entries.all (·.num < e.t.posted) &&
        (e.s.part? e.t.part).any fun p => p.rtr.all (!·.error)),
      (.qpwArm { f0 with len := 1, a := 10, c := 0 }, labW 0x40000 0 0, Env.anyTag, fun e => (e.b.sreg 10).toNat == 2 ^ 18),
      (.qpwArm { f0 with a := 10, b := 11, c := 0 }, labW 0x3FFFF 0x8000000000000000 0, Env.anyTag, fun e => (e.b.sreg 11).toNat == 2 ^ 63),
      (.qpwArm { f0 with a := 10, b := 11, c := 0 }, labW 9 0x7FFFFFFFFFFFFFFF 0, Env.anyTag, fun e => (e.b.sreg 11).toNat + 1 == 2 ^ 63),
      (.cntAdd { f0 with len := 1, d := 2, e := 1 }, labM 8 [], Env.anyTag, fun e => e.t.replay.isNone),
      (.cntWait { f0 with d := 1, a := 2, b := 11 }, labW 0 0x8000000000000000 0, Env.anyTag, fun e => (e.b.sreg 11).toNat == 2 ^ 63),
      (.cntWait { f0 with d := 1, a := 2, b := 11 }, labW 0 1 0, Env.anyTag, fun e => (e.t.k.getD 2 0).toNat < (e.b.sreg 11).toNat),
      (.cntWait { f0 with d := 1, a := 2, b := 11 }, labW 0 0 0, Env.anyTag, fun e => (e.t.k.getD 2 0).toNat == (e.b.sreg 11).toNat)] : List Wit), Meets w) :=
  ⟨meets_all (by decide +kernel), meets_all (by decide +kernel)⟩

/-- A message of the match of that entry with team 1, rank 0, the sender or the receiver. -/
def labXfer (src dst chunk : Nat) : XferMsg :=
  { group := 0, gang := 0, launch := 0, ord := 0, done := false, again := false, wtag := 9, srcRank := src, dstRank := dst, reduce := false, len := 8192, gen := 0
    chunk, data := leBytes 8 1, op := 0, f := 0, src := 0, check := chunkCheck chunk (leBytes 8 1), error := false }
def labMatch (w : WorkEntry) : State := labEntries 1 w
/-- The entry that a message concerns is there, in a running team. -/
def matchB (s : State) (m : XferMsg) (send : Bool) (more : WorkEntry → Bool) : Bool :=
  (msgGroup s 0 m).any fun x => (rankTeam s x.1 x.2 (if send then m.srcRank else m.dstRank)).any fun t => t.status == .running && decide (s.team? t.uid = some t) &&
    (if send then sendEntry t x.2 m else recvEntry t x.2 m).any fun w => decide (t.entry? w.num = some w) && decide (w.ctr < t.k.length) && more w
/-- A chunk of 16 bytes to apply. -/
def labHeld : WorkEntry := { labEntry 1 with fired := true, held := [(0, leBytes 16 5)], len := 4097 }

/-- The peer on the other device, no spill space, and another entry that holds as many chunks as the transit slots take. -/
def labFullEntry : WorkEntry := { labEntry 1 with num := 1, wtag := 8, held := List.replicate Config.transitSlots (1, []) }
def labNoRoom : State :=
  let s := withGroup (labMatch { labEntry 1 with fired := true }) fun g => { g with members := [0], remote := [(1, 1)] }
  let s := withTeam s fun t => { t with entries := t.entries ++ [labFullEntry] }
  withPart s fun p => ((p.setReg 0x0200 0 0x02000000).setReg 0x0201 0 2).setReg 0x0002 0 0x10
def labSumEntry : WorkEntry := { labHeld with kind := 3, f := 8 }

theorem witness_Transfers :
    (((labMatch (labEntry 0)).entry? 1 0).any fun x => x.1.uid == 1 && x.1.status == .running && x.2.fault.isNone && x.2.ending.isNone && !x.2.fired &&
      !x.1.debugStopping && x.2.collect.isNone && x.2.armed == some (0, 0)) = true ∧
    (((labMatch { labEntry 1 with ending := some true }).entry? 1 0).any fun x => x.2.ending == some true && decide (x.2.ctr < x.1.k.length) &&
      decide (x.2.chunks < chunkCount x.2.len)) = true ∧
    matchB (labMatch (labEntry 0)) (labXfer 0 1 0) true (fun _ => true) = true ∧
    matchB (labMatch { labEntry 0 with chunks := 2 }) { labXfer 0 1 1 with again := true } true (fun w => w.chunks == 2) = true ∧
    matchB (labMatch (labEntry 0)) { labXfer 0 1 0 with done := true } true (fun _ => true) = true ∧
    ((msgGroup (labM 8 []) 0 (labXfer 0 1 0)).any fun x => (rankTeam (labM 8 []) x.1 x.2 0).any fun t => (sendEntry t x.2 (labXfer 0 1 0)).isNone) = true ∧
    matchB (labMatch (labEntry 1)) { labXfer 1 0 0 with error := true } false (fun w => decide (w.chunks < chunkCount w.len)) = true ∧
    matchB (labMatch { labEntry 1 with fired := true, chunks := 1 }) (labXfer 1 0 0) false (fun w => w.fired && decide (0 < w.chunks)) = true ∧
    matchB (labMatch { labEntry 1 with fired := true }) (labXfer 1 0 1) false (fun w => w.fired && decide (w.chunks < 1) && w.held.isEmpty &&
      ((labM 8 []).part? 0).any (spillRoom (labMatch { labEntry 1 with fired := true }))) = true ∧
    matchB labNoRoom (labXfer 1 0 1) false (fun w => w.fired && w.held.isEmpty && (labNoRoom.part? 0).any fun p => !spillRoom labNoRoom p &&
      (msgGroup labNoRoom 0 (labXfer 1 0 1)).any fun x => (labNoRoom.team? 1).any fun t => rankCoord labNoRoom x.1 x.2 w.peer != labNoRoom.coordOf t) = true ∧
    (((labMatch labSumEntry).entry? 1 0).any fun x => isReduce x.2.kind && (canApply (labMatch labSumEntry) x.1 x.2).any fun bs =>
      movesB (reduceChunk (labMatch labSumEntry) x.1 x.2 0 bs)) = true ∧
    (((labMatch labHeld).entry? 1 0).any fun x => (canApply (labMatch labHeld) x.1 x.2).any fun bs => x.2.chunks == 0 && decide (1 < chunkCount x.2.len) &&
      (x.2.held.all (·.1 != 1)) && movesB (moveElement (labMatch labHeld) x.1 (entryTrk x.2) 0 (entryCommand x.2) [] [chunkSeg x.2 0] fun _ => bs)) = true := by
  refine ⟨?_, ?_, ?_, ?_, ?_, ?_, ?_, ?_, ?_, ?_, ?_, ?_⟩ <;> decide +kernel

/-! Privileged -/

/-- The supervisor's machine with operands in s10 and s11. -/
def labP (v10 v11 : Word) : State := withScalar (withScalar (withTeam (labM 3 []) ({ · with launch := none })) 10 v10) 11 v11
/-- The same beside team 2 of core 1, slot 4, which a register names as 68. -/
def labP2 (v10 : Word) (g : Team → Team) : State :=
  withScalar (withScalar ((withTeam labTwo ({ · with launch := none })).modTeam 2 g) 10 v10) 11 0
def srd (num : Nat) : Instr := .srd { f0 with d := 1, b := 11, x := BitVec.ofNat 8 (num / 256), h := BitVec.ofNat 8 num }
def swr (num : Nat) : Instr := .swr { f0 with a := 10, b := 11, x := BitVec.ofNat 8 (num / 256), h := BitVec.ofNat 8 num }
def limitB (e : Env) (num idx : Nat) (v : Bool) : Bool :=
  (regRow num).any (fun x => x.access == .rw || x.access == .wo) && decide (idx < regCount num) &&
    (e.s.part? 0).any fun p => limitOk e.s p num idx (e.b.sreg 10).toNat == v

/-- A number that is not listed, the last index and one past it, a read-only register, a value out of its limits and one
within them, the landing area's base and length, the start of a trial and its end, the commands of dbgcmd for a team that
stands and one that runs, rpmode for bindings that wait and one that does not, and the launch that lkill names. -/
theorem witness_SystemRegisters :
    (∀ w ∈ ([(srd 0x0FFF, labP 0 0, Env.anyTag, fun _ => (regRow 0x0FFF).isNone), (srd 0x0300, labP 0 16, Env.anyTag, fun _ => regCount 0x0300 == 16 && (regRow 0x0300).isSome),
      (srd 0x0300, labP 0 15, Env.anyTag, fun _ => (regRow 0x0300).isSome), (srd 0x0013, labP 0 0, Env.anyTag, fun _ => (regRow 0x0013).isSome),
      (swr 0x0FFF, labP 0 0, Env.anyTag, fun _ => (regRow 0x0FFF).isNone), (swr 0x0012, labP 0 0, Env.anyTag, fun _ =>
        (regRow 0x0012).any fun x => x.access != .rw && x.access != .wo),
      (swr 0x0300, labP 0 16, Env.anyTag, fun _ => (regRow 0x0300).any (·.access == .rw)), (swr 0x0413, labP 479 0, Env.anyTag, fun e => limitB e 0x0413 0 false),
      (swr 0x0413, labP 480 0, Env.anyTag, fun e => limitB e 0x0413 0 true), (swr 0x0413, labP 840 0, Env.anyTag, fun e => limitB e 0x0413 0 true),
      (swr 0x0413, labP 841 0, Env.anyTag, fun e => limitB e 0x0413 0 false), (swr 0x0510, labP 0 7, Env.anyTag, fun e => limitB e 0x0510 7 true),
      (swr 0x0511, labP 128 0, Env.anyTag, fun e => limitB e 0x0511 0 true),
      (swr 0x0320, withPart (labP 0x100000001 0) (fun p => p.setReg 0x0300 0 0x70000), Env.anyTag, fun e => limitB e 0x0320 0 true),
      (swr 0x0320, withPart (labP 0x100000000 0) (fun p => { p with trial := some { launch := 0, del := 5, g := 70, start := 1, till := 9 } }), Env.anyTag, fun e => limitB e 0x0320 0 true),
      (swr 0x0302, labP2 68 ({ · with dbgStopped := true, braids := [{ labBraid 3 [] with slot := 4, stop := .safePoint }] }), Env.anyTag, fun e => limitB e 0x0302 0 true &&
        (teamAt e.s 0 68).any fun t => t.uid == 2 && t.dbgStopped && decide (e.s.team? 2 = some t)),
      (swr 0x0302, labP2 65604 ({ · with dbgStopped := true }), Env.anyTag, fun e => limitB e 0x0302 0 true && (teamAt e.s 0 68).any fun t => t.uid == 2 && t.dbgStopped),
      (swr 0x0302, labP2 68 id, Env.anyTag, fun e => limitB e 0x0302 0 true && (teamAt e.s 0 68).any fun t => !t.dbgStopped),
      (swr 0x0302, labP2 0x20044 id, Env.anyTag, fun e => limitB e 0x0302 0 false),
      (swr 0x0335, labP2 16452 ({ · with status := .prepared }), Env.anyTag, fun e => limitB e 0x0335 0 true && (teamAt e.s 0 68).any fun t => t.uid == 2 && t.status == .prepared),
      (swr 0x0335, labP2 68 ({ · with status := .restored }), Env.anyTag, fun e => limitB e 0x0335 0 true && (teamAt e.s 0 68).any fun t => t.uid == 2 && t.status == .restored),
      (swr 0x0335, labP2 68 id, Env.anyTag, fun e => limitB e 0x0335 0 true && (teamAt e.s 0 68).any fun t => t.status == .running),
      (swr 0x0540, labP2 0x70000 id, Env.anyTag, fun e => limitB e 0x0540 0 true && (killTarget e.s 0 0x70000).any fun n => e.t.launch != some n.num)] : List Wit), Meets w) ∧
    limitOk (labP 0 0) ((Partition.reset 0).setReg 0x0012 0 4) 0x0013 0 4 = true := ⟨meets_all (by decide +kernel), by decide +kernel⟩

/-- An outstanding record with number 7 of team 2, of its braid or of its engine. -/
def labFaultRec (eng : Bool) : FaultRec :=
  { id := 3, seq := some 7, wtag := 0, group := 0, handle := 0, we := false, eng, elem := 0, trk := 0, rank := 0, detail := 0, cause := 1, coord := 0, team := 1
    pc := 64, lanes := 3, party := 0, info := 0, addr := 0, launch := 0, uid := 2, entry := 0 }
def labFaulted (eng : Bool) : State :=
  let s := withPart (withTeam labTwo ({ · with launch := none })) fun p => { p with faults := [labFaultRec eng] }
  let s := withScalar (withScalar s 10 7) 11 65535
  s.modTeam 2 fun t => { t with braids := t.braids.map fun b => { b with stop := if eng then .running else .fault 3 }, trackers := t.trackers.set 0 (labCmd labCpy) }
def foundB (e : Env) (more : FaultRec → Bool) : Bool :=
  (e.s.part? 0).any fun p => (p.faults.find? fun r => r.seq == some (e.b.sreg 10).toNat).any fun x => x.uid != e.t.uid && more x

theorem witness_FaultReturns :
    (∀ w ∈ ([.iretResume { f0 with d := 1, a := 11 }, .iretKill { f0 with d := 1, a := 11 }, .iretCancel { f0 with d := 1, a := 11 }] : List Instr).map
      (fun i => ((i, labFaulted false, Env.anyTag, fun e => (e.s.part? 0).any fun p => (p.faults.find? fun r => r.seq == some (e.b.sreg 11).toNat).isNone) : Wit)), Meets w) ∧
    (∀ w ∈ ([(.iretResume { f0 with d := 1, a := 10 }, labFaulted false, Env.anyTag, fun e => foundB e fun x => !x.eng && !x.we &&
        (e.s.team? x.uid).any fun t => t.stop == .none && !t.dbgStopped && t.braids.any fun b => b.stop == .fault x.id),
      (.iretKill { f0 with d := 1, a := 10 }, labFaulted false, Env.anyTag, fun e => foundB e fun _ => (e.s.teams.filter fun t => t.uid == e.t.uid).length == 1),
      (.iretCancel { f0 with d := 1, a := 10 }, labFaulted false, Env.anyTag, fun e => foundB e (!·.eng)),
      (.iretCancel { f0 with d := 1, a := 10 }, labFaulted true, Env.anyTag, fun e => foundB e fun x => x.eng && !x.we &&
        (e.s.team? x.uid).any fun t => t.uid == x.uid && t.status == .running && (t.trackers.getD x.trk none).any fun c => !credits c.inst),
      (.tlbi { f0 with a := 10, b := 10 }, labP 65536 0, Env.anyTag, fun e => (e.b.sreg 10).toNat == 65536),
      (.tlbi { f0 with a := 10, b := 11 }, labFaulted false, Env.anyTag, fun e => (e.b.sreg 11).toNat + 1 == 65536)] : List Wit), Meets w) :=
  ⟨meets_all (by decide +kernel), meets_all (by decide +kernel)⟩

def labWaits1 (base : Nat) : State := withPart (labM 3 []) fun p => { (p.setReg 0x0010 0 base).setReg 0x0011 0 4 with faultWait := [labFaultRec false] }
theorem witness_WalksAndFaultQueue :
    ((match translate (labM 3 []) 0 0 0x60000 .read with
      | (_, .ok _) => true
      | _ => false) && match translate (labM 3 []) 0 0 0x80000000 .read with
      | (_, .error _) => true
      | _ => false) = true ∧
    (((labWaits1 0).part? 0).any fun p => p.faultWait.length == 1 && p.reg 0x0010 0 == 0) = true ∧
    (((labWaits1 0x60000).part? 0).any fun p => decide (p.reg 0x0012 0 - p.reg 0x0013 0 < p.reg 0x0011 0) && decide (p.reg 0x0010 0 ≠ 0) &&
      match writeBytes (labWaits1 0x60000) 0 0 0x60000 { labFaultRec false with seq := some 0 }.bytes with
      | (_, .ok ()) => true
      | _ => false) = true := by
  refine ⟨?_, ?_, ?_⟩ <;> decide +kernel

/-! The platform -/

def labRegion (area : Option Nat) : Region := { base := 0x60000, len := 4096, rkey := 1, ctx := 0, qp := none, area }
/-- Queue pair 1 at host port 0, which expects packet 0. -/
def labQp : QueuePair := { num := 1, port := 0, mtu := 1024, psn := 0, write := none, error := false }
/-- An open partition with queue pair 1 and a region, landing area 0 where `area` says so. -/
def labOpen (area : Option Nat) : State := withPart (labM 3 []) fun p => { (p.setReg 0x0510 0 0x60000).setReg 0x0511 0 4096 with
  open_ := true, qps := [labQp], regions := [labRegion area], dumps := [{ off := 0, len := 8, vblk := 0, time := 0, sent := false }] }
/-- A write of the last 128 bytes of the region. -/
def labRdma : RdmaWrite := { part := 0, port := 0, qp := 1, op := .only, psn := 0, rkey := 1, addr := 0x60F80, len := 128, data := leBytes 128 1 }
def labWrite : HostWrite := ⟨1, 0x60F80, 128, 128⟩

theorem witness_HostPorts :
    ((labM 3 []).part? 0).any (fun p => !p.open_) = true ∧
    (((labOpen none).part? 0).any fun p => p.open_ && !p.wiping && p.qps.any (fun q => q.num == 1 && !q.error) && p.qps.all (·.num != 2) && decide (p.qps.length < 64) &&
      decide (p.regions.length < 64) && portOk p 0 && !portOk p 2) = true ∧
    (labQp.port = labRdma.port ∧ labQp.port ≠ ({ labRdma with port := 1 } : RdmaWrite).port ∧ labQp.psn = labRdma.psn ∧ packetWrite labQp labRdma = some labWrite ∧
      packetWrite labQp { labRdma with op := .last } = none ∧ packetWrite labQp { labRdma with op := .first, data := leBytes 1024 1, len := 1025 } = some ⟨1, 0x60F80, 1025, 1025⟩ ∧
      packetWrite { labQp with write := some ⟨1, 0x60F80, 1025, 1025⟩ } { labRdma with op := .middle, data := leBytes 1024 1 } = some ⟨1, 0x60F80, 1025, 1025⟩ ∧
      packetWrite { labQp with write := some labWrite } { labRdma with op := .last } = some labWrite ∧
      ({ labRdma with psn := 1 } : RdmaWrite).psn = (labQp.psn + 1) % 2 ^ 24 ∧ labQp.psn = (({ labRdma with psn := 2 ^ 24 - 1 } : RdmaWrite).psn + 1) % 2 ^ 24) ∧
    (({ num := 2, port := 0, mtu := 1024, psn := 5 } : QpSpec).mtu = 1024 ∧ ({ num := 2, port := 2, mtu := 1024, psn := 5 } : QpSpec).port = 2 ∧
      ({ num := 2, port := 0, mtu := 512, psn := 5 } : QpSpec).mtu ≠ 1024 ∧ (labRegion none).len % 128 = 0 ∧ (labRegion none).area = none ∧
      ({ labRegion none with len := 4097 } : Region).len % 128 ≠ 0 ∧ (labRegion (some 0)).area = some 0 ∧ (labRegion (some 0)).qp = none ∧
      3 ≤ ({ labOpen none with bootstage := 3 } : State).bootstage ∧ (labOpen (some 0)).clock = 0) ∧
    ([none, some 0].all fun area => ((labOpen area).part? 0).any fun p => ((p.regions.map (regionNow p)).find? (regionTakes 1 1 0x60F80 128)).isSome &&
      p.regions.all (fun x => !regionTakes 1 1 0x60F81 128 (regionNow p x)) && match writeBytes (labOpen area) 0 0 labRdma.addr labRdma.data with
      | (_, .ok ()) => true
      | _ => false) = true ∧
    ([{ labQp with error := true }].any fun (q : QueuePair) => q.num == 1 && q.error) = true ∧
    (((labOpen none).part? 0).any fun p => (p.dumps.find? (!·.sent)).isSome) = true ∧ ((labM 3 []).part? 0).any (fun p => p.dumps.all (·.sent)) = true ∧
    (3 ≤ ({ labM 3 [] with bootstage := 3 } : State).bootstage ∧ (labM 3 []).idKey = true ∧ (labM 3 []).bootstage < 3) ∧
    64 ≤ (List.replicate 64 labQp).length := by
  refine ⟨?_, ?_, ?_, ?_, ?_, ?_, ?_, ?_, ?_, ?_⟩ <;> decide +kernel

def labReading : PowerReading := { pkgW := 100, partW := 100, temp := 0, proc := 0, vcore := 0 }
/-- Core 1 holds team 2 for 2 ms, alone in its unit; it is hotter than its limit, and as hot. -/
def labHot : State := { withLaunch labTwo ({ · with groups := [] }) with clock := 3500000 }

theorem witness_PowerAndTime :
    ((corePart labHot 1).any fun p => decide (p.reg 0x0413 0 < p.reg 0x0413 0 + 1) && (labHot.team? 2).any fun t => t.core == 1 && t.status == .running && !t.isSup &&
      !t.stopping && decide (t.since + 2 * msClocks = labHot.clock) && (labHot.launchOf t).any (fun n => unitGangs n t.index == []) &&
      (labHot.part? t.part).isSome && (unitTeams labHot t).contains t && (labHot.launchOf t).any fun n => !allIdem labHot n (unitOf n t.index)) = true ∧
    ((corePart labTwo 1).any fun _ => labTwo.teams.all fun t => decide (labTwo.clock < t.since + 2 * msClocks)) = true ∧
    ((labTwo.part? 0).any fun p => decide (p.stage < 5) && labTwo.hot.isEmpty && decide (p.floor ≤ 100) && decide (p.ceil < 4501) && bitAt p.quarters 0) = true ∧
    ((withPart labTwo ({ · with stage := 5, floor := 101 })).part? 0).any (fun p => decide (5 ≤ p.stage) && decide (labReading.partW < p.floor)) = true ∧
    ((withLaunch labTwo ({ · with prio := 1 })).launches.all fun n => n.part != 0 || n.prio != 0) = true ∧
    (match writeBytes labSave 0 0 0x60000 (telemetryBytes labSave ((labSave.part? 0).getD (Partition.reset 0)) labReading) with
      | (_, .ok ()) => true
      | _ => false) = true ∧
    (labTwo.ptpLocked = false ∧ (0 : Int) ≤ (labTwo.time : Int) - 0 ∧ labTwo.ptpSynced = false ∧ (200 : Int).natAbs ≤ 200 ∧ 200 < (-201 : Int).natAbs) := by
  refine ⟨?_, ?_, ?_, ?_, ?_, ?_⟩ <;> decide +kernel

/-- A bring-up of a whole device whose image verifies. -/
def labBring : BringUp := { sigOk := true, keyDigest := State.reset.fusedKey, testImage := true, romMeas := [], rootMeas := [], policyMeas := [],
                            shape := 0, supslots := [], sched := [], routes := [], cxl := [] }
/-- The root runs; partition 0 is being wiped. -/
def labWiping : State := { State.reset with bootstage := 3, boot := some labBring, parts := [{ Partition.reset 0 with wiping := true, stage := 3 }] }

theorem witness_ResetsAndWipes :
    (State.reset.part? 0).isSome = true ∧ labWiping.lcNext = none ∧ 3 = labWiping.lcstate + 1 ∧ State.reset.bootstage < 2 ∧ 2 ≤ labWiping.bootstage ∧
    (labBring.sigOk = true ∧ labBring.keyDigest = State.reset.fusedKey ∧ labBring.testImage = true ∧ labBring.fails = none) ∧
    ({ labBring with sigOk := false } : BringUp).sigOk ≠ true ∧ ({ labBring with fails := some 1 } : BringUp).fails = some 1 ∧
    (labWiping.part? 0).any (fun p => p.wiping && p.stage == 3 && !p.stuck && (labWiping.boot.any fun b => b.shape == 0)) = true ∧
    ({ labWiping with lcNext := some 3 } : State).parts.all (fun q => q.num == 0) = true ∧
    ({ labWiping with lcNext := some 3, parts := labWiping.parts ++ [{ Partition.reset 1 with wiping := true }] } : State).parts.any (fun q => q.num != 0 && q.wiping) = true ∧
    ((State.reset.part? 0).any fun p => limitGazebo State.reset p 0x0410 1 && limitGazebo State.reset p 0x0410 40 && !limitGazebo State.reset p 0x0410 1001 &&
      limitGazebo State.reset p 0x0411 100 && limitGazebo State.reset p 0x0411 4500 && !limitGazebo State.reset p 0x0411 99) = true ∧
    ((regRow 0x0410).any fun x => x.access == .g) = true ∧ 0 < regCount 0x0410 := by
  refine ⟨?_, ?_, ?_, ?_, ?_, ?_, ?_, ?_, ?_, ?_, ?_, ?_, ?_, ?_⟩ <;> decide +kernel

/-- Debug slot 0 names the launch, with STOP and SAMPLE; breakpoint 0 is at offset 64 of its code, where a safe point
stands with S set; every fourth clock is sampled, and the group issues now. -/
def labBreak : State := { withBraid (withLaunch (withPart (({ labDbg 3 with clock := 4 } : State).place (loadCode + 64) [4]) fun p =>
  ((((p.setReg 0x0308 0 0).setReg 0x0309 0 1).setReg 0x0315 0 4).setReg 0x0310 0 0x60000).setReg 0x0311 0 2) ({ · with spt := [64] }))
    ({ · with slot := 1 }) with cur := { uid := 1, rank := 0, lanes := 3, pc := 64, second := false } }
/-- The conditions under which the group at 64 meets breakpoint 0, but for the team's own stop. -/
def meetsB (s : State) (pc bp : Nat) : Bool :=
  (s.team? 1).any fun t => (s.part? t.part).any fun p => t.braids[0]?.any fun b => breakpointHits s p t pc bp && safePointAt s t pc && b.groupAt pc != 0 &&
    b.groupAt pc &&& ~~~ b.passed != 0 && b.handler.isNone && t.status == .running
def labStop (f : Team → Team) : State := withTeam labBreak fun t => f { t with stop := .debug 1 0 0 64 3 }
def sampleB (s : State) (due full : Bool) : Bool :=
  (s.team? 1).any fun t => (s.part? t.part).any fun p => t.braids[0]?.any fun b =>
    ((p.reg 0x0315 0 != 0 && s.clock % p.reg 0x0315 0 == 0 && t.core == 0 && b.slot % 4 == s.clock / p.reg 0x0315 0 % 4 &&
      s.cur.uid == 1 && s.cur.rank == 0 && !s.cur.second && !s.issued.any (·.1 == sideOf 0 b.slot) && s.dbgFlag t 1) == due) &&
    (decide (p.reg 0x0311 0 ≤ p.reg 0x0312 0 - p.reg 0x0313 0) == full)
def labTraceRec : TraceRec := { type := 2, launch := 0, team := 0, ord := 0, off := 64, lanes := 3, data0 := 1, data1 := 0, rank := 0, stamp := 0 }
def postsB (s : State) (y : TraceRec) (full : Bool) : Bool :=
  (s.part? 0).any fun p => (decide (p.reg 0x0311 0 ≤ p.reg 0x0312 0 - p.reg 0x0313 0) == full) &&
    (full || match writeBytes s p.num 0 (p.reg 0x0310 0 + 64 * (p.reg 0x0312 0 % p.reg 0x0311 0)) (y.bytes (p.reg 0x0312 0)) with
      | (_, .ok ()) => true
      | _ => false)
def labTrial (till : Nat) : State := withPart labBreak ({ · with trial := some { launch := 0, del := 5, g := 70, start := 1, till } })

/-- A breakpoint met, met in a stopped team, one whose location is another; a stop that waits and one that does not; a
team that is stopped and one that is not, prepared or running; samples due, not due and with the ring full; records
with room and without; a trial that may start and may not, one that has run its time and one that has not. -/
theorem witness_DebugEvents :
    (meetsB labBreak 64 0 && (labBreak.team? 1).any (fun t => t.stop == .none && !t.dbgStopped)) = true ∧
    (meetsB (withTeam labBreak ({ · with dbgStopped := true })) 64 0) = true ∧
    (meetsB (withTeam labBreak ({ · with stop := .save })) 64 0 && (labBreak.team? 1).any fun t => t.wantStop == .none && !t.dbgStopped) = true ∧
    ((labStop ({ · with stopSince := 4 })).team? 1).any (fun t => t.stop == .debug 1 0 0 64 3 && !t.dbgStopped) = true ∧
    ((labBreak.team? 1).any fun t => (labBreak.part? 0).any fun p => !breakpointHits labBreak p t 68 0 && !safePointAt labBreak t 72) = true ∧
    (((labStop id).team? 1).any fun t => !t.stopped && t.stop == .debug 1 0 0 64 3) = true ∧
    (((labStop fun t => { t with braids := t.braids.map ({ · with stop := .safePoint }) }).team? 1).any fun t => t.stopped && t.stop == .debug 1 0 0 64 3) = true ∧
    ([(true, TeamStatus.running), (false, .running), (true, .prepared), (true, .restored)].all fun x =>
      let s := withTeam labBreak ({ · with dbgStopped := x.1, status := x.2 })
      (teamAt s 0 1).any fun t => t.dbgStopped == x.1 && t.status == x.2 && decide (s.team? t.uid = some t)) = true ∧
    (sampleB labBreak true false && sampleB { labBreak with clock := 8 } false false && sampleB (withPart labBreak fun p => p.setReg 0x0312 0 2) true true &&
      postsB labBreak (traceOf labBreak (labTeam 3 []) 1 0 64 3 0 0) false) = true ∧
    (postsB labBreak labTraceRec false && postsB (withPart labBreak fun p => p.setReg 0x0312 0 2) labTraceRec true) = true ∧
    ((labBreak.part? 0).any fun p => trialOk p (2 ^ 32 + 1) && !trialOk p 1 && !trialOk p (2 ^ 32) && p.trial.isNone) = true ∧
    (((labTrial 4).part? 0).any fun p => p.trial.any fun x => decide (x.till ≤ (labTrial 4).clock)) = true ∧
    (((labTrial 5).part? 0).any fun p => p.trial.any fun x => decide ((labTrial 5).clock < x.till) && !trialOk p (2 ^ 32 + 1)) = true ∧
    (((labTrial 5).team? 1).any fun t => t.braids[0]?.any fun b => follyHeld (labTrial 5) t b && !follyHeld (labTrial 5) t { b with follyC := 70 }) = true := by
  refine ⟨?_, ?_, ?_, ?_, ?_, ?_, ?_, ?_, ?_, ?_, ?_, ?_, ?_, ?_⟩ <;> decide +kernel

/-- The supervisor's machine of `witness_SavesAndRestores` whose team 2 has a faulted command, or runs. -/
theorem witness_SavesAndRestores_stands :
    ∀ w ∈ ([(labCtxsv, withScalar (labSave.modTeam 2 fun t => { t with trackers := t.trackers.set 0 ((labCmd labCpy).map ({ · with fault := some 3 })) }) 3 68,
        Env.anyTag, fun e => handleB e [5, 6] [] [] 1 && (teamAt (hState e) 0 68).any fun u => u.trackers.any fun o => o.any (·.fault.isSome)),
      (labCtxsv, withScalar (labSave.modTeam 2 fun t => { t with braids := t.braids.map ({ · with stop := .running }) }) 3 68,
        Env.anyTag, fun e => handleB e [5, 6] [] [] 1 && (teamAt (hState e) 0 68).any fun u => u.trackers.all (·.isNone) && !teamStands (hState e) u)]
      : List Wit), Meets w := meets_all (by decide +kernel)

end Sys2Proof.Tests
end

section
/-! SUPPORT. The frame of R157 for instructions on integer elements, integers narrowed into a format (R92), and the
quotient and the remainder of R163. -/

namespace Sys2Proof.Machine

/-- An instruction at its issue reads its own fields. -/
theorem Issues.fields_eq {i : Instr} {n : Info} {s : State} {e : Env} (h : Issues i n s e) : e.f = i.fields := by
  rw [h.f_eq, Instr.fields, h.info]

/-! Elements -/

/-- What lies above the elements of a packed register is zero (R90). -/
theorem fromElems_lt (t : Tag) (es : List Nat) (h : es.length ≤ fmtCount t) :
    (fromElems t es).toNat < 2 ^ (fmtWidth t * fmtCount t) := by
  rw [fromElems, word, BitVec.toNat_ofNat]
  calc packElems (fmtWidth t) es % 2 ^ 64
      ≤ packElems (fmtWidth t) es := Nat.mod_le _ _
    _ < 2 ^ (fmtWidth t * es.length) := packElems_lt _ _
    _ ≤ 2 ^ (fmtWidth t * fmtCount t) := Nat.pow_le_pow_right (by decide) (Nat.mul_le_mul_left _ h)

/-- An operation on the integer elements of A and B writes what it forms of each pair, where that fits an element. -/
theorem writesInts_of_intBin {i : Instr} {f : Fields} {g : Env → Int → Int → Nat} {r : Env → Nat → Nat → Int}
    (hf : i.fields = f) (hexec : ∀ s, exec i s = perform i s fun e => intBin e (g e))
    (hlt : ∀ e a b, g e a b < 2 ^ fmtWidth f.f)
    (hval : ∀ e l k, e.f = f → intVal f.f (g e (e.intA l k) (e.intB l k)) = r e l k) :
    WritesInts i f.f Env.tagsAB r := by
  intro n s e h ht
  have he : e.f = f := h.fields_eq.trans hf
  refine ⟨fun l => mapElems2 f.f (fun _ a b => g e (intVal f.f a) (intVal f.f b)) (e.srcA l) (e.srcB l), ?_, ?_⟩
  · rw [Writes, hexec, perform_body h, intBin, he]
    rw [Env.tagsAB, he] at ht
    rw [withTags_go ht]
  · intro l _
    refine ⟨fromElems_lt _ _ (by simp), fun k hk => ?_⟩
    rw [mapElems2_elem _ _ _ _ _ hk, Nat.mod_eq_of_lt (hlt e _ _)]
    simpa only [Env.intA, Env.intB, he] using hval e l k he

/-! The range of an integer format -/

theorem intMin_nonpos (t : Tag) : intMin t ≤ 0 := by
  unfold intMin
  split
  · exact Int.neg_nonpos_of_nonneg (Int.natCast_nonneg _)
  · exact Int.le_refl 0

theorem intMax_nonneg (t : Tag) : 0 ≤ intMax t := by
  have h (w : Nat) : (0 : Int) < Int.ofNat (2 ^ w) := Int.ofNat_lt.2 (Nat.two_pow_pos w)
  unfold intMax
  split
  · exact Int.sub_nonneg_of_le (h _)
  · exact Int.sub_nonneg_of_le (h _)

theorem intMin_of_signed {t : Tag} (h : isSigned t = true) : intMin t = -2 ^ (fmtWidth t - 1) := by simp [intMin, h]
theorem intMax_of_signed {t : Tag} (h : isSigned t = true) : intMax t = 2 ^ (fmtWidth t - 1) - 1 := by simp [intMax, h]
theorem intMin_of_unsigned {t : Tag} (h : isSigned t = false) : intMin t = 0 := by simp [intMin, h]
theorem intMax_of_unsigned {t : Tag} (h : isSigned t = false) : intMax t = 2 ^ fmtWidth t - 1 := by simp [intMax, h]

/-- A format of width w has 2^w values, half of them on each side of zero where it is signed. -/
theorem two_pow_fmtWidth (t : Tag) : (2 : Int) ^ fmtWidth t = 2 * 2 ^ (fmtWidth t - 1) := by
  rw [← Int.pow_succ', Nat.sub_add_cancel (fmtWidth_pos t)]

/-- Clamping is to the bounds of the format (R92). -/
theorem clampedInt_eq (t : Tag) (v : Int) : clampedInt t v = max (intMin t) (min (intMax t) v) := by
  cases h : isSigned t
  · simp [clampedInt, h, intMin_of_unsigned, intMax_of_unsigned]
  · simp [clampedInt, h, intMin_of_signed, intMax_of_signed]

/-- A value of the format is not changed by wrapping. -/
theorem wrappedInt_of_mem {t : Tag} {v : Int} (hlo : intMin t ≤ v) (hhi : v ≤ intMax t) : wrappedInt t v = v := by
  have hp := two_pow_fmtWidth t
  cases h : isSigned t
  · rw [intMin_of_unsigned h] at hlo
    rw [intMax_of_unsigned h] at hhi
    simp only [wrappedInt, h, Bool.false_eq_true, if_false]
    exact Int.emod_eq_of_lt hlo (by omega)
  · rw [intMin_of_signed h] at hlo
    rw [intMax_of_signed h] at hhi
    simp only [wrappedInt, h, if_true]
    exact Int.bmod_eq_of_le (by push_cast; omega) (by push_cast; omega)

/-- An element is a value of its format. -/
theorem intVal_mem {t : Tag} {x : Nat} (hx : x < 2 ^ fmtWidth t) : intMin t ≤ intVal t x ∧ intVal t x ≤ intMax t := by
  have hp := two_pow_fmtWidth t
  have hx' : (x : Int) < 2 ^ fmtWidth t := by exact_mod_cast hx
  cases h : isSigned t
  · simp only [intMin_of_unsigned h, intMax_of_unsigned h, intVal, h, Bool.false_eq_true, if_false, Int.ofNat_eq_natCast]
    omega
  · simp only [intMin_of_signed h, intMax_of_signed h, intVal, h, if_true, signed, Nat.mod_eq_of_lt hx,
      Int.ofNat_eq_natCast]
    split
    · next hlt =>
      have : (x : Int) < 2 ^ (fmtWidth t - 1) := by exact_mod_cast hlt
      omega
    · next hge =>
      have : (2 : Int) ^ (fmtWidth t - 1) ≤ x := by exact_mod_cast Nat.le_of_not_lt hge
      push_cast
      omega

theorem intA_mem (e : Env) (l k : Nat) : intMin e.f.f ≤ e.intA l k ∧ e.intA l k ≤ intMax e.f.f :=
  intVal_mem (elemOf_lt _ _ _)

/-- The value of a wrapped element whose exact value is in range. -/
theorem intVal_wrapInt_of_mem {t : Tag} {v : Int} (hlo : intMin t ≤ v) (hhi : v ≤ intMax t) :
    intVal t (wrapInt (fmtWidth t) v) = v := by
  rw [intVal_wrapInt, wrappedInt_of_mem hlo hhi]

/-- Narrowing clamps or wraps (R92). -/
theorem intVal_narrowInt (t : Tag) (v : Int) (sat : Bool) :
    intVal t (narrowInt t v sat) = if sat then clampedInt t v else wrappedInt t v := by
  have h0 := intMin_nonpos t
  have h1 := intMax_nonneg t
  cases sat
  · exact intVal_wrapInt t v
  · rw [narrowInt, if_pos rfl, if_pos rfl, clampedInt_eq]
    exact intVal_wrapInt_of_mem (by omega) (by omega)

/-! Quotient and remainder (R163) -/

/-- The quotient of a division by zero: the greatest value, or the least of a negative dividend. -/
theorem intVal_intDiv_zero (t : Tag) (sat : Bool) (a : Int) :
    intVal t (intDiv t sat a 0) =
      if isSigned t then (if 0 ≤ a then 2 ^ (fmtWidth t - 1) - 1 else -2 ^ (fmtWidth t - 1)) else 2 ^ fmtWidth t - 1 := by
  have h0 := intMin_nonpos t
  have h1 := intMax_nonneg t
  simp only [intDiv, beq_self_eq_true, if_true]
  cases h : isSigned t
  · have hp : 1 ≤ 2 ^ fmtWidth t := Nat.two_pow_pos _
    simp only [intVal, h, Bool.false_eq_true, if_false, Int.ofNat_eq_natCast, Int.natCast_sub hp, Int.natCast_pow]
    rfl
  · rw [if_pos rfl, if_pos rfl, ← intMax_of_signed h, ← intMin_of_signed h]
    split
    · exact intVal_wrapInt_of_mem (by omega) (Int.le_refl _)
    · exact intVal_wrapInt_of_mem (Int.le_refl _) (by omega)

/-- The quotient of a division by another number, narrowed (R92). -/
theorem intVal_intDiv {b : Int} (hb : b ≠ 0) (t : Tag) (sat : Bool) (a : Int) :
    intVal t (intDiv t sat a b) = if sat then clampedInt t (Int.tdiv a b) else wrappedInt t (Int.tdiv a b) := by
  have : (b == 0) = false := by simpa using hb
  simp only [intDiv, this, Bool.false_eq_true, if_false]
  exact intVal_narrowInt _ _ _

theorem intDiv_lt (t : Tag) (sat : Bool) (a b : Int) : intDiv t sat a b < 2 ^ fmtWidth t := by
  unfold intDiv
  split
  · split
    · exact wrapInt_lt _ _
    · exact Nat.sub_lt (Nat.two_pow_pos _) Nat.one_pos
  · exact wrapInt_lt _ _

/-- A remainder lies between zero and its dividend, whatever the divisor. -/
theorem tmod_between (a b : Int) : min 0 a ≤ Int.tmod a b ∧ Int.tmod a b ≤ max 0 a := by
  have habs : (Int.tmod a b).natAbs ≤ a.natAbs := by
    rw [Int.natAbs_tmod]; exact Nat.mod_le _ _
  rcases Int.le_total 0 a with h | h
  · have := Int.tmod_nonneg b h
    omega
  · have := Int.tmod_nonneg b (Int.neg_nonneg_of_nonpos h)
    rw [Int.neg_tmod] at this
    omega

/-- The remainder of a value of the format is exact: it never leaves the range. -/
theorem intVal_intRem {t : Tag} {a : Int} (hlo : intMin t ≤ a) (hhi : a ≤ intMax t) (b : Int) :
    intVal t (intRem t a b) = if b = 0 then a else a - b * Int.tdiv a b := by
  have h0 := intMin_nonpos t
  have h1 := intMax_nonneg t
  have h2 := tmod_between a b
  by_cases hb : b = 0
  · simp only [intRem, hb, beq_self_eq_true, if_true]
    exact intVal_wrapInt_of_mem hlo hhi
  · have : (b == 0) = false := by simpa using hb
    simp only [intRem, this, hb, Bool.false_eq_true, if_false, ← Int.tmod_def]
    exact intVal_wrapInt_of_mem (by omega) (by omega)

/-- Settles O13: the quotient is narrowed under R92, the remainder is exact, and a divisor of zero has its own row. -/
theorem division : Obligations.Division := by
  intro f
  constructor
  · refine writesInts_of_intBin (g := fun e => intDiv f.f (intSat e.b.nmode f.f)) rfl (fun _ => rfl)
      (fun _ _ _ => intDiv_lt _ _ _ _) fun e l k he => ?_
    by_cases hb : e.intB l k = 0
    · rw [if_pos hb, hb, intVal_intDiv_zero]
    · rw [if_neg hb, intVal_intDiv hb, Env.narrowed, he]
  · refine writesInts_of_intBin (g := fun _ => intRem f.f) rfl (fun _ => rfl)
      (fun _ _ _ => wrapInt_lt _ _) fun e l k he => ?_
    have ha := intA_mem e l k
    rw [he] at ha
    exact intVal_intRem ha.1 ha.2 _

end Sys2Proof.Machine
end

section
/-! SUPPORT. What the checks of a well-formed encoding leave of its fields (R141). -/

namespace Sys2Proof.Machine

open Laws.Assembles (orElse_none need_none)

/-- A well-formed instruction draws no complaint. -/
theorem illegal_none_of_wellFormed {i : Instr} {n : Info} (hi : i.info = some n) (h : i.wellFormed = true) :
    n.illegal = none := by
  simp only [Instr.wellFormed, hi, Bool.and_eq_true, Option.isNone_iff_eq_none] at h
  exact h.2

/-- What a legal encoding's fields meet: the checks of D, A, B, C, H, E, F, X and L complain of nothing (R141). -/
structure LegalFields (n : Info) : Prop where
  d : n.shape.d.check n.shape.kinds n.fields.kindD n.fields.d 1 = none
  a : n.shape.a.check n.shape.kinds n.fields.kindA n.fields.a 2 = none
  b : n.shape.b.check n.shape.kinds n.fields.kindB n.fields.b 3 = none
  c : n.shape.c.check n.shape.kinds n.fields.kindC n.fields.c 4 = none
  h : n.shape.h = none
  e : n.shape.e = none
  f : n.shape.f = none
  x : n.shape.x = none
  l : n.shape.l = none

theorem legal_of_illegal_none {n : Info} (h : n.illegal = none) : LegalFields n := by
  simp only [Info.illegal] at h
  split at h
  · simp at h
  · split at h
    · simp at h
    · obtain ⟨hd, h⟩ := orElse_none h
      obtain ⟨ha, h⟩ := orElse_none h
      obtain ⟨hb, h⟩ := orElse_none h
      obtain ⟨hc, h⟩ := orElse_none h
      obtain ⟨hh, h⟩ := orElse_none h
      obtain ⟨he, h⟩ := orElse_none h
      obtain ⟨hf, h⟩ := orElse_none h
      obtain ⟨hx, hl⟩ := orElse_none h
      exact ⟨hd, ha, hb, hc, hh, he, hf, hx, hl⟩

theorem legal_of_wellFormed {i : Instr} {n : Info} (hi : i.info = some n) (h : i.wellFormed = true) : LegalFields n :=
  legal_of_illegal_none (illegal_none_of_wellFormed hi h)

theorem unused_none {isZero : Bool} {k : Nat} (h : unused isZero k = none) : isZero = true := by
  cases isZero with
  | true => rfl
  | false => simp [unused] at h

/-- A legal predicate field of a class with kind bits names p0 to p7, and its kind bit is zero (R138). -/
theorem pred_check_none {kind : Bool} {v : BitVec 7} {k : Nat} (h : Role.check .pred true kind v k = none) :
    v.toNat < 8 ∧ kind = false := by
  simpa [Role.check] using need_none h

end Sys2Proof.Machine
end

section
/-! SUPPORT. Sum and difference with a carry, and the fields that its encoding fixes (R139, R162). -/

namespace Sys2Proof.Machine

open Laws.Assembles (need_none)

/-- The sum modulo 2^64, and its carry. -/
theorem addCarry_spec (a b : Nat) (c : Bool) :
    (addCarry a b c).1.toNat = (a + b + if c then 1 else 0) % 2 ^ 64 ∧
    ((addCarry a b c).2 = true ↔ 2 ^ 64 ≤ a + b + if c then 1 else 0) :=
  ⟨BitVec.toNat_ofNat .., decide_eq_true_iff⟩

/-- The difference modulo 2^64, and its borrow. -/
theorem subBorrow_spec (a b : Nat) (c : Bool) :
    ((subBorrow a b c).1.toNat : Int) = ((a : Int) - b - if c then 1 else 0) % 2 ^ 64 ∧
    ((subBorrow a b c).2 = true ↔ (a : Int) - b - (if c then 1 else 0) < 0) := by
  have hbit : Int.ofNat (bit c) = if c then 1 else 0 := by cases c <;> rfl
  constructor
  · rw [subBorrow, word, BitVec.toNat_ofNat, wrapInt_mod, ← hbit]
    exact wrapInt_cast _ _
  · rw [subBorrow, decide_eq_true_iff, ← hbit, Int.ofNat_eq_natCast]
    omega

/-- With tagged operands, ADDC and SUBB write D and the predicate that H names. -/
theorem exec_of_carryOp {i : Instr} {n : Info} {s : State} {e : Env} {g : Nat → Nat → Bool → Word × Bool}
    (hexec : exec i s = perform i s fun e => carryOp e g) (h : Performs i n s e)
    (ht : e.tagged [e.checkA 8, e.checkB 8]) :
    exec i s = .next (finish e (.go (e.writePred
      (e.writeD (fun l => (g (e.srcA l).toNat (e.srcB l).toNat ((e.b.lane l).pred e.f.c.toNat)).1) fun _ => 8)
      (e.f.h.toNat % 8) fun l => (g (e.srcA l).toNat (e.srcB l).toNat ((e.b.lane l).pred e.f.c.toNat)).2))) := by
  rw [hexec, perform_body h, carryOp, withTags_go ht]

/-! The encodings and the operands of R139 and R162 -/

/-- The fields that R162 fixes in ADDC and SUBB, which have one row of checks. -/
theorem fields_of_carry_wellFormed {i : Instr} {f : Fields} {op : Nat}
    (hi : i.info = some ⟨f, op, .lane, laneShape lenA .reg .reg (srcB f) .pred (variantZero f)
      (need (f.f == 8) 8) (need (f.h.toNat < 8) 5)⟩)
    (h : i.wellFormed = true) : f.f = 8 ∧ f.h.toNat < 8 ∧ f.c.toNat < 8 ∧ f.kindC = false := by
  have hl := legal_of_wellFormed hi h
  exact ⟨by simpa using need_none hl.f, by simpa using need_none hl.h, pred_check_none hl.c⟩

/-- A write to p0 is discarded (R57). -/
theorem setPred_zero (x : Lane) (v : Bool) : x.setPred 0 v = x := rfl

/-- The immediate of the 96-bit form under N64 is sign-extended (R139). -/
theorem srcB_of_imm64 (e : Env) (l : Nat) (hlen : e.f.len = 1) (hf : e.f.f = 8) : e.srcB l = e.f.e.signExtend 64 := by
  simp [Env.srcB, immOperand, hlen, hf, fmtWidth]

/-- Settles O14: each of ADDC and SUBB writes the two components of its carry operation. -/
theorem carries : Obligations.Carries := by
  intro f
  refine ⟨fun n s e h ht => ?_, fun n s e h ht => ?_, ?_, setPred_zero, srcB_of_imm64⟩
  · have he : e.f = f := h.fields_eq
    have hx := exec_of_carryOp (g := addCarry) rfl h ht
    rw [he] at hx
    exact ⟨_, _, hx, fun l _ => addCarry_spec _ _ _⟩
  · have he : e.f = f := h.fields_eq
    have hx := exec_of_carryOp (g := subBorrow) rfl h ht
    rw [he] at hx
    exact ⟨_, _, hx, fun l _ => subBorrow_spec _ _ _⟩
  · rintro (h | h)
    · exact fields_of_carry_wellFormed rfl h
    · exact fields_of_carry_wellFormed rfl h

end Sys2Proof.Machine
end

section
/-! SUPPORT. The lanes of a mask where a test holds, and what VOTE and MATCH make of them (R181, R182). -/

namespace Sys2Proof.Machine

/-- The mask of the lanes of m where q holds. -/
theorem maskOf_filter_bit (m : Mask) (q : Nat → Bool) (k : Nat) :
    (maskOf ((Mask.lanes m).filter q)).getLsbD k = (m.getLsbD k && q k) := by
  rw [maskOf_bit _ _ fun l hl => lanes_lt (List.mem_filter.1 hl).1, Bool.eq_iff_iff]
  simp only [List.contains_iff_mem, List.mem_filter, mem_lanes, Bool.and_eq_true]
  exact and_congr_left fun _ => and_iff_right_of_imp BitVec.lt_of_getLsbD

/-- Of the lanes of m, those where q holds are those of m where q holds. -/
theorem filter_lanes_and (m : Mask) (q : Nat → Bool) :
    ((Mask.lanes m).filter fun l => m.getLsbD l && q l) = (Mask.lanes m).filter q :=
  List.filter_congr fun l hl => by rw [((mem_lanes m l).1 hl).2, Bool.true_and]

/-- It is all of m where q holds in every lane of m. -/
theorem maskOf_filter_eq_self (m : Mask) (q : Nat → Bool) :
    (maskOf ((Mask.lanes m).filter q) == m) = true ↔ ∀ k ∈ Mask.lanes m, q k = true := by
  rw [beq_iff_eq]
  constructor
  · intro h k hk
    have hb := maskOf_filter_bit m q k
    rw [h, ((mem_lanes m k).1 hk).2] at hb
    simpa using hb.symm
  · intro h
    refine BitVec.eq_of_getLsbD_eq fun k hk => ?_
    rw [maskOf_filter_bit]
    cases hm : m.getLsbD k
    · rfl
    · rw [h k ((mem_lanes m k).2 ⟨hk, hm⟩), Bool.and_self]

/-- It is empty where q holds in no lane of m. -/
theorem maskOf_filter_eq_zero (m : Mask) (q : Nat → Bool) :
    maskOf ((Mask.lanes m).filter q) = 0 ↔ ∀ k ∈ Mask.lanes m, q k = false := by
  refine ⟨fun h k hk => ?_, maskOf_filter_none m q⟩
  have hb := maskOf_filter_bit m q k
  rw [h, ((mem_lanes m k).1 hk).2] at hb
  simpa using hb.symm

/-- A mask as a word: bits [63:32] are zero. -/
theorem word_mask_bit (m : Mask) {k : Nat} (hk : k < 64) : (word m.toNat).getLsbD k = m.getLsbD k := by
  rw [word, BitVec.getLsbD_ofNat, BitVec.testBit_toNat, decide_eq_true hk, Bool.true_and]

/-- The word of a mask of lanes of m. -/
theorem word_maskOf_filter_bit (m : Mask) (q : Nat → Bool) {k : Nat} (hk : k < 64) :
    (word (maskOf ((Mask.lanes m).filter q)).toNat).getLsbD k = (decide (k < 32) && (m.getLsbD k && q k)) := by
  rw [word_mask_bit _ hk, maskOf_filter_bit]
  by_cases h : k < 32
  · simp [h]
  · simp [h, BitVec.getLsbD_of_ge m k (Nat.le_of_not_lt h)]

/-- The lowest lane of a mask that has one. -/
theorem lowest_mem {m : Mask} (h : m ≠ 0) : Mask.lowest m ∈ Mask.lanes m := by
  have hne : Mask.lanes m ≠ [] := by
    intro hnil
    refine h (BitVec.eq_of_getLsbD_eq fun k hk => ?_)
    have : k ∉ Mask.lanes m := by simp [hnil]
    simpa [mem_lanes, hk] using this
  rw [Mask.lowest, List.headD_eq_head?_getD, List.head?_eq_some_head hne]
  exact List.head_mem hne

/-- Every lane agrees with the lowest exactly where all agree with each other. -/
theorem forall_eq_lowest_iff {α : Type} {m : Mask} (h : m ≠ 0) (v : Nat → α) :
    (∀ k ∈ Mask.lanes m, v k = v (Mask.lowest m)) ↔ ∀ j ∈ Mask.lanes m, ∀ k ∈ Mask.lanes m, v j = v k :=
  ⟨fun he j hj k hk => (he j hj).trans (he k hk).symm, fun he k hk => he k hk _ (lowest_mem h)⟩

/-! VOTE -/

/-- The lanes P of R181. -/
def voted (e : Env) (f : Fields) : Mask := maskOf ((Mask.lanes e.act).filter fun l => (e.b.lane l).pred f.a.toNat)

/-- What VOTE writes into its predicate under X[1:0]. -/
def voteResult (variant : Nat) (p act : Mask) : Bool :=
  match variant with
  | 0 => p == act
  | 1 => p != 0
  | _ => p == 0 || p == act

theorem exec_vote (f : Fields) (s : State) : exec (.vote f) s = execVote f s := rfl

theorem exec_vote_pred {f : Fields} {n : Info} {s : State} {e : Env} (h : Performs (.vote f) n s e)
    (hv : f.variant < 3) :
    WritesPred (.vote f) s e f.d.toNat fun _ => voteResult f.variant (voted e f) e.act := by
  rw [WritesPred, exec_vote, execVote, perform_body h]
  generalize f.variant = v at hv
  match v, hv with
  | 0, _ => rfl
  | 1, _ => rfl
  | 2, _ => rfl

theorem exec_vote_ballot {f : Fields} {n : Info} {s : State} {e : Env} (h : Performs (.vote f) n s e)
    (hv : f.variant = 3) :
    Writes (.vote f) s e (fun _ => word (voted e f).toNat) fun _ => 8 := by
  rw [Writes, exec_vote, execVote, perform_body h, hv]
  rfl

/-- The result of VOTE, said of the active lanes one by one. -/
theorem voteResult_iff {v : Nat} (hv : v < 3) (m : Mask) (q : Nat → Bool) :
    voteResult v (maskOf ((Mask.lanes m).filter q)) m = true ↔
      (v = 0 ∧ ∀ k ∈ Mask.lanes m, q k = true) ∨ (v = 1 ∧ ∃ k ∈ Mask.lanes m, q k = true) ∨
      (v = 2 ∧ ((∀ k ∈ Mask.lanes m, q k = true) ∨ ∀ k ∈ Mask.lanes m, q k = false)) := by
  match v, hv with
  | 0, _ => simpa [voteResult] using maskOf_filter_eq_self m q
  | 1, _ => simpa [voteResult] using not_congr (maskOf_filter_eq_zero m q)
  | 2, _ =>
    change (_ == (0 : Mask) || _) = true ↔ _
    rw [Bool.or_eq_true, maskOf_filter_eq_self, beq_iff_eq, maskOf_filter_eq_zero, or_comm]
    simp

theorem fields_of_vote_wellFormed {f : Fields} (h : (Instr.vote f).wellFormed = true) :
    f.f = 0 ∧ f.a.toNat < 8 ∧ f.kindA = false := by
  have hl := legal_of_wellFormed rfl h
  exact ⟨by simpa using unused_none hl.f, pred_check_none hl.a⟩

/-! MATCH -/

theorem exec_matchLanes (f : Fields) (s : State) : exec (.matchLanes f) s = execMatchLanes f s := rfl

theorem exec_matchLanes_writes {f : Fields} {n : Info} {s : State} {e : Env} (h : Performs (.matchLanes f) n s e)
    (ht : e.tagged e.tagsA) :
    (f.variant = 0 → Writes (.matchLanes f) s e
      (fun l => word (maskOf ((Mask.lanes e.act).filter fun k => e.srcA k == e.srcA l)).toNat) fun _ => 8) ∧
    (f.variant = 1 → WritesPred (.matchLanes f) s e f.d.toNat fun _ =>
      maskOf ((Mask.lanes e.act).filter fun k => e.srcA k == e.srcA (Mask.lowest e.act)) == e.act) := by
  have he : e.f = f := h.fields_eq
  rw [Env.tagsA, he] at ht
  constructor
  · intro hv
    rw [Writes, exec_matchLanes, execMatchLanes, perform_body h, withTags_go ht, hv]
    rfl
  · intro hv
    rw [WritesPred, exec_matchLanes, execMatchLanes, perform_body h, withTags_go ht, hv]
    rfl

/-- Settles O21: VOTE's predicates and MATCH's masks are said of the active lanes one by one, and every lane agrees with
the lowest exactly where all agree. -/
theorem voteAndMatch : Obligations.VoteAndMatch := by
  intro f n s e
  refine ⟨fields_of_vote_wellFormed, fun h _ => ⟨fun hv => ⟨_, exec_vote_pred h hv, fun l _ => ?_⟩,
    fun hv => ⟨_, exec_vote_ballot h hv, fun l k hk => word_maskOf_filter_bit _ _ hk⟩⟩,
    fun h ht _ => ⟨fun hv => ⟨_, (exec_matchLanes_writes h ht).1 hv, fun l _ k hk => ?_⟩,
      fun hv => ⟨_, (exec_matchLanes_writes h ht).2 hv, fun l _ => ?_⟩⟩⟩
  · rw [voted, ← filter_lanes_and]
    exact voteResult_iff hv _ _
  · rw [word_maskOf_filter_bit _ _ hk, Bool.and_assoc]
  · rw [maskOf_filter_eq_self, ← forall_eq_lowest_iff h.active]
    simp

end Sys2Proof.Machine
end
